-- ==== Sys2Proof/Word.lean ====
section
/-!
DEFINITION. Word.lean: the words of the device and their plainest arithmetic.

Every multi-byte value is little-endian and fields written [hi:lo] count from bit 0 of byte 0 (R543), so a
structure of n bytes is one natural number whose bit i is bit i mod 8 of byte i div 8, and a field is read with
`bits` and written with `insBits`.
-/
namespace Sys2Proof

/-- One byte. -/
abbrev Byte := BitVec 8

/-- One 32-bit register word. -/
abbrev Word := BitVec 32

/-- One 128 B row (R28, R137, R237). -/
abbrev Row := BitVec 1024

/-- A register field: its lowest bit and its width in bits. -/
structure Fld where
  lo : Nat
  w : Nat
  deriving DecidableEq, Repr

/-- The w-bit field of x whose lowest bit is lo (R543). -/
def bits (x lo w : Nat) : Nat := (x >>> lo) % 2 ^ w

/-- Bit i of x. -/
def bit (x i : Nat) : Bool := bits x i 1 == 1

/-- x with its w-bit field at lo replaced by v. -/
def insBits (x lo w v : Nat) : Nat :=
  (x % 2 ^ lo) + ((v % 2 ^ w) <<< lo) + ((x >>> (lo + w)) <<< (lo + w))

/-- The value v as the w-bit field at lo. -/
def fv (lo w v : Nat) : Nat := (v % 2 ^ w) <<< lo

/-- A w-bit two's complement field as an integer. -/
def signed (w x : Nat) : Int := if x < 2 ^ (w - 1) then (x : Int) else (x : Int) - (2 ^ w : Nat)

/-- ceil(a ÷ b); 0 for b = 0. -/
def ceilDiv (a b : Nat) : Nat := if b = 0 then 0 else (a + b - 1) / b

/-- 1 for true, 0 for false. -/
def b2n (b : Bool) : Nat := if b then 1 else 0

/-- A counter of width w that holds at its largest value. -/
def satInc (w x : Nat) : Nat := if x + 1 < 2 ^ w then x + 1 else 2 ^ w - 1

/-- The numbers below n, ascending. -/
def upto (n : Nat) : List Nat := List.range n

end Sys2Proof
end

