-- ==== Sys2Proof/Syntax.lean ====
section
/-!
DEFINITION. Syntax.lean: the slot operations of a clause bundle, the payloads commands carry, and the commands.
-/
namespace Sys2Proof

/-- A 128 B row in flight and its poison bit (R28, R196). -/
structure FRow where
  data : Row := 0
  poison : Bool := false
  deriving DecidableEq, Repr

/-- Matrix slot operations (R216). -/
inductive MatOp where
  | nop
  | msparse (ch : BitVec 2) (half : BitVec 1) (pair : BitVec 2) (ih : BitVec 8) (xg : BitVec 6)
  | mmask (ch : BitVec 2) (ohalf : BitVec 1) (pair : BitVec 2) (ih : BitVec 8) (rb : BitVec 7) (xg : BitVec 6)
  | mdense (ch : BitVec 2) (half : BitVec 1) (pair : BitVec 2) (ih : BitVec 8) (xs : BitVec 6)
  | spill (half : BitVec 1) (first nm1 : BitVec 7) (rf clr : BitVec 1) (xd : BitVec 6)
  | accld (half : BitVec 1) (first nm1 : BitVec 7) (xs : BitVec 6)
  | accclr (half : BitVec 1) (first nm1 : BitVec 7)
  deriving DecidableEq, Repr

/-- Vector slot operation names (R218). -/
inductive VecFn where
  | vadd | vsub | vmul | vfma | vmax | vmin | vmov
  | vrcp | vrsqrt | vsqrt | vexp | vexp2 | vlog2 | vtanh | vsigm | vgelu
  | vcvt | vscan | vsum | vmaxr | vsoftmax | vrmsnorm | vlnorm | vtopk
  deriving DecidableEq, Repr

/-- Vector slot operations: every one has the fields FMT, A, B, D and MOD (R218). -/
inductive VecOp where
  | nop
  | op (fn : VecFn) (fmt : BitVec 1) (a b d : BitVec 6) (mod : BitVec 7)
  deriving DecidableEq, Repr

/-- Move slot operations (R222). -/
inductive MovOp where
  | nop
  | mcopy (xa xd : BitVec 6)
  | mfill (xd xv : BitVec 6)
  | hset (h : BitVec 8) (xl xh : BitVec 6)
  | cnc (xs xd xv : BitVec 6) (pred : BitVec 3) (ty : BitVec 2) (acc : BitVec 1)
  | sleep (groups : BitVec 16)
  | wake (groups : BitVec 16)
  | sput (xs : BitVec 6) (entry : BitVec 8)
  | xld (xd xa : BitVec 6)
  | xst (xs xa : BitVec 6)
  deriving DecidableEq, Repr

/-- Control slot operations (R224). -/
inductive CtlOp where
  | nop
  | xli (xd : BitVec 6) (imm : BitVec 16)
  | xlih (xd : BitVec 6) (imm : BitVec 16)
  | xaddi (xd xa : BitVec 6) (imm : BitVec 14)
  | xadd (xd xa xb : BitVec 6)
  | xmuli (xd xa : BitVec 6) (imm : BitVec 14)
  | brnz (xc : BitVec 6) (ofs : BitVec 13)
  | loop (xc : BitVec 6) (ofs : BitVec 13)
  | endc
  | br (ofs : BitVec 13)
  | note (level : BitVec 5)
  | strs (ch : BitVec 4) (entry : BitVec 8) (xo : BitVec 6)
  | stra (ch : BitVec 4) (xn : BitVec 6) (y : BitVec 1)
  | strc (ch : BitVec 4)
  | strx (ch : BitVec 4)
  | fence (m v mv : BitVec 1) (keep : BitVec 3)
  | syncadd (obj : BitVec 14) (imm : BitVec 8)
  | syncwait (obj : BitVec 14) (y : BitVec 1)
  deriving DecidableEq, Repr

/-- The four slots of a bundle (R209). -/
structure Bundle where
  mat : MatOp
  vec : VecOp
  mov : MovOp
  ctl : CtlOp
  deriving DecidableEq, Repr

/-- The pipes a core's operations run on (R212): the group engine, the two half ports, the vector and the move pipe. -/
inductive Pipe where
  | group | half0 | half1 | vector | move
  deriving DecidableEq, Repr


/-- A Gorith packet (R337): its 32 B header, its data rows as carried, the 16 B trailer in [127:0] with the 16 B that
follow it, and its rows' poison (log 24). -/
structure Packet where
  hdr : BitVec 256 := 0
  rows : List Row := []
  trl : BitVec 256 := 0
  pois : List Bool := []
  deriving DecidableEq, Repr

/-- Rows whose parity has just gone bad (R163, R117): shelf rows by their module-local address, plus the number of the parity bit;
accumulator rows as c × 256 + row. -/
structure Upsets where
  shelf : List Nat := []
  acc : List Nat := []
  deriving DecidableEq, Repr

/-- The commands: one constructor for each row of the operation table, in the table's order. -/
inductive Instr where
  /-- STOP_TICK (R50): The tick generator emits a stop tick when the sentence length expires, latching the next sentence's length and any lengthening. -/
  | stopTick
  /-- TICK_ARRIVAL (R46): The stop tick wave reaches a CN node, which begins counting TICK_ALIGN router cycles toward its sentence origin. -/
  | tickArrival (u : Nat)
  /-- PANTRY_POLL (R479): While TG_CTL.RUN is 0, a 25 µs timer expires and the device samples the pantry. -/
  | pantryPoll
  /-- SENTENCE_ORIGIN (R46): TICK_ALIGN expires and the unit starts its sentence, applying frequency, map and loss changes that fall due there. -/
  | sentenceOrigin
  /-- CLAUSE_START (R207): At origin plus 64 ns the selected clause starts, loading SC_SLICE, spill and W1 sequence registers and constant bundles. -/
  | clauseStart (c : Nat)
  /-- GUARD_START (R51): Guard start is marked; unfinished clauses overrun, yielding clauses end, the schedule window closes and the implicit note is raised. -/
  | guardStart
  /-- DRAIN_SPAN_END (R66): 256 router cycles after the window closes, valid flits still in a router are dropped and logged. -/
  | drainSpanEnd
  /-- TICK_FAULT (R48): A CN node that sees no tick within twice the sentence length raises a tick fault and its tile becomes lost. -/
  | tickFault (t : Nat)
  /-- FLIT_HOP (R67): A router applies its slot-table entry, forwarding, adding or reading flits between ports. -/
  | flitHop (t c : Nat)
  /-- FLIT_DELIVER (R548): A flit delivered to a core, larder or controller port is taken by the channel or agent its port map names. -/
  | flitDeliver (n : Nat)
  /-- NOP (R209): Opcode 0x00 in a slot performs no operation. -/
  | nop (c : Nat)
  /-- ILLEGAL_BUNDLE (R214): A bundle with an undefined opcode, reserved bits or excluded values causes a clause fault. -/
  | illegalBundle (c t : Nat)
  /-- MSPARSE (R125): Sparse-mode matrix operation issuing X(XG) groups from an indexed channel into a half. -/
  | msparse (c : Nat)
  /-- MMASK (R126): Masked-mode matrix operation forming weight gradients at gloss positions into the sum half. -/
  | mmask (c : Nat)
  /-- MDENSE (R127): Dense-mode matrix operation generating groups from a shape word and a weight stream. -/
  | mdense (c : Nat)
  /-- SPILL (R120): Converts accumulator rows to SDX32 and writes them to a shelf handle, optionally clearing them. -/
  | spill (c : Nat)
  /-- ACCLD (R123): Loads accumulator rows exactly from shelf rows. -/
  | accld (c : Nat)
  /-- ACCCLR (R119): Clears a range of accumulator rows. -/
  | accclr (c : Nat)
  /-- GF_GROUP (R110): The gather front takes a ready group, reads its rows over D cycles and passes products to the accumulator. -/
  | gfGroup (c cyc : Nat) (us ua : List Nat)
  /-- VADD (R218): Vector element-wise add. -/
  | vadd (c : Nat)
  /-- VSUB (R218): Vector element-wise subtract. -/
  | vsub (c : Nat)
  /-- VMUL (R218): Vector element-wise multiply. -/
  | vmul (c : Nat)
  /-- VFMA (R218): Vector fused multiply-add with one rounding. -/
  | vfma (c : Nat)
  /-- VMAX (R88): Vector element-wise maximum. -/
  | vmax (c : Nat)
  /-- VMIN (R88): Vector element-wise minimum. -/
  | vmin (c : Nat)
  /-- VMOV (R218): Vector copy of A into D. -/
  | vmov (c : Nat)
  /-- VRCP (R129): Vector correctly rounded reciprocal. -/
  | vrcp (c : Nat)
  /-- VRSQRT (R129): Vector correctly rounded reciprocal square root. -/
  | vrsqrt (c : Nat)
  /-- VSQRT (R129): Vector correctly rounded square root. -/
  | vsqrt (c : Nat)
  /-- VEXP (R129): Vector correctly rounded exp. -/
  | vexp (c : Nat)
  /-- VEXP2 (R129): Vector correctly rounded exp2. -/
  | vexp2 (c : Nat)
  /-- VLOG2 (R129): Vector correctly rounded log2. -/
  | vlog2 (c : Nat)
  /-- VTANH (R129): Vector correctly rounded tanh. -/
  | vtanh (c : Nat)
  /-- VSIGM (R129): Vector correctly rounded sigmoid. -/
  | vsigm (c : Nat)
  /-- VGELU (R129): Vector correctly rounded tanh-form gelu. -/
  | vgelu (c : Nat)
  /-- VCVT (R549): Vector format conversion, using side-field headers for SDX8 targets and W1 stochastic rounding when set. -/
  | vcvt (c : Nat)
  /-- VSCAN (R83): Vector scan pass writing block headers into D's side fields. -/
  | vscan (c : Nat)
  /-- VSUM (R218): Sums A's rows per lane into one row. -/
  | vsum (c : Nat)
  /-- VMAXR (R218): Folds A's rows per lane by maximum into one row. -/
  | vmaxr (c : Nat)
  /-- VSOFTMAX (R131): Softmax over N rows per token lane. -/
  | vsoftmax (c : Nat)
  /-- VRMSNORM (R132): RMS normalisation over N rows with scale and epsilon. -/
  | vrmsnorm (c : Nat)
  /-- VLNORM (R132): Layer normalisation over N rows with scale, shift and epsilon. -/
  | vlnorm (c : Nat)
  /-- VTOPK (R133): Selects the k largest keys per lane, writing index and value rows. -/
  | vtopk (c : Nat)
  /-- MCOPY (R222): Copies logical rows between handles of equal width. -/
  | mcopy (c : Nat)
  /-- MFILL (R222): Fills an extent with a 32-bit value. -/
  | mfill (c : Nat)
  /-- HSET (R153): Writes a handle table entry of the issuing context's half if well-formed. -/
  | hset (c : Nat)
  /-- CNC (R155): Compare-and-count over shelf rows writing counts to a destination row. -/
  | cnc (c : Nat)
  /-- SLEEP (R159): Closes the named bank groups' write windows to power them down. -/
  | sleep (c : Nat)
  /-- SHF_SLEEP_DONE (R159): A sleeping group's in-flight writes reach zero and it powers down; SLEEP retires when all are asleep. -/
  | shfSleepDone (c t : Nat)
  /-- WAKE (R162): Starts powering up the named bank groups. -/
  | wake (c : Nat)
  /-- SHF_WAKE_DONE (R162): 1,200 cycles after WAKE the groups hold poisoned zero rows and reopen. -/
  | shfWakeDone (c : Nat)
  /-- SPUT (R169): STREAM_PUT copies a shelf row into program entry 128-255. -/
  | sput (c : Nat)
  /-- XLD (R223): Loads a 32-bit larder word into an index register. -/
  | xld (c : Nat)
  /-- XST (R223): Stores an index register to a 32-bit larder word. -/
  | xst (c : Nat)
  /-- XLI (R224): Loads a zero-extended immediate into an index register. -/
  | xli (c : Nat)
  /-- XLIH (R224): Loads an immediate into the high half of an index register. -/
  | xlih (c : Nat)
  /-- XADDI (R224): Adds a signed immediate to an index register. -/
  | xaddi (c : Nat)
  /-- XADD (R224): Adds two index registers. -/
  | xadd (c : Nat)
  /-- XMULI (R224): Multiplies an index register by an immediate. -/
  | xmuli (c : Nat)
  /-- BRNZ (R224): Branches if an index register is nonzero. -/
  | brnz (c : Nat)
  /-- LOOP (R224): Decrements an index register and branches if nonzero. -/
  | loop (c : Nat)
  /-- END (R232): Ends issue for the clause. -/
  | clauseEnd (c : Nat)
  /-- BR (R224): Unconditional branch. -/
  | br (c : Nat)
  /-- NOTE (R228): Load note requesting a coverage level 200 ns later. -/
  | note (c : Nat)
  /-- STRS (R170): STREAM_START loads a program into CUR or NEXT of a channel, or is refused. -/
  | strs (c : Nat)
  /-- STRA (R172): STREAM_AWAIT waits until a stream's LANDED count reaches n or it ends. -/
  | stra (c : Nat)
  /-- STRC (R194): STREAM_CONFIRM makes a held program an ordinary stream. -/
  | strc (c : Nat)
  /-- STRX (R195): STREAM_CANCEL discards a held program. -/
  | strx (c : Nat)
  /-- FENCE (R224): Waits until named pipes have at most KEEP unretired operations. -/
  | fence (c : Nat)
  /-- SYNCADD (R226): After all earlier operations retire, sends an increment to a sync object. -/
  | syncadd (c : Nat)
  /-- SYNCWAIT (R322): Waits until a sync object is reached, entering the wait table if needed. -/
  | syncwait (c : Nat)
  /-- OP_START (R212): A pending operation starts on its pipe once the pipe and interlocks allow. -/
  | opStart (c : Nat) (pipe : Pipe) (t : Nat) (up : Upsets) (clash : List Nat)
  /-- OP_RETIRE (R221): An operation retires after its fixed occupancy. The last operand is the rows whose parity goes bad in that cycle
  (R163, R117). -/
  | opRetire (c : Nat) (pipe : Pipe) (no t : Nat) (up : Upsets)
  /-- CLAUSE_FINISH (R232): After END every operation has retired, and for a last-of-layer clause every stream has drained; the clock is gated. -/
  | clauseFinish (c t : Nat)
  /-- COVERAGE_CHANGE (R228): 200 ns after a note, coverage takes its level and the regulator grants or refuses the note. -/
  | coverageChange (c : Nat)
  /-- COVERAGE_FALL (R230): 200 ns after activity drops without a note, coverage falls and ballast stops. -/
  | coverageFall (c : Nat)
  /-- STREAM_OPEN (R176): A stream open arrives at a far agent, which starts its address sequence or refuses. -/
  | streamOpen
  /-- STREAM_END (R190): A CUR stream completes and NEXT is promoted in the same cycle. -/
  | streamEnd (c n : Nat)
  /-- STREAM_CLOSE (R198): A stream close reaches a far agent on eviction; it writes nothing more and acknowledges. -/
  | streamClose
  /-- SHELF_WINDOW_ROW (R147): A shelf-window row from an edge die or the host path reaches a core's stream port over the CN. -/
  | shelfWindowRow (n : Nat)
  /-- BULK_REFUSE_REPORT (R545): A bulk agent's report of a refused row reaches the sending die, which answers accordingly. -/
  | bulkRefuseReport (n : Nat)
  /-- CELLAR_READ (R243): A controller reads a row, classifies its codewords, corrects or poisons, and schedules any writeback. -/
  | cellarRead (n ofs tag err : Nat)
  /-- CELLAR_WRITE (R242): A controller writes a row with check symbols, applying key tag and chunk-map checks. -/
  | cellarWrite (n ofs tag : Nat) (ue : Bool) (row : FRow)
  /-- CELLAR_WRITEBACK (R244): A pending corrected or poisoned writeback is made unless a later write cancelled it. -/
  | cellarWriteback (n : Nat)
  /-- REFRESH (R246): A controller refreshes its stack at the base or doubled rate. -/
  | refresh (n : Nat)
  /-- SCRUB_READ (R247): Patrol scrub reads the next row in a free slot and handles it as a read. -/
  | scrubRead (n err : Nat)
  /-- STACK_TEMP_READ (R246): Each 1 ms the controller reads stack temperature and sets the refresh rate. -/
  | stackTempRead (n temp : Nat)
  /-- UE_SHARD_START (R266): Once a shard's TOKEN is reached the UE starts the shard's update, forming step constants at pass start. -/
  | ueShardStart (t : Nat)
  /-- UE_LOFT_WRITE (R272): The UE writes a loft row in an agent-62 slot, swapping the chunk-map entry on the first write. -/
  | ueLoftWrite (t a n : Nat)
  /-- UE_SHARD_DONE (R266): A shard pass completes; its norm and digest fold in and the pass completes after the last shard. -/
  | ueShardDone (t : Nat)
  /-- UE_SHARD_INTERRUPT (R267): A parity error, side-port refusal or tile reset interrupts a shard, which is redone or fails after three tries. -/
  | ueShardInterrupt (t : Nat)
  /-- RDX_DESC_START (R298): The RDX starts its next collective descriptor once its START object is reached. -/
  | rdxDescStart (k : Nat)
  /-- ALLREDUCE (R299): Ring reduce-scatter then all-gather of a descriptor's rows. -/
  | allreduce (k : Nat)
  /-- REDUCE_SCATTER (R299): Ring reduce-scatter of a descriptor's rows. -/
  | reduceScatter (k : Nat)
  /-- ALL_GATHER (R299): Ring all-gather of a descriptor's rows. -/
  | allGather (k : Nat)
  /-- RDX_DESC_DONE (R301): All DST rows have landed and the RDX adds 1 to DONE. -/
  | rdxDescDone (k : Nat)
  /-- CONTRIB (R305): A contribution packet arrives and its rows are added or copied. -/
  | contrib (p n : Nat)
  /-- DIGEST (R305): A digest packet ends a contribution; a mismatch poisons its rows and sends a notice. -/
  | digest (p n : Nat)
  /-- NOTICE (R306): A digest notice arrives and blames this module as sender. -/
  | notice (p n : Nat)
  /-- VRD (R311): A verdict record arrives at a root and is combined, compared and forwarded, or a final record is received. -/
  | vrd (p n : Nat)
  /-- REPAIR_DONE (R317): The repair copy completes and the repaired member's UE starts its rerun. -/
  | repairDone (rows : List (Nat × Row))
  /-- SYNC_INCREMENT (R320): A CN node applies an increment to a sync object and performs reach actions once. -/
  | syncIncrement (n : Nat)
  /-- SYNC (R324): A sync message from another module arrives and is accepted or refused. -/
  | sync (p n : Nat)
  /-- FRAME (R332): A codeword and frame arrive and are accepted in FSEQ order or discarded. The operands are the symbols of lanes 0 to 3
  and of lanes 4 to 7 (R330) and the poison of the rows the frame carries (log 24). -/
  | frame (p : Nat) (lo hi : List (BitVec 680)) (pois : BitVec 20)
  /-- LINK_ACK (R332): A cumulative link acknowledgement arrives. -/
  | linkAck (p : Nat)
  /-- LINK_RETRY (R332): A RETRY arrives and the sender replays from the named frame. -/
  | linkRetry (p : Nat)
  /-- LINK_CREDIT (R334): A CREDIT packet updates the far side's LIMIT values. -/
  | linkCredit (p : Nat)
  /-- LINK_LEVEL (R340): The peer's link protocol level arrives at training and the link level is agreed. -/
  | linkLevel (p lv : Nat)
  /-- LINK_ACK_SEND (R332): The receiver sends an acknowledgement at least every 64 frames or 1 µs. -/
  | linkAckSend (p : Nat)
  /-- LINK_ACK_TIMEOUT (R333): No acknowledgement advances for 50 µs and the port goes down. -/
  | linkAckTimeout (p : Nat)
  /-- LANE_LOCK_LOSS (R333): A port loses lane lock and goes down. -/
  | laneLockLoss (p : Nat)
  /-- PORT_TRAIN_DONE (R333): A training attempt ends, bringing the port up or, after three failures, lost. -/
  | portTrainDone (p : Nat) (ok : Bool)
  /-- PACKET_SEND (R334): A queued packet starts once its class credit allows. -/
  | packetSend (p c : Nat)
  /-- WRITE (R347): A remote WRITE arrives and is checked against its window. -/
  | write (p n : Nat)
  /-- READ (R347): A remote READ arrives and is checked against its window. -/
  | read (p n : Nat)
  /-- WINDOW_LAND (R347): A held request's bulk slot or CN path comes round; rows land or are read, and ACK, NACK or RDATA is sent. -/
  | windowLand (n m : Nat)
  /-- RDATA (R348): A read response arrives and its rows land at LOCAL. -/
  | rdata (p n : Nat)
  /-- ACK (R348): An acknowledgement of an outstanding request arrives. -/
  | ack (p n : Nat)
  /-- NACK (R348): A refusal of an outstanding request arrives. -/
  | nack (p n : Nat)
  /-- XFER_DESC_START (R349): The transfer engine starts its next descriptor once START is reached. -/
  | xferDescStart (k : Nat)
  /-- XFER_WRITE (R350): Transfer descriptor sending WRITE packets of 32 rows. -/
  | xferWrite (k : Nat)
  /-- XFER_READ (R350): Transfer descriptor sending READ requests. -/
  | xferRead (k : Nat)
  /-- MCAST_WRITE (R353): Transfer descriptor sending each packet to every valid entry of a multicast list. -/
  | mcastWrite (k : Nat)
  /-- MCAST_COPY_SEND (R353): An MCP copy is sent once class credit allows. -/
  | mcastCopySend (k n e : Nat)
  /-- MCAST_HOLD_EXPIRE (R354): A copy waiting past FAB_MCAST_HOLD becomes faulty and the step reruns. -/
  | mcastHoldExpire (k n e : Nat)
  /-- XFER_DESC_DONE (R350): Every packet is answered or timed out and the engine adds 1 to DONE. -/
  | xferDescDone (k : Nat)
  /-- TXN_TIMEOUT (R351): A request unanswered within FAB_TXN_TO times out. -/
  | txnTimeout (n : Nat)
  /-- WINDOW_CLOSE_DONE (R346): A closing window completes once no committed WRITE has rows still to land. -/
  | windowCloseDone (n : Nat)
  /-- JOIN_PACKET (R357): A JOIN part arrives; when all members are complete the join is checked and completes, installing link keys. -/
  | joinPacket (p n : Nat)
  /-- JOIN_TIMEOUT (R355): A join not complete within 10 s fails. -/
  | joinTimeout
  /-- BEACON (R359): A BEACON arrives, refreshing reachability and the sender's ceiling. -/
  | beacon (p n : Nat)
  /-- BEACON_SEND (R359): Every 1 ms, or on a ceiling change, the module sends a BEACON to every member. -/
  | beaconSend
  /-- REACH_TIMEOUT (R359): A member's BEACON ages past 5 ms; quorum and fencing are re-evaluated. -/
  | reachTimeout (m : Nat)
  /-- HOLD_TIMER_EXPIRE (R361): The verdict hold timer expires and the module leaves the job with a partition record. -/
  | holdTimerExpire
  /-- DISPATCH (R384): Exchange engine packs tokens per expert and sends them to expert windows. -/
  | dispatch (k : Nat)
  /-- COMBINE (R385): Exchange engine returns expert results to their original token order. -/
  | combine (k : Nat)
  /-- XCH_DESC_START (R381): The exchange engine starts its next descriptor once START is reached. -/
  | xchDescStart (k : Nat)
  /-- DEGRADED_LOAD_DONE (R376): A degraded package's sections are written and PLC_STATUS shows loaded. -/
  | degradedLoadDone
  /-- DEFINE (R392): Pantry request defining a context. -/
  | define
  /-- LOAD (R394): Pantry request making a context resident from a placement package. -/
  | load (host : Option Nat)
  /-- EVICT (R397): Pantry request evicting a resident context. -/
  | evict
  /-- EVICT_RELEASE (R397): Pantry eviction with RELEASE, also wiping chunks and freeing the key tag. -/
  | evictRelease
  /-- DELETE (R397): Pantry request deleting a context and its keys. -/
  | delete
  /-- CONTEXT_WRITES_DONE (R397): The writes of a load or eviction complete and take effect at the next origin. -/
  | contextWritesDone (n : Nat)
  /-- STAGE (R374): Pantry request staging a degraded package. -/
  | stage (host : Option Nat)
  /-- JOIN (R355): Pantry request joining a job from a membership record. -/
  | join (host : Option Nat)
  /-- LEAVE (R361): Pantry request leaving the job. -/
  | leave
  /-- STEP (R482): Pantry request running COUNT steps with input tables. -/
  | step
  /-- RULES (R277): Pantry request replacing the rule table between steps. -/
  | rules (host : Option Nat)
  /-- PANTRY_REQUEST_RELEASE (R395): A request held for a step boundary starts at that boundary. -/
  | pantryRequestRelease (host : Option Nat)
  /-- BLOB_LOAD (R409): Pantry request opening a sealed weight blob into a context's chunks. -/
  | blobLoad
  /-- BLOB_LOAD_DONE (R409): A blob load completes or fails on a tag failure. -/
  | blobLoadDone (n : Nat)
  /-- CKPT_OUT (R410): Pantry request writing committed state as sealed checkpoint blobs. -/
  | ckptOut
  /-- COPY_IN (R481): Pantry request copying host memory into module-local memory. -/
  | copyIn
  /-- COPY_OUT (R481): Pantry request copying module-local memory to the host. -/
  | copyOut
  /-- TILE_RETURN (R448): Pantry request returning a foreground-shed tile. -/
  | tileReturn
  /-- WINDOW_OPEN (R345): Pantry WINDOW request opening a service window. -/
  | windowOpen
  /-- WINDOW_CLOSE (R346): Pantry WINDOW request with close flag closing a service window. -/
  | windowClose
  /-- POWER_RUNNING (R507): Pantry POWER request for Running. -/
  | powerRunning
  /-- POWER_QUIET (R507): Pantry POWER request for Quiet. -/
  | powerQuiet
  /-- POWER_HOLD (R507): Pantry POWER request for Hold. -/
  | powerHold
  /-- POWER_TRANSITION_DONE (R507): A power-state transition completes. -/
  | powerTransitionDone (arr stks cores edges : List Nat)
  /-- MODULE_RESET (R500): Pantry RESET with code 0x02 starting a module reset. -/
  | moduleReset
  /-- TILE_RESET (R503): Pantry RESET with code 0x03 resetting one tile. -/
  | tileReset
  /-- CONTEXT_RESET (R504): Pantry RESET with code 0x04 resetting one context. -/
  | contextReset
  /-- TILE_RELOAD_DONE (R503): A tile reset's section reload from the reserve completes. -/
  | tileReloadDone
  /-- RESET_DONE (R502): A reset completes and the module becomes ready or records completion. -/
  | resetDone (ms : Nat)
  /-- FW_UPDATE (R525): Pantry request writing a firmware image into the target slot. -/
  | fwUpdate (host : Option Nat)
  /-- CONFIG_IMAGE_UPDATE (R499): FW_UPDATE of component 0x10 writing the configuration image copy not in use. -/
  | configImageUpdate (host : Option Nat)
  /-- FW_UPDATE_DONE (R525): A firmware update's programming and verification complete, marking TRIAL or failing. -/
  | fwUpdateDone
  /-- GET_CERT (R400): DOE request returning a certificate. -/
  | getCert (k : Nat)
  /-- GET_REPORT (R401): DOE request returning a signed attestation report. -/
  | getReport (n nonce : Nat)
  /-- KEY_RELEASE (R405): DOE request unwrapping an owner's keys for a protected context. -/
  | keyRelease (v len : Nat)
  /-- LC_CHANGE (R417): DOE request changing life-cycle state, blowing fuses and starting a module reset. -/
  | lcChange (v len : Nat)
  /-- DOE_DISCOVERY (R403): DOE Discovery request. -/
  | doeDiscovery (index : Nat)
  /-- CQ_RECORD_WRITE (R484): A queued completion record is written to the host ring when room exists, with its MSI-X message. -/
  | cqRecordWrite (msgs : Bool)
  /-- CQ_HEAD_WRITE (R484): Software writes HIF_CQ_HEAD, returning ring space. -/
  | cqHeadWrite (v : Nat)
  /-- CQ_ENABLE (R484): Setting HIF_CQ_CTL.EN resets ring indices and phase. -/
  | cqEnable
  /-- DEBUG_READ (R475): Host read through the BAR2 debug window. -/
  | debugRead (a n : Nat)
  /-- DEBUG_WRITE (R475): Host write through the BAR2 debug window. -/
  | debugWrite (a n v : Nat)
  /-- REGISTER_WRITE (R9): A write to a register with no row of its own acts by its access code. -/
  | registerWrite (a size v : Nat)
  /-- LOCK_WRITE (R11): Setting a block's LOCK bit freezes its RWL fields until a reset. -/
  | lockWrite (a v : Nat)
  /-- INJ_SEED_WRITE (R362): Writing an injection seed reloads the generator. -/
  | injSeedWrite (a v : Nat)
  /-- HOST_CAP_WRITE (R432): Writing PWR_CAP_HOST changes P_cap, fast-trip current and the predicted cap ceiling. -/
  | hostCapWrite (v : Nat)
  /-- FREQ_MAX_WRITE (R438): Writing FREQ_MAX changes the module ceiling. -/
  | freqMaxWrite (v : Nat)
  /-- FLT_WIN_WRITE (R471): Writing a fault window setting, ignored for fixed classes. -/
  | fltWinWrite (c v : Nat)
  /-- TEST_CTL_WRITE (R466): Writing FLT_TEST_CTL enables or disables the in-service test context. -/
  | testCtlWrite (v : Nat)
  /-- RCV_PIECE (R528): In ROM recovery, writing RCV_CTL with GO programs a 32 KiB piece. -/
  | rcvPiece (n : Nat)
  /-- D3HOT_ENTRY (R476): The function enters D3hot and stops taking pantry slots. -/
  | d3hotEntry
  /-- D0_RETURN (R476): The function returns to D0 and resumes at the next tick. -/
  | d0Return
  /-- PCIE_ERROR (R477): A PCIe error is reported through AER. -/
  | pcieError (k : Nat)
  /-- STATUS (R487): SMBus read of module status. -/
  | status
  /-- ALERT (R487): SMBus read of alert bits, clearing them. -/
  | alert
  /-- ALERT_RESPONSE (R487): SMBus Alert Response Address read. -/
  | alertResponse
  /-- VIN (R487): SMBus read of input voltage. -/
  | vin
  /-- PIN (R487): SMBus read of input power. -/
  | pin
  /-- PCLASS (R487): SMBus block read of power class draws. -/
  | pclass
  /-- TMAX (R487): SMBus read of hottest junction. -/
  | tmax
  /-- TTILE (R487): SMBus block read of tile temperatures. -/
  | ttile
  /-- TSTACK (R487): SMBus block read of stack temperatures. -/
  | tstack
  /-- CAP_READ (R487): SMBus read of PWR_CAP_BMC. -/
  | capRead
  /-- CAP_WRITE (R432): SMBus write of PWR_CAP_BMC, changing P_cap. -/
  | capWrite (v pec : Nat)
  /-- FREQ (R487): SMBus read of frequency status. -/
  | freq
  /-- STATE_REQ_RUNNING (R507): SMBus power-state request for Running. -/
  | stateReqRunning (pec : Nat)
  /-- STATE_REQ_QUIET (R507): SMBus power-state request for Quiet. -/
  | stateReqQuiet (pec : Nat)
  /-- STATE_REQ_HOLD (R507): SMBus power-state request for Hold. -/
  | stateReqHold (pec : Nat)
  /-- RESET_REQ_COLD (R500): SMBus reset request 0x01 switching VCMs off for a cold start. -/
  | resetReqCold (key pec : Nat)
  /-- RESET_REQ_MODULE (R500): SMBus reset request 0x02 starting a module reset. -/
  | resetReqModule (key pec : Nat)
  /-- ID (R487): SMBus block read of identity. -/
  | id
  /-- PLOG_SEL (R487): SMBus selection of a persistent-log record. -/
  | plogSel (v pec : Nat)
  /-- PLOG (R487): SMBus block read of the selected persistent-log record. -/
  | plog
  /-- BYPASS (R489): JTAG BYPASS instruction. -/
  | bypass
  /-- IDCODE (R489): JTAG IDCODE instruction. -/
  | idcode
  /-- SAMPLE_PRELOAD (R489): JTAG SAMPLE/PRELOAD instruction. -/
  | samplePreload
  /-- EXTEST (R489): JTAG EXTEST instruction driving pins. -/
  | extest
  /-- HIGHZ (R489): JTAG HIGHZ instruction. -/
  | highz
  /-- CLAMP (R489): JTAG CLAMP instruction. -/
  | clamp
  /-- INTERNAL_DEBUG (R489): JTAG internal debug instructions 0x40-0x4F where permitted. -/
  | internalDebug (n : Nat)
  /-- TRST_ASSERT (R489): TRST# returns the TAP to Test-Logic-Reset, ending a session. -/
  | trstAssert
  /-- DROOP_WARNING (R442): Input below 45.0 V puts every tile in droop hold. -/
  | droopWarning (t : Nat)
  /-- DROOP_CLOCK_STEP (R442): Every 100 ns during droop hold or its exit ramp the compute clock steps by 25 MHz. -/
  | droopClockStep (t : Nat)
  /-- SUPPLY_RECOVERY (R443): Input above 46.0 V for 50 µs ends droop hold or power-fail. -/
  | supplyRecovery (t : Nat)
  /-- POWER_FAIL (R445): Input below 41.0 V stops compute clocks and reruns the step. -/
  | powerFail (t : Nat)
  /-- INPUT_UVLO (R441): Input below 38.0 V locks out the VCMs and the module loses power. -/
  | inputUvlo
  /-- INPUT_OVERVOLTAGE (R537): Input above 60.0 V for 10 µs switches every VCM off. -/
  | inputOvervoltage
  /-- POWER_GOOD (R492): VCMs 66 and 67 reach regulation and a cold start begins from ROM. -/
  | powerGood
  /-- BOOT_STAGE_DONE (R492): A cold-start stage completes and the next begins. -/
  | bootStageDone (res : List Nat)
  /-- READY (R520): HIF_STATUS.READY is set; trial slots become GOOD and anti-rollback fuses are blown. -/
  | ready (ms : Nat)
  /-- PERST_ASSERT (R500): PERST# asserted holds the module idle for a PERST# reset. -/
  | perstAssert
  /-- PERST_DEASSERT (R500): PERST# deasserted starts the PERST# restart from ROM. -/
  | perstDeassert
  /-- VCM_FAULT (R421): A VCM fails or leaves range and switches off, losing what it feeds. -/
  | vcmFault (n : Nat)
  /-- IVR_CELL_FAIL (R424): An IVR cell is disconnected and the derate ceiling falls, or a second failure loses the die. -/
  | ivrCellFail (t j : Nat)
  /-- RAIL_SAG (R429): The compute rail falls 40 mV and the adaptive clock runs at 7/8. -/
  | railSag (k t : Nat)
  /-- SAG_RECOVERY (R429): The rail stays within 20 mV for 100 ns and full clock resumes. -/
  | sagRecovery (k t : Nat)
  /-- FAST_TRIP (R436): Compute current exceeds FT and every core of the tile holds issue. -/
  | fastTrip (k t : Nat)
  /-- FAST_TRIP_RELEASE (R436): Current stays below 0.9 FT for 200 ns and issue resumes. -/
  | fastTripRelease (k t : Nat)
  /-- HEADER_STAGE (R426): Each 250 ns the next header-switch stage of a core closes until the supply settles. -/
  | headerStage (c : Nat) (settled : Bool)
  /-- PWE_ESTIMATE (R430): Every 2 µs the tile estimator forms a compute-power estimate. -/
  | pweEstimate (k : Nat) (acts : List Nat)
  /-- VCM_POWER_SAMPLE (R431): Every 100 µs VCMs measure input power and calibration K is updated. -/
  | vcmPowerSample (ps cls : List Nat) (vin : Nat)
  /-- CAP_CONTROL_TICK (R434): Every 1 ms the cap ceiling is adjusted from measured input power. -/
  | capControlTick (p : Nat)
  /-- THERMAL_SAMPLE (R446): Every 1 ms sensors are read, failed sensors marked and hard trips taken. -/
  | thermalSample (tiles : List (Nat × List Int)) (edges : List Int) (mgmt : Int)
  /-- THERMAL_EVALUATION (R446): Every 10 ms the thermal ceiling is lowered or shedding arranged. -/
  | thermalEvaluation
  /-- THERMAL_CEILING_RAISE (R446): After 100 ms below 90 °C the thermal ceiling rises one step. -/
  | thermalCeilingRaise (t : Nat)
  /-- SHED_RETURN (R448): A filler-shed tile below 90 °C for 1 s stages its cores and returns. -/
  | shedReturn (t : Nat)
  /-- VOLTAGE_MONITOR_SAMPLE (R514): Every 10 µs the sensor hub samples rail monitors. -/
  | voltageMonitorSample (xs : List (Nat × Nat))
  /-- MODCLK_LOSS (R534): MODCLK absent for 1 µs switches PLLs to the holdover oscillator. -/
  | modclkLoss
  /-- MODCLK_RETURN (R534): MODCLK present for 10 ms; PLLs switch back at the next origin. -/
  | modclkReturn
  /-- ERROR_RECORD (R456): An error record reaches the management core, is logged, counted and may become lasting. -/
  | errorRecord (n t : Nat)
  /-- PLOG_COPY (R455): A record is copied to the persistent log as the write rate allows. -/
  | plogCopy
  /-- PLOG_COPY_TIMEOUT (R455): A record not copied within 10 s is dropped and PLOG_DROP set. -/
  | plogCopyTimeout (n : Nat)
  /-- TAKEOVER_DONE (R459): Spare takeover completes and TILE_CORE_MAP changes at the next tick. -/
  | takeoverDone (t : Nat)
  /-- POISON_REPAIR_DONE (R462): A committed-poison chunk copy completes before the replay. -/
  | poisonRepairDone (chunk : Nat) (poisoned : Bool) (rows : List (Nat × Row))
  /-- TEST_ROUND (R467): Every PERIOD_S a test round runs test clauses and compares partner digests. -/
  | testRound (runs : List (Nat × BitVec 64 × BitVec 64))
  /-- TEST_REFEREE (R468): A mismatch is rerun on a referee slot and the differing core is blamed. -/
  | testReferee (q : Nat) (dig : BitVec 64)
  /-- WATCHDOG_EXPIRE (R513): The management watchdog expires, starting a module reset or management restart. -/
  | watchdogExpire (since : Option Nat)
  /-- SRAM_UE (R513): An uncorrectable SRAM error outside the retained partition starts a management restart. -/
  | sramUe
  /-- MGMT_RESTART_DONE (R513): A management restart completes within 2 s. -/
  | mgmtRestartDone
  /-- LINK_RETRY_SEND (R332): While a receiver waits for the expected FSEQ, it sends a RETRY link packet naming it, at most once every 2 µs. -/
  | linkRetrySend (p : Nat)
  /-- XCH_DESC_DONE (R381): Every packet of an exchange descriptor is answered or timed out and the exchange engine adds 1 to DONE. -/
  | xchDescDone (k : Nat)
  /-- CKPT_OUT_DONE (R410): Every chunk of a checkpoint write has been sealed and written, and the request completes with its completion record. -/
  | ckptOutDone (n : Nat)
  /-- COPY_IN_DONE (R481): The last row of a COPY_IN has been fetched from host memory and has landed, and the request completes or fails. -/
  | copyInDone (n : Nat) (host : Option Nat)
  /-- COPY_OUT_DONE (R481): The last bus-master write of a COPY_OUT has been issued, and the request completes with its completion record. -/
  | copyOutDone (n : Nat)
  /-- UNDEFINED_COMMAND_CODE (R487): An SMBus transaction with an undefined command code arrives and is answered with NACK. -/
  | undefinedCommandCode
  /-- DOE_UNKNOWN_TYPE (R403): A DOE object of unknown type, or a malformed one, arrives and is answered with a 12 B object carrying status 1. -/
  | doeUnknownType (type : Nat)
  /-- TEST_LOGIC_RESET_EXIT (R489): The TAP leaves Test-Logic-Reset under TMS and TCK, so a JTAG session becomes active and the report shows it. -/
  | testLogicResetExit
  /-- TEST_LOGIC_RESET_ENTRY (R489): The TAP returns to Test-Logic-Reset under TMS without TRST#, ending the session and any pin-driving instruction. -/
  | testLogicResetEntry
  deriving DecidableEq, Repr

end Sys2Proof
end

