-- ==== Sys2Proof/WellFormed.lean ====
section
/-!
DEFINITION. WellFormed.lean: the field values a slot operation may hold: the exclusions of R214, R216, R217, R218, R222
and R224. A bundle that breaks one is a clause fault (CL_FAULT.ILLEGAL).
-/
namespace Sys2Proof

/-- Matrix slot: PAIR 0b11 is reserved and FIRST + NM1 may not exceed 127 (R216, R217). -/
def MatOp.wf : MatOp → Bool
  | .nop => true
  | .msparse _ _ p _ _ => p != 3
  | .mmask _ _ p _ _ _ => p != 3
  | .mdense _ _ p _ _ => p != 3
  | .spill _ f n _ _ _ => decide (f.toNat + n.toNat ≤ 127)
  | .accld _ f n _ => decide (f.toNat + n.toNat ≤ 127)
  | .accclr _ f n => decide (f.toNat + n.toNat ≤ 127)

/-- The MOD bits each vector operation names (R218); every other MOD bit is reserved. -/
def VecFn.modMask : VecFn → BitVec 7
  | .vadd | .vsub | .vmul | .vfma | .vmax | .vmin => 1
  | .vcvt => 3
  | .vscan => 1
  | .vrmsnorm | .vlnorm => 63
  | .vtopk => 7
  | _ => 0

/-- The operations that take no B operand and whose B field must be 0: the function operations (R214, R218). -/
def VecFn.isFunction : VecFn → Bool
  | .vrcp | .vrsqrt | .vsqrt | .vexp | .vexp2 | .vlog2 | .vtanh | .vsigm | .vgelu => true
  | _ => false

/-- Vector slot: reserved MOD bits are 0, a function's B is 0, and FMT is 0 for VCVT (R218). -/
def VecOp.wf : VecOp → Bool
  | .nop => true
  | .op fn fmt _ b _ m =>
    (m &&& ~~~ fn.modMask == 0) && (!fn.isFunction || b == 0) && (fn != .vcvt || fmt == 0)

/-- Move slot: PRED at most 4, EQ only on unsigned types, SPUT only into entries 128 to 255 (R222). -/
def MovOp.wf : MovOp → Bool
  | .cnc _ _ _ p t _ => decide (p.toNat ≤ 4) && !(p == 0 && decide (t.toNat ≤ 1))
  | .sput _ e => decide (128 ≤ e.toNat)
  | _ => true

/-- Control slot: SYNCADD's IMM8 is 1 to 255 and NOTE's LEVEL 0 to 20 (R224). -/
def CtlOp.wf : CtlOp → Bool
  | .note l => decide (l.toNat ≤ 20)
  | .syncadd _ i => i != 0
  | _ => true

/-- The index register the move slot writes, if any (R222). -/
def MovOp.dest : MovOp → Option (BitVec 6)
  | .xld xd _ => some xd
  | _ => none

/-- The index register the control slot writes, if any (R224). -/
def CtlOp.dest : CtlOp → Option (BitVec 6)
  | .xli xd _ | .xlih xd _ | .xaddi xd _ _ | .xadd xd _ _ | .xmuli xd _ _ => some xd
  | .loop xc _ => some xc
  | _ => none

/-- A bundle whose slots are well-formed and whose move and control slots do not write one index register (R214). -/
def Bundle.wf (b : Bundle) : Bool :=
  b.mat.wf && b.vec.wf && b.mov.wf && b.ctl.wf &&
    !(b.mov.dest.isSome && b.mov.dest == b.ctl.dest)

end Sys2Proof
end

