-- ==== Sys2Proof/Decode.lean ====
section
/-!
DEFINITION. Decode.lean: bundles from their 128 bits (R209, R216, R218, R222, R224) and back, and the decoder of the
operation table's words. A slot word with an undefined opcode or a nonzero reserved bit decodes to none (R214).
-/
namespace Sys2Proof

/-- The w-bit field of a slot word at lo. -/
def fld (x : BitVec 32) (lo w : Nat) : BitVec w := x.extractLsb' lo w

/-- A slot word from its opcode and its fields, each (position, value). -/
def packSlot (op : Nat) (fs : List (Nat × Nat)) : BitVec 32 :=
  BitVec.ofNat 32 (fs.foldl (fun acc f => acc + f.2 <<< f.1) op)

/-- The matrix slot word of an operation (R216). -/
def MatOp.toWord : MatOp → BitVec 32
  | .nop => 0
  | .msparse ch half p ih xg => packSlot 1 [(6, ch.toNat), (8, half.toNat), (9, p.toNat), (11, ih.toNat), (19, xg.toNat)]
  | .mmask ch half p ih rb xg =>
    packSlot 2 [(6, ch.toNat), (8, half.toNat), (9, p.toNat), (11, ih.toNat), (19, rb.toNat), (26, xg.toNat)]
  | .mdense ch half p ih xs => packSlot 3 [(6, ch.toNat), (8, half.toNat), (9, p.toNat), (11, ih.toNat), (19, xs.toNat)]
  | .spill half f n rf clr xd =>
    packSlot 4 [(6, half.toNat), (7, f.toNat), (14, n.toNat), (21, rf.toNat), (22, clr.toNat), (23, xd.toNat)]
  | .accld half f n xs => packSlot 5 [(6, half.toNat), (7, f.toNat), (14, n.toNat), (21, xs.toNat)]
  | .accclr half f n => packSlot 6 [(6, half.toNat), (7, f.toNat), (14, n.toNat)]

/-- The operation read from a matrix slot's fields, before its reserved bits are checked. -/
def MatOp.raw (x : BitVec 32) : Option MatOp :=
  match (fld x 0 6).toNat with
  | 0 => some .nop
  | 1 => some (.msparse (fld x 6 2) (fld x 8 1) (fld x 9 2) (fld x 11 8) (fld x 19 6))
  | 2 => some (.mmask (fld x 6 2) (fld x 8 1) (fld x 9 2) (fld x 11 8) (fld x 19 7) (fld x 26 6))
  | 3 => some (.mdense (fld x 6 2) (fld x 8 1) (fld x 9 2) (fld x 11 8) (fld x 19 6))
  | 4 => some (.spill (fld x 6 1) (fld x 7 7) (fld x 14 7) (fld x 21 1) (fld x 22 1) (fld x 23 6))
  | 5 => some (.accld (fld x 6 1) (fld x 7 7) (fld x 14 7) (fld x 21 6))
  | 6 => some (.accclr (fld x 6 1) (fld x 7 7) (fld x 14 7))
  | _ => none

/-- The opcode of a vector operation (R218). -/
def VecFn.code : VecFn → Nat
  | .vadd => 0x01 | .vsub => 0x02 | .vmul => 0x03 | .vfma => 0x04 | .vmax => 0x05 | .vmin => 0x06 | .vmov => 0x07
  | .vrcp => 0x08 | .vrsqrt => 0x09 | .vsqrt => 0x0A | .vexp => 0x0B | .vexp2 => 0x0C | .vlog2 => 0x0D
  | .vtanh => 0x0E | .vsigm => 0x0F | .vgelu => 0x10 | .vcvt => 0x11 | .vscan => 0x12 | .vsum => 0x13
  | .vmaxr => 0x14 | .vsoftmax => 0x15 | .vrmsnorm => 0x16 | .vlnorm => 0x17 | .vtopk => 0x18

/-- The vector operation of an opcode (R218). -/
def VecFn.ofCode : Nat → Option VecFn
  | 0x01 => some .vadd | 0x02 => some .vsub | 0x03 => some .vmul | 0x04 => some .vfma | 0x05 => some .vmax
  | 0x06 => some .vmin | 0x07 => some .vmov | 0x08 => some .vrcp | 0x09 => some .vrsqrt | 0x0A => some .vsqrt
  | 0x0B => some .vexp | 0x0C => some .vexp2 | 0x0D => some .vlog2 | 0x0E => some .vtanh | 0x0F => some .vsigm
  | 0x10 => some .vgelu | 0x11 => some .vcvt | 0x12 => some .vscan | 0x13 => some .vsum | 0x14 => some .vmaxr
  | 0x15 => some .vsoftmax | 0x16 => some .vrmsnorm | 0x17 => some .vlnorm | 0x18 => some .vtopk
  | _ => none

/-- The vector slot word of an operation (R218). -/
def VecOp.toWord : VecOp → BitVec 32
  | .nop => 0
  | .op fn fmt a b d m =>
    packSlot fn.code [(6, fmt.toNat), (7, a.toNat), (13, b.toNat), (19, d.toNat), (25, m.toNat)]

/-- The operation read from a vector slot's fields, before its reserved bits are checked. -/
def VecOp.raw (x : BitVec 32) : Option VecOp :=
  if fld x 0 6 = 0 then some .nop
  else (VecFn.ofCode (fld x 0 6).toNat).map
    (fun fn => .op fn (fld x 6 1) (fld x 7 6) (fld x 13 6) (fld x 19 6) (fld x 25 7))

/-- The move slot word of an operation (R222). -/
def MovOp.toWord : MovOp → BitVec 32
  | .nop => 0
  | .mcopy xa xd => packSlot 1 [(6, xa.toNat), (12, xd.toNat)]
  | .mfill xd xv => packSlot 2 [(6, xd.toNat), (12, xv.toNat)]
  | .hset h xl xh => packSlot 3 [(6, h.toNat), (14, xl.toNat), (20, xh.toNat)]
  | .cnc xs xd xv p t a =>
    packSlot 4 [(6, xs.toNat), (12, xd.toNat), (18, xv.toNat), (24, p.toNat), (27, t.toNat), (29, a.toNat)]
  | .sleep g => packSlot 5 [(6, g.toNat)]
  | .wake g => packSlot 6 [(6, g.toNat)]
  | .sput xs e => packSlot 7 [(6, xs.toNat), (12, e.toNat)]
  | .xld xd xa => packSlot 8 [(6, xd.toNat), (12, xa.toNat)]
  | .xst xs xa => packSlot 9 [(6, xs.toNat), (12, xa.toNat)]

/-- The operation read from a move slot's fields, before its reserved bits are checked. -/
def MovOp.raw (x : BitVec 32) : Option MovOp :=
  match (fld x 0 6).toNat with
  | 0 => some .nop
  | 1 => some (.mcopy (fld x 6 6) (fld x 12 6))
  | 2 => some (.mfill (fld x 6 6) (fld x 12 6))
  | 3 => some (.hset (fld x 6 8) (fld x 14 6) (fld x 20 6))
  | 4 => some (.cnc (fld x 6 6) (fld x 12 6) (fld x 18 6) (fld x 24 3) (fld x 27 2) (fld x 29 1))
  | 5 => some (.sleep (fld x 6 16))
  | 6 => some (.wake (fld x 6 16))
  | 7 => some (.sput (fld x 6 6) (fld x 12 8))
  | 8 => some (.xld (fld x 6 6) (fld x 12 6))
  | 9 => some (.xst (fld x 6 6) (fld x 12 6))
  | _ => none

/-- The control slot word of an operation (R224). -/
def CtlOp.toWord : CtlOp → BitVec 32
  | .nop => 0
  | .xli xd i => packSlot 1 [(6, xd.toNat), (12, i.toNat)]
  | .xlih xd i => packSlot 2 [(6, xd.toNat), (12, i.toNat)]
  | .xaddi xd xa i => packSlot 3 [(6, xd.toNat), (12, xa.toNat), (18, i.toNat)]
  | .xadd xd xa xb => packSlot 4 [(6, xd.toNat), (12, xa.toNat), (18, xb.toNat)]
  | .xmuli xd xa i => packSlot 5 [(6, xd.toNat), (12, xa.toNat), (18, i.toNat)]
  | .brnz xc o => packSlot 6 [(6, xc.toNat), (12, o.toNat)]
  | .loop xc o => packSlot 7 [(6, xc.toNat), (12, o.toNat)]
  | .endc => packSlot 8 []
  | .br o => packSlot 9 [(12, o.toNat)]
  | .note l => packSlot 10 [(6, l.toNat)]
  | .strs ch e xo => packSlot 11 [(6, ch.toNat), (10, e.toNat), (18, xo.toNat)]
  | .stra ch xn y => packSlot 12 [(6, ch.toNat), (10, xn.toNat), (16, y.toNat)]
  | .strc ch => packSlot 13 [(6, ch.toNat)]
  | .strx ch => packSlot 14 [(6, ch.toNat)]
  | .fence m v mv k => packSlot 15 [(6, m.toNat), (7, v.toNat), (8, mv.toNat), (9, k.toNat)]
  | .syncadd o i => packSlot 16 [(6, o.toNat), (20, i.toNat)]
  | .syncwait o y => packSlot 17 [(6, o.toNat), (20, y.toNat)]

/-- The operation read from a control slot's fields, before its reserved bits are checked. -/
def CtlOp.raw (x : BitVec 32) : Option CtlOp :=
  match (fld x 0 6).toNat with
  | 0 => some .nop
  | 1 => some (.xli (fld x 6 6) (fld x 12 16))
  | 2 => some (.xlih (fld x 6 6) (fld x 12 16))
  | 3 => some (.xaddi (fld x 6 6) (fld x 12 6) (fld x 18 14))
  | 4 => some (.xadd (fld x 6 6) (fld x 12 6) (fld x 18 6))
  | 5 => some (.xmuli (fld x 6 6) (fld x 12 6) (fld x 18 14))
  | 6 => some (.brnz (fld x 6 6) (fld x 12 13))
  | 7 => some (.loop (fld x 6 6) (fld x 12 13))
  | 8 => some .endc
  | 9 => some (.br (fld x 12 13))
  | 10 => some (.note (fld x 6 5))
  | 11 => some (.strs (fld x 6 4) (fld x 10 8) (fld x 18 6))
  | 12 => some (.stra (fld x 6 4) (fld x 10 6) (fld x 16 1))
  | 13 => some (.strc (fld x 6 4))
  | 14 => some (.strx (fld x 6 4))
  | 15 => some (.fence (fld x 6 1) (fld x 7 1) (fld x 8 1) (fld x 9 3))
  | 16 => some (.syncadd (fld x 6 14) (fld x 20 8))
  | 17 => some (.syncwait (fld x 6 14) (fld x 20 1))
  | _ => none

/-- A matrix slot word, every bit outside the operation's fields 0 (R214). -/
def MatOp.ofWord (x : BitVec 32) : Option MatOp := (MatOp.raw x).filter (fun o => o.toWord == x)
/-- A vector slot word, every bit outside the operation's fields 0 (R214). -/
def VecOp.ofWord (x : BitVec 32) : Option VecOp := (VecOp.raw x).filter (fun o => o.toWord == x)
/-- A move slot word, every bit outside the operation's fields 0 (R214). -/
def MovOp.ofWord (x : BitVec 32) : Option MovOp := (MovOp.raw x).filter (fun o => o.toWord == x)
/-- A control slot word, every bit outside the operation's fields 0 (R214). -/
def CtlOp.ofWord (x : BitVec 32) : Option CtlOp := (CtlOp.raw x).filter (fun o => o.toWord == x)

/-- A bundle from its 128 bits: matrix [31:0], vector [63:32], move [95:64], control [127:96] (R209). -/
def Bundle.ofBits (x : BitVec 128) : Option Bundle :=
  match MatOp.ofWord (x.extractLsb' 0 32), VecOp.ofWord (x.extractLsb' 32 32),
        MovOp.ofWord (x.extractLsb' 64 32), CtlOp.ofWord (x.extractLsb' 96 32) with
  | some m, some v, some mv, some c => some ⟨m, v, mv, c⟩
  | _, _, _, _ => none

/-- The 128 bits of a bundle (R209). -/
def Bundle.toBits (b : Bundle) : BitVec 128 := b.ctl.toWord ++ b.mov.toWord ++ b.vec.toWord ++ b.mat.toWord

/-- The command an operation-table word spells: none, since spec/opcode_table.json gives no row any bits. -/
def decodeTableWord (_nbits _w : Nat) : Option Instr := none

end Sys2Proof
end

