-- ==== Sys2Proof/Machine/Regs.lean ====
section
/-!
DEFINITION. Machine/Regs.lean: the mapped registers (R36, R74, R135, R165, R199, R234, R257, R293, R327, R361, R388,
R417, R450, R471, R475, R489, R510, R529): byte addresses from the base of BAR0 (control block N at N x 0x10000), field
positions, access codes (R9) and reset values, copied from the register tables of the spec. The rules named beside each
register are the tables' own.
-/
namespace Sys2Proof.Machine

/-- How a field answers a write (R9). -/
inductive Acc where
  | ro | rw | w1c | wo | rwl
  deriving DecidableEq, Repr

/-- One register of a table: the byte address of its first instance, the (count, stride) of each index, the fields
with their access codes, and the reset value of the word (R9, R10: a bit in no field is reserved). -/
structure RegRow where
  base : Nat
  dims : List (Nat × Nat)
  fields : List (Fld × Acc)
  reset : Nat
  deriving DecidableEq, Repr

/-- TILE_FUSE (01, R22). -/
def TILE_FUSE (i : Nat) : Nat := 0x800000 + i * 0x80000
/-- TILE_FUSE.CORE_PASS. -/
def TILE_FUSE_CORE_PASS : Fld := ⟨0, 5⟩
/-- TILE_FUSE.SPARE_CORE. -/
def TILE_FUSE_SPARE_CORE : Fld := ⟨5, 3⟩
/-- TILE_FUSE.LD_REPAIRED. -/
def TILE_FUSE_LD_REPAIRED : Fld := ⟨8, 1⟩
/-- TILE_FUSE.STACK0_PASS. -/
def TILE_FUSE_STACK0_PASS : Fld := ⟨9, 1⟩
/-- TILE_FUSE.STACK1_PASS. -/
def TILE_FUSE_STACK1_PASS : Fld := ⟨10, 1⟩
/-- TILE_CORE_MAP (01, R22). -/
def TILE_CORE_MAP (i : Nat) : Nat := 0x800004 + i * 0x80000
/-- TILE_CORE_MAP.SLOT0_CORE. -/
def TILE_CORE_MAP_SLOT0_CORE : Fld := ⟨0, 3⟩
/-- TILE_CORE_MAP.SLOT1_CORE. -/
def TILE_CORE_MAP_SLOT1_CORE : Fld := ⟨4, 3⟩
/-- TILE_CORE_MAP.SLOT2_CORE. -/
def TILE_CORE_MAP_SLOT2_CORE : Fld := ⟨8, 3⟩
/-- TILE_CORE_MAP.SLOT3_CORE. -/
def TILE_CORE_MAP_SLOT3_CORE : Fld := ⟨12, 3⟩
/-- TILE_CORE_MAP.SPARE_NOW. -/
def TILE_CORE_MAP_SPARE_NOW : Fld := ⟨16, 3⟩
/-- TILE_STATE (01, R22). -/
def TILE_STATE (i : Nat) : Nat := 0x800008 + i * 0x80000
/-- TILE_STATE.COMPUTE. -/
def TILE_STATE_COMPUTE : Fld := ⟨0, 2⟩
/-- TILE_STATE.ROUTER_ON. -/
def TILE_STATE_ROUTER_ON : Fld := ⟨2, 1⟩
/-- TILE_STATE.BASE_LOST. -/
def TILE_STATE_BASE_LOST : Fld := ⟨3, 1⟩
/-- TILE_STATE.RETIRED. -/
def TILE_STATE_RETIRED : Fld := ⟨4, 5⟩
/-- TILE_STATE.SPARE_IN_USE. -/
def TILE_STATE_SPARE_IN_USE : Fld := ⟨9, 1⟩
/-- MOD_ID (01, R36). -/
def MOD_ID : Nat := 0x0
/-- MOD_ID.MODULE_NUMBER. -/
def MOD_ID_MODULE_NUMBER : Fld := ⟨0, 16⟩
/-- MOD_LOCK (01, R36). -/
def MOD_LOCK : Nat := 0x4
/-- MOD_LOCK.LOCK. -/
def MOD_LOCK_LOCK : Fld := ⟨0, 1⟩
/-- MOD_CORES (01, R36). -/
def MOD_CORES : Nat := 0x8
/-- MOD_CORES.ASSIGNED. -/
def MOD_CORES_ASSIGNED : Fld := ⟨0, 9⟩
/-- MOD_CORES.SPARES. -/
def MOD_CORES_SPARES : Fld := ⟨16, 7⟩
/-- MOD_TILE_LOST_0 (01, R36). -/
def MOD_TILE_LOST_0 : Nat := 0x10
/-- MOD_TILE_LOST_0.LOST_LO. -/
def MOD_TILE_LOST_0_LOST_LO : Fld := ⟨0, 32⟩
/-- MOD_TILE_LOST_1 (01, R36). -/
def MOD_TILE_LOST_1 : Nat := 0x14
/-- MOD_TILE_LOST_1.LOST_HI. -/
def MOD_TILE_LOST_1_LOST_HI : Fld := ⟨0, 32⟩
/-- TG_CTL (02, R74). -/
def TG_CTL : Nat := 0x30000
/-- TG_CTL.RUN. -/
def TG_CTL_RUN : Fld := ⟨0, 1⟩
/-- TG_SENT_LEN (02, R74). -/
def TG_SENT_LEN : Nat := 0x30004
/-- TG_SENT_LEN.LEN. -/
def TG_SENT_LEN_LEN : Fld := ⟨0, 10⟩
/-- TG_SENT_LEN.CUR_LEN. -/
def TG_SENT_LEN_CUR_LEN : Fld := ⟨16, 16⟩
/-- TG_BUDGET (02, R74). -/
def TG_BUDGET : Nat := 0x30008
/-- TG_BUDGET.FB. -/
def TG_BUDGET_FB : Fld := ⟨0, 7⟩
/-- TG_TICK_LO (02, R74). -/
def TG_TICK_LO : Nat := 0x30010
/-- TG_TICK_LO.TICK_LO. -/
def TG_TICK_LO_TICK_LO : Fld := ⟨0, 32⟩
/-- TG_TICK_HI (02, R74). -/
def TG_TICK_HI : Nat := 0x30014
/-- TG_TICK_HI.TICK_HI. -/
def TG_TICK_HI_TICK_HI : Fld := ⟨0, 32⟩
/-- TG_ARRIVAL (02, R74). -/
def TG_ARRIVAL : Nat := 0x30018
/-- TG_ARRIVAL.ARRIVAL_MAX. -/
def TG_ARRIVAL_ARRIVAL_MAX : Fld := ⟨0, 8⟩
/-- TG_STRETCH (02, R74). -/
def TG_STRETCH : Nat := 0x3001C
/-- TG_STRETCH.STRETCHED. -/
def TG_STRETCH_STRETCHED : Fld := ⟨0, 32⟩
/-- SLOT_CTL (02, R74). -/
def SLOT_CTL (i : Nat) : Nat := 0x810000 + i * 0x80000
/-- SLOT_CTL.ENABLE. -/
def SLOT_CTL_ENABLE : Fld := ⟨0, 1⟩
/-- SLOT_CTL.PERIOD. -/
def SLOT_CTL_PERIOD : Fld := ⟨16, 13⟩
/-- SLOT_CTL.REPEAT. -/
def SLOT_CTL_REPEAT : Fld := ⟨29, 1⟩
/-- SLOT_ALIGN (02, R74). -/
def SLOT_ALIGN (i : Nat) : Nat := 0x810004 + i * 0x80000
/-- SLOT_ALIGN.TICK_ALIGN. -/
def SLOT_ALIGN_TICK_ALIGN : Fld := ⟨0, 8⟩
/-- SLOT_ALIGN.ARRIVAL. -/
def SLOT_ALIGN_ARRIVAL : Fld := ⟨8, 8⟩
/-- SLOT_STATUS (02, R74). -/
def SLOT_STATUS (i : Nat) : Nat := 0x810008 + i * 0x80000
/-- SLOT_STATUS.MISS. -/
def SLOT_STATUS_MISS : Fld := ⟨0, 1⟩
/-- SLOT_STATUS.DROP. -/
def SLOT_STATUS_DROP : Fld := ⟨1, 1⟩
/-- SLOT_STATUS.TICK_FAULT. -/
def SLOT_STATUS_TICK_FAULT : Fld := ⟨2, 1⟩
/-- SLOT_READ_IDX (02, R74). -/
def SLOT_READ_IDX (i : Nat) : Nat := 0x810010 + i * 0x80000
/-- SLOT_READ_IDX.IDX. -/
def SLOT_READ_IDX_IDX : Fld := ⟨0, 13⟩
/-- SLOT_READ_0–3 (02, R74). -/
def SLOT_READ (i j : Nat) : Nat := 0x810014 + i * 0x80000 + j * 0x4
/-- SLOT_READ.ENTRY. -/
def SLOT_READ_ENTRY : Fld := ⟨0, 32⟩
/-- SC_CLAUSE_CYC (02, R74). -/
def SC_CLAUSE_CYC (i : Nat) : Nat := 0x2800F00 + i * 0x10000
/-- SC_CLAUSE_CYC.CYCLES. -/
def SC_CLAUSE_CYC_CYCLES : Fld := ⟨0, 32⟩
/-- SC_STALL_CYC (02, R74). -/
def SC_STALL_CYC (i : Nat) : Nat := 0x2800F04 + i * 0x10000
/-- SC_STALL_CYC.STALLS. -/
def SC_STALL_CYC_STALLS : Fld := ⟨0, 32⟩
/-- SC_MARGIN_MIN (02, R74). -/
def SC_MARGIN_MIN (i : Nat) : Nat := 0x2800F08 + i * 0x10000
/-- SC_MARGIN_MIN.MARGIN. -/
def SC_MARGIN_MIN_MARGIN : Fld := ⟨0, 32⟩
/-- SC_OVERRUN (02, R74). -/
def SC_OVERRUN (i : Nat) : Nat := 0x2800F0C + i * 0x10000
/-- SC_OVERRUN.COUNT. -/
def SC_OVERRUN_COUNT : Fld := ⟨0, 16⟩
/-- SC_OVERRUN.LAST. -/
def SC_OVERRUN_LAST : Fld := ⟨16, 1⟩
/-- SC_STATUS (04, R135). -/
def SC_STATUS (i : Nat) : Nat := 0x2800E00 + i * 0x10000
/-- SC_STATUS.RUNNING. -/
def SC_STATUS_RUNNING : Fld := ⟨0, 2⟩
/-- SC_STATUS.ACC_POISON_ANY. -/
def SC_STATUS_ACC_POISON_ANY : Fld := ⟨2, 1⟩
/-- SC_STATUS.GF_WAIT. -/
def SC_STATUS_GF_WAIT : Fld := ⟨3, 1⟩
/-- SC_FAULT (04, R135). -/
def SC_FAULT (i : Nat) : Nat := 0x2800E04 + i * 0x10000
/-- SC_FAULT.SCATTER. -/
def SC_FAULT_SCATTER : Fld := ⟨0, 1⟩
/-- SC_FAULT.IN_RANGE. -/
def SC_FAULT_IN_RANGE : Fld := ⟨1, 1⟩
/-- SC_FAULT.HDR. -/
def SC_FAULT_HDR : Fld := ⟨2, 1⟩
/-- SC_FAULT.ACC_PARITY. -/
def SC_FAULT_ACC_PARITY : Fld := ⟨3, 1⟩
/-- SC_FAULT.PAIRING. -/
def SC_FAULT_PAIRING : Fld := ⟨4, 1⟩
/-- SC_GROUPS_LO (04, R135). -/
def SC_GROUPS_LO (i : Nat) : Nat := 0x2800E08 + i * 0x10000
/-- SC_GROUPS_LO.GROUPS_LO. -/
def SC_GROUPS_LO_GROUPS_LO : Fld := ⟨0, 32⟩
/-- SC_GROUPS_HI (04, R135). -/
def SC_GROUPS_HI (i : Nat) : Nat := 0x2800E0C + i * 0x10000
/-- SC_GROUPS_HI.GROUPS_HI. -/
def SC_GROUPS_HI_GROUPS_HI : Fld := ⟨0, 32⟩
/-- SC_MERGED (04, R135). -/
def SC_MERGED (i : Nat) : Nat := 0x2800E10 + i * 0x10000
/-- SC_MERGED.MERGED. -/
def SC_MERGED_MERGED : Fld := ⟨0, 32⟩
/-- SC_SPILL_SEQ (04, R135). -/
def SC_SPILL_SEQ (i : Nat) : Nat := 0x2800E14 + i * 0x10000
/-- SC_SPILL_SEQ.SEQ. -/
def SC_SPILL_SEQ_SEQ : Fld := ⟨0, 32⟩
/-- SC_SLICE (04, R135). -/
def SC_SLICE (i : Nat) : Nat := 0x2800E18 + i * 0x10000
/-- SC_SLICE.RPOS. -/
def SC_SLICE_RPOS : Fld := ⟨0, 8⟩
/-- SC_SLICE.REGION. -/
def SC_SLICE_REGION : Fld := ⟨8, 8⟩
/-- SC_EMPTY (04, R135). -/
def SC_EMPTY (i : Nat) : Nat := 0x2800E1C + i * 0x10000
/-- SC_EMPTY.EMPTY. -/
def SC_EMPTY_EMPTY : Fld := ⟨0, 32⟩
/-- SC_ACC_POISON_0–7 (04, R135). -/
def SC_ACC_POISON (i j : Nat) : Nat := 0x2800E20 + i * 0x10000 + j * 0x4
/-- SC_ACC_POISON.POISON. -/
def SC_ACC_POISON_POISON : Fld := ⟨0, 32⟩
/-- SC_W1_SEQ (04, R135). -/
def SC_W1_SEQ (i : Nat) : Nat := 0x2800E40 + i * 0x10000
/-- SC_W1_SEQ.SEQ. -/
def SC_W1_SEQ_SEQ : Fld := ⟨0, 32⟩
/-- SHF_PART (05, R165). -/
def SHF_PART (i : Nat) : Nat := 0x2800C00 + i * 0x10000
/-- SHF_PART.FG_ROWS. -/
def SHF_PART_FG_ROWS : Fld := ⟨0, 6⟩
/-- SHF_AWAKE (05, R165). -/
def SHF_AWAKE (i : Nat) : Nat := 0x2800C04 + i * 0x10000
/-- SHF_AWAKE.AWAKE. -/
def SHF_AWAKE_AWAKE : Fld := ⟨0, 16⟩
/-- SHF_ACCEPT (05, R165). -/
def SHF_ACCEPT (i : Nat) : Nat := 0x2800C08 + i * 0x10000
/-- SHF_ACCEPT.ACCEPT. -/
def SHF_ACCEPT_ACCEPT : Fld := ⟨0, 16⟩
/-- SHF_BUSY (05, R165). -/
def SHF_BUSY (i : Nat) : Nat := 0x2800C0C + i * 0x10000
/-- SHF_BUSY.BUSY. -/
def SHF_BUSY_BUSY : Fld := ⟨0, 16⟩
/-- SHF_FAULT (05, R165). -/
def SHF_FAULT (i : Nat) : Nat := 0x2800C10 + i * 0x10000
/-- SHF_FAULT.PARITY. -/
def SHF_FAULT_PARITY : Fld := ⟨0, 1⟩
/-- SHF_FAULT.ASLEEP. -/
def SHF_FAULT_ASLEEP : Fld := ⟨1, 1⟩
/-- SHF_FAULT.COLLIDE. -/
def SHF_FAULT_COLLIDE : Fld := ⟨2, 1⟩
/-- SHF_FAULT.PORT. -/
def SHF_FAULT_PORT : Fld := ⟨3, 1⟩
/-- SHF_FAULT.PART. -/
def SHF_FAULT_PART : Fld := ⟨4, 1⟩
/-- SHF_FAULT.WP. -/
def SHF_FAULT_WP : Fld := ⟨5, 1⟩
/-- SHF_FAULT.SLEEP_REFUSED. -/
def SHF_FAULT_SLEEP_REFUSED : Fld := ⟨6, 1⟩
/-- SHF_PARITY_CNT (05, R165). -/
def SHF_PARITY_CNT (i : Nat) : Nat := 0x2800C14 + i * 0x10000
/-- SHF_PARITY_CNT.COUNT. -/
def SHF_PARITY_CNT_COUNT : Fld := ⟨0, 16⟩
/-- SHF_LAST_ERR (05, R165). -/
def SHF_LAST_ERR (i : Nat) : Nat := 0x2800C18 + i * 0x10000
/-- SHF_LAST_ERR.BANK. -/
def SHF_LAST_ERR_BANK : Fld := ⟨0, 7⟩
/-- SHF_LAST_ERR.ROW. -/
def SHF_LAST_ERR_ROW : Fld := ⟨7, 5⟩
/-- SHF_LAST_ERR.PORT. -/
def SHF_LAST_ERR_PORT : Fld := ⟨12, 2⟩
/-- SHF_LAST_ERR.FILLER. -/
def SHF_LAST_ERR_FILLER : Fld := ⟨14, 1⟩
/-- SHF_REFUSED (05, R165). -/
def SHF_REFUSED (i : Nat) : Nat := 0x2800C1C + i * 0x10000
/-- SHF_REFUSED.COUNT. -/
def SHF_REFUSED_COUNT : Fld := ⟨0, 16⟩
/-- HT_ENTRY_n_LO (05, R165). -/
def HT_ENTRY_n_LO (i j : Nat) : Nat := 0x2802000 + i * 0x10000 + j * 0x8
/-- HT_ENTRY_n_LO.ENTRY_LO. -/
def HT_ENTRY_n_LO_ENTRY_LO : Fld := ⟨0, 32⟩
/-- HT_ENTRY_n_HI (05, R165). -/
def HT_ENTRY_n_HI (i j : Nat) : Nat := 0x2802004 + i * 0x10000 + j * 0x8
/-- HT_ENTRY_n_HI.ENTRY_HI. -/
def HT_ENTRY_n_HI_ENTRY_HI : Fld := ⟨0, 32⟩
/-- STR_CTL_n (06, R199). -/
def STR_CTL (i j : Nat) : Nat := 0x2801000 + i * 0x10000 + j * 0x20
/-- STR_CTL.CUR. -/
def STR_CTL_CUR : Fld := ⟨0, 2⟩
/-- STR_CTL.NEXT. -/
def STR_CTL_NEXT : Fld := ⟨2, 2⟩
/-- STR_CTL.OWNER. -/
def STR_CTL_OWNER : Fld := ⟨4, 1⟩
/-- STR_CTL.ASSIGNED. -/
def STR_CTL_ASSIGNED : Fld := ⟨5, 1⟩
/-- STR_CTL.CUR_ENTRY. -/
def STR_CTL_CUR_ENTRY : Fld := ⟨6, 8⟩
/-- STR_CTL.NEXT_ENTRY. -/
def STR_CTL_NEXT_ENTRY : Fld := ⟨14, 8⟩
/-- STR_LANDED_n (06, R199). -/
def STR_LANDED (i j : Nat) : Nat := 0x2801004 + i * 0x10000 + j * 0x20
/-- STR_LANDED.LANDED. -/
def STR_LANDED_LANDED : Fld := ⟨0, 32⟩
/-- STR_TOTAL_n (06, R199). -/
def STR_TOTAL (i j : Nat) : Nat := 0x2801008 + i * 0x10000 + j * 0x20
/-- STR_TOTAL.TOTAL. -/
def STR_TOTAL_TOTAL : Fld := ⟨0, 32⟩
/-- STR_STAGE_n (06, R199). -/
def STR_STAGE (i j : Nat) : Nat := 0x280100C + i * 0x10000 + j * 0x20
/-- STR_STAGE.CUR_FILL. -/
def STR_STAGE_CUR_FILL : Fld := ⟨0, 7⟩
/-- STR_STAGE.NEXT_FILL. -/
def STR_STAGE_NEXT_FILL : Fld := ⟨8, 7⟩
/-- STR_FAULT_n (06, R199). -/
def STR_FAULT (i j : Nat) : Nat := 0x2801010 + i * 0x10000 + j * 0x20
/-- STR_FAULT.START. -/
def STR_FAULT_START : Fld := ⟨0, 1⟩
/-- STR_FAULT.OVERFLOW. -/
def STR_FAULT_OVERFLOW : Fld := ⟨1, 1⟩
/-- STR_FAULT.GROUP. -/
def STR_FAULT_GROUP : Fld := ⟨2, 1⟩
/-- STR_FAULT.CAPTURE. -/
def STR_FAULT_CAPTURE : Fld := ⟨3, 1⟩
/-- STR_FAULT.AGENT. -/
def STR_FAULT_AGENT : Fld := ⟨4, 1⟩
/-- STR_FAULT.POISON. -/
def STR_FAULT_POISON : Fld := ⟨5, 1⟩
/-- STR_FAULT.STRAY. -/
def STR_FAULT_STRAY : Fld := ⟨6, 1⟩
/-- STR_PRED_MISS_n (06, R199). -/
def STR_PRED_MISS (i j : Nat) : Nat := 0x2801014 + i * 0x10000 + j * 0x20
/-- STR_PRED_MISS.MISS. -/
def STR_PRED_MISS_MISS : Fld := ⟨0, 32⟩
/-- STR_ROW_OFS_n (06, R199). -/
def STR_ROW_OFS (i j : Nat) : Nat := 0x2801018 + i * 0x10000 + j * 0x20
/-- STR_ROW_OFS.ROW_OFS. -/
def STR_ROW_OFS_ROW_OFS : Fld := ⟨0, 32⟩
/-- STR_PROG_n_w (06, R199). -/
def STR_PROG (i j k : Nat) : Nat := 0x2804000 + i * 0x10000 + j * 0x40 + k * 0x4
/-- STR_PROG.WORD. -/
def STR_PROG_WORD : Fld := ⟨0, 32⟩
/-- CORE_PORT_MAP_i (06, R199). -/
def CORE_PORT_MAP (i j : Nat) : Nat := 0x280C000 + i * 0x10000 + j * 0x4
/-- CORE_PORT_MAP.ENTRY_LO. -/
def CORE_PORT_MAP_ENTRY_LO : Fld := ⟨0, 16⟩
/-- CORE_PORT_MAP.ENTRY_HI. -/
def CORE_PORT_MAP_ENTRY_HI : Fld := ⟨16, 16⟩
/-- CL_STATUS (07, R234). -/
def CL_STATUS (i : Nat) : Nat := 0x2800D00 + i * 0x10000
/-- CL_STATUS.SEQ_POS. -/
def CL_STATUS_SEQ_POS : Fld := ⟨0, 11⟩
/-- CL_STATUS.YIELDED. -/
def CL_STATUS_YIELDED : Fld := ⟨11, 1⟩
/-- CL_STATUS.ENDED. -/
def CL_STATUS_ENDED : Fld := ⟨12, 1⟩
/-- CL_STATUS.REP. -/
def CL_STATUS_REP : Fld := ⟨16, 16⟩
/-- CL_WAIT (07, R234). -/
def CL_WAIT (i : Nat) : Nat := 0x2800D04 + i * 0x10000
/-- CL_WAIT.PC. -/
def CL_WAIT_PC : Fld := ⟨0, 13⟩
/-- CL_WAIT.WAIT. -/
def CL_WAIT_WAIT : Fld := ⟨16, 3⟩
/-- CL_FAULT (07, R234). -/
def CL_FAULT (i : Nat) : Nat := 0x2800D08 + i * 0x10000
/-- CL_FAULT.ILLEGAL. -/
def CL_FAULT_ILLEGAL : Fld := ⟨0, 1⟩
/-- CL_FAULT.BRANCH. -/
def CL_FAULT_BRANCH : Fld := ⟨1, 1⟩
/-- CL_FAULT.FELL_OFF. -/
def CL_FAULT_FELL_OFF : Fld := ⟨2, 1⟩
/-- CL_FAULT.SHAPE. -/
def CL_FAULT_SHAPE : Fld := ⟨3, 1⟩
/-- CL_FAULT.WORD. -/
def CL_FAULT_WORD : Fld := ⟨4, 1⟩
/-- CL_NOTE (07, R234). -/
def CL_NOTE (i : Nat) : Nat := 0x2800D0C + i * 0x10000
/-- CL_NOTE.COVER. -/
def CL_NOTE_COVER : Fld := ⟨0, 5⟩
/-- CL_NOTE.LEVEL. -/
def CL_NOTE_LEVEL : Fld := ⟨5, 5⟩
/-- CL_GATED (07, R234). -/
def CL_GATED (i : Nat) : Nat := 0x2800D10 + i * 0x10000
/-- CL_GATED.CYCLES. -/
def CL_GATED_CYCLES : Fld := ⟨0, 32⟩
/-- CL_BALLAST (07, R234). -/
def CL_BALLAST (i : Nat) : Nat := 0x2800D14 + i * 0x10000
/-- CL_BALLAST.CYCLES. -/
def CL_BALLAST_CYCLES : Fld := ⟨0, 32⟩
/-- CC_STATUS (08, R257). -/
def CC_STATUS (i j : Nat) : Nat := 0x830000 + i * 0x80000 + j * 0x10000
/-- CC_STATUS.TRAINED. -/
def CC_STATUS_TRAINED : Fld := ⟨0, 1⟩
/-- CC_STATUS.SELF_REFRESH. -/
def CC_STATUS_SELF_REFRESH : Fld := ⟨1, 1⟩
/-- CC_STATUS.HOT. -/
def CC_STATUS_HOT : Fld := ⟨2, 1⟩
/-- CC_STATUS.STACK_LOST. -/
def CC_STATUS_STACK_LOST : Fld := ⟨3, 1⟩
/-- CC_STATUS.WIPED. -/
def CC_STATUS_WIPED : Fld := ⟨4, 1⟩
/-- CC_SCRUB_CTL (08, R257). -/
def CC_SCRUB_CTL (i j : Nat) : Nat := 0x830004 + i * 0x80000 + j * 0x10000
/-- CC_SCRUB_CTL.EN. -/
def CC_SCRUB_CTL_EN : Fld := ⟨0, 1⟩
/-- CC_SCRUB_CTL.PERIOD_H. -/
def CC_SCRUB_CTL_PERIOD_H : Fld := ⟨1, 6⟩
/-- CC_SCRUB_POS (08, R257). -/
def CC_SCRUB_POS (i j : Nat) : Nat := 0x830008 + i * 0x80000 + j * 0x10000
/-- CC_SCRUB_POS.ROW. -/
def CC_SCRUB_POS_ROW : Fld := ⟨0, 30⟩
/-- CC_SCRUB_PASS (08, R257). -/
def CC_SCRUB_PASS (i j : Nat) : Nat := 0x83000C + i * 0x80000 + j * 0x10000
/-- CC_SCRUB_PASS.PASSES. -/
def CC_SCRUB_PASS_PASSES : Fld := ⟨0, 32⟩
/-- CC_CE_CNT (08, R257). -/
def CC_CE_CNT (i j : Nat) : Nat := 0x830010 + i * 0x80000 + j * 0x10000
/-- CC_CE_CNT.COUNT. -/
def CC_CE_CNT_COUNT : Fld := ⟨0, 32⟩
/-- CC_CE_LAST (08, R257). -/
def CC_CE_LAST (i j : Nat) : Nat := 0x830014 + i * 0x80000 + j * 0x10000
/-- CC_CE_LAST.PC. -/
def CC_CE_LAST_PC : Fld := ⟨0, 6⟩
/-- CC_CE_LAST.SYMBOL. -/
def CC_CE_LAST_SYMBOL : Fld := ⟨6, 7⟩
/-- CC_CE_LAST.CODEWORD. -/
def CC_CE_LAST_CODEWORD : Fld := ⟨13, 2⟩
/-- CC_UE_CNT (08, R257). -/
def CC_UE_CNT (i j : Nat) : Nat := 0x830018 + i * 0x80000 + j * 0x10000
/-- CC_UE_CNT.COUNT. -/
def CC_UE_CNT_COUNT : Fld := ⟨0, 16⟩
/-- CC_POISON_RD (08, R257). -/
def CC_POISON_RD (i j : Nat) : Nat := 0x83001C + i * 0x80000 + j * 0x10000
/-- CC_POISON_RD.COUNT. -/
def CC_POISON_RD_COUNT : Fld := ⟨0, 32⟩
/-- CC_ERR_ADDR_LO (08, R257). -/
def CC_ERR_ADDR_LO (i j : Nat) : Nat := 0x830020 + i * 0x80000 + j * 0x10000
/-- CC_ERR_ADDR_LO.ADDR_LO. -/
def CC_ERR_ADDR_LO_ADDR_LO : Fld := ⟨0, 32⟩
/-- CC_ERR_ADDR_HI (08, R257). -/
def CC_ERR_ADDR_HI (i j : Nat) : Nat := 0x830024 + i * 0x80000 + j * 0x10000
/-- CC_ERR_ADDR_HI.ADDR_HI. -/
def CC_ERR_ADDR_HI_ADDR_HI : Fld := ⟨0, 5⟩
/-- CC_ERR_ADDR_HI.BY_SCRUB. -/
def CC_ERR_ADDR_HI_BY_SCRUB : Fld := ⟨5, 1⟩
/-- CC_ERR_SYN (08, R257). -/
def CC_ERR_SYN (i j : Nat) : Nat := 0x830028 + i * 0x80000 + j * 0x10000
/-- CC_ERR_SYN.SYNDROME. -/
def CC_ERR_SYN_SYNDROME : Fld := ⟨0, 32⟩
/-- CC_TEMP (08, R257). -/
def CC_TEMP (i j : Nat) : Nat := 0x83002C + i * 0x80000 + j * 0x10000
/-- CC_TEMP.TEMP_C. -/
def CC_TEMP_TEMP_C : Fld := ⟨0, 8⟩
/-- CC_BUDGET (08, R257). -/
def CC_BUDGET (i j : Nat) : Nat := 0x830030 + i * 0x80000 + j * 0x10000
/-- CC_BUDGET.ONE_DIR. -/
def CC_BUDGET_ONE_DIR : Fld := ⟨0, 7⟩
/-- CC_BUDGET.MIXED. -/
def CC_BUDGET_MIXED : Fld := ⟨8, 7⟩
/-- CC_LOCK (08, R257). -/
def CC_LOCK (i j : Nat) : Nat := 0x830034 + i * 0x80000 + j * 0x10000
/-- CC_LOCK.LOCK. -/
def CC_LOCK_LOCK : Fld := ⟨0, 1⟩
/-- CC_TAG_n (08, R257). -/
def CC_TAG (i j k : Nat) : Nat := 0x831000 + i * 0x80000 + j * 0x10000 + k * 0x4
/-- CC_TAG.TAG0. -/
def CC_TAG_TAG0 : Fld := ⟨0, 8⟩
/-- CC_TAG.TAG1. -/
def CC_TAG_TAG1 : Fld := ⟨8, 8⟩
/-- CC_TAG.TAG2. -/
def CC_TAG_TAG2 : Fld := ⟨16, 8⟩
/-- CC_TAG.TAG3. -/
def CC_TAG_TAG3 : Fld := ⟨24, 8⟩
/-- UE_STATUS (09, R293). -/
def UE_STATUS (i : Nat) : Nat := 0x850000 + i * 0x80000
/-- UE_STATUS.STATE. -/
def UE_STATUS_STATE : Fld := ⟨0, 2⟩
/-- UE_STATUS.RECLIP_PASS. -/
def UE_STATUS_RECLIP_PASS : Fld := ⟨2, 1⟩
/-- UE_ORDER (09, R293). -/
def UE_ORDER (i : Nat) : Nat := 0x850004 + i * 0x80000
/-- UE_ORDER.POS. -/
def UE_ORDER_POS : Fld := ⟨0, 11⟩
/-- UE_ORDER.LEN. -/
def UE_ORDER_LEN : Fld := ⟨16, 11⟩
/-- UE_RETRY (09, R293). -/
def UE_RETRY (i : Nat) : Nat := 0x850008 + i * 0x80000
/-- UE_RETRY.COUNT. -/
def UE_RETRY_COUNT : Fld := ⟨0, 16⟩
/-- UE_FAULT (09, R293). -/
def UE_FAULT (i : Nat) : Nat := 0x85000C + i * 0x80000
/-- UE_FAULT.PARITY. -/
def UE_FAULT_PARITY : Fld := ⟨0, 1⟩
/-- UE_FAULT.SIDE. -/
def UE_FAULT_SIDE : Fld := ⟨1, 1⟩
/-- UE_FAULT.STATE_POISON. -/
def UE_FAULT_STATE_POISON : Fld := ⟨2, 1⟩
/-- UE_FAULT.GRAD_POISON. -/
def UE_FAULT_GRAD_POISON : Fld := ⟨3, 1⟩
/-- UE_FAULT.ORDER. -/
def UE_FAULT_ORDER : Fld := ⟨4, 1⟩
/-- UE_ROWS_LO (09, R293). -/
def UE_ROWS_LO (i : Nat) : Nat := 0x850010 + i * 0x80000
/-- UE_ROWS_LO.ROWS_LO. -/
def UE_ROWS_LO_ROWS_LO : Fld := ⟨0, 32⟩
/-- UE_ROWS_HI (09, R293). -/
def UE_ROWS_HI (i : Nat) : Nat := 0x850014 + i * 0x80000
/-- UE_ROWS_HI.ROWS_HI. -/
def UE_ROWS_HI_ROWS_HI : Fld := ⟨0, 32⟩
/-- UE_MAP_SEL (09, R293). -/
def UE_MAP_SEL (i : Nat) : Nat := 0x850020 + i * 0x80000
/-- UE_MAP_SEL.CHUNK. -/
def UE_MAP_SEL_CHUNK : Fld := ⟨0, 15⟩
/-- UE_MAP_SEL.STACK. -/
def UE_MAP_SEL_STACK : Fld := ⟨15, 1⟩
/-- UE_MAP_0–3 (09, R293). -/
def UE_MAP (i j : Nat) : Nat := 0x850024 + i * 0x80000 + j * 0x4
/-- UE_MAP.ENTRY. -/
def UE_MAP_ENTRY : Fld := ⟨0, 32⟩
/-- UE_RULE_n_w (09, R293). -/
def UE_RULE (i j k : Nat) : Nat := 0x854000 + i * 0x80000 + j * 0x40 + k * 0x4
/-- UE_RULE.WORD. -/
def UE_RULE_WORD : Fld := ⟨0, 32⟩
/-- STEP_EPOCH_LO (09, R293). -/
def STEP_EPOCH_LO : Nat := 0x40000
/-- STEP_EPOCH_LO.EPOCH_LO. -/
def STEP_EPOCH_LO_EPOCH_LO : Fld := ⟨0, 32⟩
/-- STEP_EPOCH_HI (09, R293). -/
def STEP_EPOCH_HI : Nat := 0x40004
/-- STEP_EPOCH_HI.EPOCH_HI. -/
def STEP_EPOCH_HI_EPOCH_HI : Fld := ⟨0, 32⟩
/-- STEP_COUNT_LO (09, R293). -/
def STEP_COUNT_LO : Nat := 0x40008
/-- STEP_COUNT_LO.COUNT_LO. -/
def STEP_COUNT_LO_COUNT_LO : Fld := ⟨0, 32⟩
/-- STEP_COUNT_HI (09, R293). -/
def STEP_COUNT_HI : Nat := 0x4000C
/-- STEP_COUNT_HI.COUNT_HI. -/
def STEP_COUNT_HI_COUNT_HI : Fld := ⟨0, 32⟩
/-- STEP_APPLIED_LO (09, R293). -/
def STEP_APPLIED_LO : Nat := 0x40010
/-- STEP_APPLIED_LO.APPLIED_LO. -/
def STEP_APPLIED_LO_APPLIED_LO : Fld := ⟨0, 32⟩
/-- STEP_APPLIED_HI (09, R293). -/
def STEP_APPLIED_HI : Nat := 0x40014
/-- STEP_APPLIED_HI.APPLIED_HI. -/
def STEP_APPLIED_HI_APPLIED_HI : Fld := ⟨0, 32⟩
/-- STEP_LAST (09, R293). -/
def STEP_LAST : Nat := 0x40018
/-- STEP_LAST.VERDICT. -/
def STEP_LAST_VERDICT : Fld := ⟨0, 3⟩
/-- STEP_LAST.SCOPE. -/
def STEP_LAST_SCOPE : Fld := ⟨3, 1⟩
/-- STEP_LAST.ATTEMPT. -/
def STEP_LAST_ATTEMPT : Fld := ⟨8, 8⟩
/-- STEP_SKIPS (09, R293). -/
def STEP_SKIPS : Nat := 0x4001C
/-- STEP_SKIPS.COUNT. -/
def STEP_SKIPS_COUNT : Fld := ⟨0, 32⟩
/-- STEP_RERUNS (09, R293). -/
def STEP_RERUNS : Nat := 0x40020
/-- STEP_RERUNS.COUNT. -/
def STEP_RERUNS_COUNT : Fld := ⟨0, 32⟩
/-- STEP_RECLIPS (09, R293). -/
def STEP_RECLIPS : Nat := 0x40024
/-- STEP_RECLIPS.COUNT. -/
def STEP_RECLIPS_COUNT : Fld := ⟨0, 32⟩
/-- STEP_CLIP (09, R293). -/
def STEP_CLIP : Nat := 0x40028
/-- STEP_CLIP.CLIP. -/
def STEP_CLIP_CLIP : Fld := ⟨0, 32⟩
/-- VRD_STATUS (10, R327). -/
def VRD_STATUS : Nat := 0x50000
/-- VRD_STATUS.STATE. -/
def VRD_STATUS_STATE : Fld := ⟨0, 2⟩
/-- VRD_STATUS.ROOT_X. -/
def VRD_STATUS_ROOT_X : Fld := ⟨2, 1⟩
/-- VRD_STATUS.ANCHOR. -/
def VRD_STATUS_ANCHOR : Fld := ⟨3, 1⟩
/-- VRD_DIVERGE (10, R327). -/
def VRD_DIVERGE : Nat := 0x50004
/-- VRD_DIVERGE.COUNT. -/
def VRD_DIVERGE_COUNT : Fld := ⟨0, 16⟩
/-- VRD_SUSPECT (10, R327). -/
def VRD_SUSPECT : Nat := 0x50008
/-- VRD_SUSPECT.COUNT. -/
def VRD_SUSPECT_COUNT : Fld := ⟨0, 16⟩
/-- VRD_STALE (10, R327). -/
def VRD_STALE : Nat := 0x5000C
/-- VRD_STALE.COUNT. -/
def VRD_STALE_COUNT : Fld := ⟨0, 32⟩
/-- JOB_POS_0 (10, R327). -/
def JOB_POS_0 : Nat := 0x50010
/-- JOB_POS_0.X. -/
def JOB_POS_0_X : Fld := ⟨0, 16⟩
/-- JOB_POS_0.Y. -/
def JOB_POS_0_Y : Fld := ⟨16, 16⟩
/-- JOB_POS_1 (10, R327). -/
def JOB_POS_1 : Nat := 0x50014
/-- JOB_POS_1.Z. -/
def JOB_POS_1_Z : Fld := ⟨0, 16⟩
/-- JOB_SIZE_0 (10, R327). -/
def JOB_SIZE_0 : Nat := 0x50018
/-- JOB_SIZE_0.NX_M1. -/
def JOB_SIZE_0_NX_M1 : Fld := ⟨0, 12⟩
/-- JOB_SIZE_0.NY_M1. -/
def JOB_SIZE_0_NY_M1 : Fld := ⟨16, 12⟩
/-- JOB_SIZE_1 (10, R327). -/
def JOB_SIZE_1 : Nat := 0x5001C
/-- JOB_SIZE_1.NZ_M1. -/
def JOB_SIZE_1_NZ_M1 : Fld := ⟨0, 12⟩
/-- JOB_ANCHOR (10, R327). -/
def JOB_ANCHOR : Nat := 0x50020
/-- JOB_ANCHOR.MODULE. -/
def JOB_ANCHOR_MODULE : Fld := ⟨0, 16⟩
/-- JOB_RING_a_i (10, R327). -/
def JOB_RING (i j : Nat) : Nat := 0x51000 + i * 0x2000 + j * 0x4
/-- JOB_RING.ENTRY_LO. -/
def JOB_RING_ENTRY_LO : Fld := ⟨0, 16⟩
/-- JOB_RING.ENTRY_HI. -/
def JOB_RING_ENTRY_HI : Fld := ⟨16, 16⟩
/-- RDX_STATUS (10, R327). -/
def RDX_STATUS (i : Nat) : Nat := 0x400000 + i * 0x20000
/-- RDX_STATUS.STATE. -/
def RDX_STATUS_STATE : Fld := ⟨0, 2⟩
/-- RDX_STATUS.CUR. -/
def RDX_STATUS_CUR : Fld := ⟨4, 8⟩
/-- RDX_STATUS.VSTAGE_A. -/
def RDX_STATUS_VSTAGE_A : Fld := ⟨12, 1⟩
/-- RDX_STATUS.VSTAGE_B. -/
def RDX_STATUS_VSTAGE_B : Fld := ⟨13, 1⟩
/-- RDX_QLEN (10, R327). -/
def RDX_QLEN (i : Nat) : Nat := 0x400004 + i * 0x20000
/-- RDX_QLEN.LEN. -/
def RDX_QLEN_LEN : Fld := ⟨0, 9⟩
/-- RDX_FAULT (10, R327). -/
def RDX_FAULT (i : Nat) : Nat := 0x400008 + i * 0x20000
/-- RDX_FAULT.DIGEST. -/
def RDX_FAULT_DIGEST : Fld := ⟨0, 1⟩
/-- RDX_FAULT.BLAMED. -/
def RDX_FAULT_BLAMED : Fld := ⟨1, 1⟩
/-- RDX_DIG_BAD_A (10, R327). -/
def RDX_DIG_BAD_A (i : Nat) : Nat := 0x40000C + i * 0x20000
/-- RDX_DIG_BAD_A.COUNT. -/
def RDX_DIG_BAD_A_COUNT : Fld := ⟨0, 16⟩
/-- RDX_DIG_BAD_B (10, R327). -/
def RDX_DIG_BAD_B (i : Nat) : Nat := 0x400010 + i * 0x20000
/-- RDX_DIG_BAD_B.COUNT. -/
def RDX_DIG_BAD_B_COUNT : Fld := ⟨0, 16⟩
/-- RDX_BLAMED (10, R327). -/
def RDX_BLAMED (i : Nat) : Nat := 0x400014 + i * 0x20000
/-- RDX_BLAMED.COUNT. -/
def RDX_BLAMED_COUNT : Fld := ⟨0, 16⟩
/-- RDX_LAST_SENDER (10, R327). -/
def RDX_LAST_SENDER (i : Nat) : Nat := 0x400018 + i * 0x20000
/-- RDX_LAST_SENDER.MODULE. -/
def RDX_LAST_SENDER_MODULE : Fld := ⟨0, 16⟩
/-- RDX_LAST_SENDER.PORT. -/
def RDX_LAST_SENDER_PORT : Fld := ⟨16, 1⟩
/-- RDX_ROWS_LO (10, R327). -/
def RDX_ROWS_LO (i : Nat) : Nat := 0x400020 + i * 0x20000
/-- RDX_ROWS_LO.ROWS_LO. -/
def RDX_ROWS_LO_ROWS_LO : Fld := ⟨0, 32⟩
/-- RDX_ROWS_HI (10, R327). -/
def RDX_ROWS_HI (i : Nat) : Nat := 0x400024 + i * 0x20000
/-- RDX_ROWS_HI.ROWS_HI. -/
def RDX_ROWS_HI_ROWS_HI : Fld := ⟨0, 32⟩
/-- RDX_DESC_n_w (10, R327). -/
def RDX_DESC (i j k : Nat) : Nat := 0x401000 + i * 0x20000 + j * 0x40 + k * 0x4
/-- RDX_DESC.WORD. -/
def RDX_DESC_WORD : Fld := ⟨0, 32⟩
/-- SYNC_FAULT (10, R327). -/
def SYNC_FAULT (i : Nat) : Nat := 0x870000 + i * 0x80000
/-- SYNC_FAULT.CTX. -/
def SYNC_FAULT_CTX : Fld := ⟨0, 1⟩
/-- SYNC_FAULT.OVF. -/
def SYNC_FAULT_OVF : Fld := ⟨1, 1⟩
/-- SYNC_FAULT.NACK. -/
def SYNC_FAULT_NACK : Fld := ⟨2, 1⟩
/-- SYNC_WAITERS (10, R327). -/
def SYNC_WAITERS (i : Nat) : Nat := 0x870004 + i * 0x80000
/-- SYNC_WAITERS.COUNT. -/
def SYNC_WAITERS_COUNT : Fld := ⟨0, 9⟩
/-- SYNC_OBJ_j_w (10, R327). -/
def SYNC_OBJ (i j k : Nat) : Nat := 0x871000 + i * 0x80000 + j * 0x10 + k * 0x4
/-- SYNC_OBJ.WORD. -/
def SYNC_OBJ_WORD : Fld := ⟨0, 32⟩
/-- GP_STATUS_n (11, R364). -/
def GP_STATUS (i j : Nat) : Nat := 0x410000 + i * 0x20000 + j * 0x100
/-- GP_STATUS.STATE. -/
def GP_STATUS_STATE : Fld := ⟨0, 3⟩
/-- GP_STATUS.PEER_LEVEL. -/
def GP_STATUS_PEER_LEVEL : Fld := ⟨12, 8⟩
/-- GP_STATUS.LINK_LEVEL. -/
def GP_STATUS_LINK_LEVEL : Fld := ⟨20, 8⟩
/-- GP_FEC_CE_n (11, R364). -/
def GP_FEC_CE (i j : Nat) : Nat := 0x410004 + i * 0x20000 + j * 0x100
/-- GP_FEC_CE.COUNT. -/
def GP_FEC_CE_COUNT : Fld := ⟨0, 32⟩
/-- GP_FEC_UE_n (11, R364). -/
def GP_FEC_UE (i j : Nat) : Nat := 0x410008 + i * 0x20000 + j * 0x100
/-- GP_FEC_UE.COUNT. -/
def GP_FEC_UE_COUNT : Fld := ⟨0, 32⟩
/-- GP_RETRY_n (11, R364). -/
def GP_RETRY (i j : Nat) : Nat := 0x41000C + i * 0x20000 + j * 0x100
/-- GP_RETRY.REPLAYS. -/
def GP_RETRY_REPLAYS : Fld := ⟨0, 16⟩
/-- GP_RETRY.REQUESTS. -/
def GP_RETRY_REQUESTS : Fld := ⟨16, 16⟩
/-- GP_DOWN_n (11, R364). -/
def GP_DOWN (i j : Nat) : Nat := 0x410010 + i * 0x20000 + j * 0x100
/-- GP_DOWN.COUNT. -/
def GP_DOWN_COUNT : Fld := ⟨0, 16⟩
/-- GP_FAULT_n (11, R364). -/
def GP_FAULT (i j : Nat) : Nat := 0x410014 + i * 0x20000 + j * 0x100
/-- GP_FAULT.LINK_DOWN. -/
def GP_FAULT_LINK_DOWN : Fld := ⟨0, 1⟩
/-- GP_FAULT.LEVEL. -/
def GP_FAULT_LEVEL : Fld := ⟨1, 1⟩
/-- GP_FAULT.HCRC. -/
def GP_FAULT_HCRC : Fld := ⟨2, 1⟩
/-- GP_FAULT.INTEGRITY. -/
def GP_FAULT_INTEGRITY : Fld := ⟨3, 1⟩
/-- GP_FAULT.TXN_TIMEOUT. -/
def GP_FAULT_TXN_TIMEOUT : Fld := ⟨4, 1⟩
/-- GP_FAULT.MCAST_HOLD. -/
def GP_FAULT_MCAST_HOLD : Fld := ⟨5, 1⟩
/-- GP_FAULT.NACK_RX. -/
def GP_FAULT_NACK_RX : Fld := ⟨6, 1⟩
/-- GP_FAULT.NOROUTE. -/
def GP_FAULT_NOROUTE : Fld := ⟨7, 1⟩
/-- GP_CLASS_WT_n (11, R364). -/
def GP_CLASS_WT (i j : Nat) : Nat := 0x410018 + i * 0x20000 + j * 0x100
/-- GP_CLASS_WT.W1. -/
def GP_CLASS_WT_W1 : Fld := ⟨0, 4⟩
/-- GP_CLASS_WT.W2. -/
def GP_CLASS_WT_W2 : Fld := ⟨4, 4⟩
/-- GP_CLASS_WT.W3. -/
def GP_CLASS_WT_W3 : Fld := ⟨8, 4⟩
/-- GP_CREDIT_n_c (11, R364). -/
def GP_CREDIT (i j k : Nat) : Nat := 0x410020 + i * 0x20000 + j * 0x100 + k * 0x4
/-- GP_CREDIT.LIMIT. -/
def GP_CREDIT_LIMIT : Fld := ⟨0, 16⟩
/-- GP_CREDIT.USED. -/
def GP_CREDIT_USED : Fld := ⟨16, 16⟩
/-- GP_INJ_CTL_n (11, R364). -/
def GP_INJ_CTL (i j : Nat) : Nat := 0x410040 + i * 0x20000 + j * 0x100
/-- GP_INJ_CTL.MODE. -/
def GP_INJ_CTL_MODE : Fld := ⟨0, 3⟩
/-- GP_INJ_CTL.CLASSES. -/
def GP_INJ_CTL_CLASSES : Fld := ⟨4, 4⟩
/-- GP_INJ_RATE_n (11, R364). -/
def GP_INJ_RATE (i j : Nat) : Nat := 0x410044 + i * 0x20000 + j * 0x100
/-- GP_INJ_RATE.RATE. -/
def GP_INJ_RATE_RATE : Fld := ⟨0, 24⟩
/-- GP_INJ_SEED_n (11, R364). -/
def GP_INJ_SEED (i j : Nat) : Nat := 0x410048 + i * 0x20000 + j * 0x100
/-- GP_INJ_SEED.SEED. -/
def GP_INJ_SEED_SEED : Fld := ⟨0, 32⟩
/-- GP_INJ_CNT_n (11, R364). -/
def GP_INJ_CNT (i j : Nat) : Nat := 0x41004C + i * 0x20000 + j * 0x100
/-- GP_INJ_CNT.COUNT. -/
def GP_INJ_CNT_COUNT : Fld := ⟨0, 32⟩
/-- GP_LOCK_n (11, R364). -/
def GP_LOCK (i j : Nat) : Nat := 0x410050 + i * 0x20000 + j * 0x100
/-- GP_LOCK.LOCK. -/
def GP_LOCK_LOCK : Fld := ⟨0, 1⟩
/-- XFER_STATUS (11, R364). -/
def XFER_STATUS (i : Nat) : Nat := 0x410200 + i * 0x20000
/-- XFER_STATUS.STATE. -/
def XFER_STATUS_STATE : Fld := ⟨0, 2⟩
/-- XFER_STATUS.CUR. -/
def XFER_STATUS_CUR : Fld := ⟨4, 8⟩
/-- XFER_STATUS.PAUSED. -/
def XFER_STATUS_PAUSED : Fld := ⟨12, 1⟩
/-- XFER_QLEN (11, R364). -/
def XFER_QLEN (i : Nat) : Nat := 0x410204 + i * 0x20000
/-- XFER_QLEN.LEN. -/
def XFER_QLEN_LEN : Fld := ⟨0, 9⟩
/-- XFER_OUT (11, R364). -/
def XFER_OUT (i : Nat) : Nat := 0x410208 + i * 0x20000
/-- XFER_OUT.COUNT. -/
def XFER_OUT_COUNT : Fld := ⟨0, 16⟩
/-- XFER_DESC_n_w (11, R364). -/
def XFER_DESC (i j k : Nat) : Nat := 0x414000 + i * 0x20000 + j * 0x40 + k * 0x4
/-- XFER_DESC.WORD. -/
def XFER_DESC_WORD : Fld := ⟨0, 32⟩
/-- MCP_BUF (11, R364). -/
def MCP_BUF (i : Nat) : Nat := 0x405000 + i * 0x20000
/-- MCP_BUF.BYTES. -/
def MCP_BUF_BYTES : Fld := ⟨0, 22⟩
/-- MCP_HOLD_MAX (11, R364). -/
def MCP_HOLD_MAX (i : Nat) : Nat := 0x405004 + i * 0x20000
/-- MCP_HOLD_MAX.US. -/
def MCP_HOLD_MAX_US : Fld := ⟨0, 16⟩
/-- MCP_LIST_l_e_w (11, R364). -/
def MCP_LIST (i j k l : Nat) : Nat := 0x405800 + i * 0x20000 + j * 0x200 + k * 0x8 + l * 0x4
/-- MCP_LIST.WORD. -/
def MCP_LIST_WORD : Fld := ⟨0, 32⟩
/-- FAB_STATE (11, R364). -/
def FAB_STATE : Nat := 0x60000
/-- FAB_STATE.STATE. -/
def FAB_STATE_STATE : Fld := ⟨0, 2⟩
/-- FAB_STATE.QUORUM. -/
def FAB_STATE_QUORUM : Fld := ⟨2, 1⟩
/-- FAB_STATE.HOLDING. -/
def FAB_STATE_HOLDING : Fld := ⟨3, 1⟩
/-- FAB_MEPOCH (11, R364). -/
def FAB_MEPOCH : Nat := 0x60004
/-- FAB_MEPOCH.EPOCH. -/
def FAB_MEPOCH_EPOCH : Fld := ⟨0, 32⟩
/-- FAB_JOB_LO (11, R364). -/
def FAB_JOB_LO : Nat := 0x60008
/-- FAB_JOB_LO.JOB_LO. -/
def FAB_JOB_LO_JOB_LO : Fld := ⟨0, 32⟩
/-- FAB_JOB_HI (11, R364). -/
def FAB_JOB_HI : Nat := 0x6000C
/-- FAB_JOB_HI.JOB_HI. -/
def FAB_JOB_HI_JOB_HI : Fld := ⟨0, 32⟩
/-- FAB_MEMBERS (11, R364). -/
def FAB_MEMBERS : Nat := 0x60010
/-- FAB_MEMBERS.M. -/
def FAB_MEMBERS_M : Fld := ⟨0, 17⟩
/-- FAB_REACH (11, R364). -/
def FAB_REACH : Nat := 0x60014
/-- FAB_REACH.R. -/
def FAB_REACH_R : Fld := ⟨0, 17⟩
/-- FAB_LEVEL (11, R364). -/
def FAB_LEVEL : Nat := 0x60018
/-- FAB_LEVEL.LINK_LEVEL. -/
def FAB_LEVEL_LINK_LEVEL : Fld := ⟨0, 8⟩
/-- FAB_LEVEL.NUM_LEVEL. -/
def FAB_LEVEL_NUM_LEVEL : Fld := ⟨8, 8⟩
/-- FAB_MCAST_HOLD (11, R364). -/
def FAB_MCAST_HOLD : Nat := 0x6001C
/-- FAB_MCAST_HOLD.US. -/
def FAB_MCAST_HOLD_US : Fld := ⟨0, 16⟩
/-- FAB_TXN_TO (11, R364). -/
def FAB_TXN_TO : Nat := 0x60020
/-- FAB_TXN_TO.US. -/
def FAB_TXN_TO_US : Fld := ⟨0, 16⟩
/-- FAB_VHOLD (11, R364). -/
def FAB_VHOLD : Nat := 0x60024
/-- FAB_VHOLD.S. -/
def FAB_VHOLD_S : Fld := ⟨0, 16⟩
/-- FAB_REFUSED (11, R364). -/
def FAB_REFUSED : Nat := 0x60028
/-- FAB_REFUSED.COUNT. -/
def FAB_REFUSED_COUNT : Fld := ⟨0, 32⟩
/-- FAB_LAST_REFUSE (11, R364). -/
def FAB_LAST_REFUSE : Nat := 0x6002C
/-- FAB_LAST_REFUSE.SRC. -/
def FAB_LAST_REFUSE_SRC : Fld := ⟨0, 16⟩
/-- FAB_LAST_REFUSE.CODE. -/
def FAB_LAST_REFUSE_CODE : Fld := ⟨16, 8⟩
/-- FAB_LAST_REFUSE.PTYPE. -/
def FAB_LAST_REFUSE_PTYPE : Fld := ⟨24, 4⟩
/-- FAB_LOCK (11, R364). -/
def FAB_LOCK : Nat := 0x60030
/-- FAB_LOCK.LOCK. -/
def FAB_LOCK_LOCK : Fld := ⟨0, 1⟩
/-- FAB_PRESENT_i (11, R364). -/
def FAB_PRESENT (i : Nat) : Nat := 0x61000 + i * 0x4
/-- FAB_PRESENT.BITS. -/
def FAB_PRESENT_BITS : Fld := ⟨0, 32⟩
/-- WIN_DESC_n_w (11, R364). -/
def WIN_DESC (i j : Nat) : Nat := 0x200000 + i * 0x40 + j * 0x4
/-- WIN_DESC.WORD. -/
def WIN_DESC_WORD : Fld := ⟨0, 32⟩
/-- MSH_INJ_CTL (11, R364). -/
def MSH_INJ_CTL (i : Nat) : Nat := 0x810100 + i * 0x80000
/-- MSH_INJ_CTL.MODE. -/
def MSH_INJ_CTL_MODE : Fld := ⟨0, 3⟩
/-- MSH_INJ_CTL.LINKS. -/
def MSH_INJ_CTL_LINKS : Fld := ⟨3, 6⟩
/-- MSH_INJ_RATE (11, R364). -/
def MSH_INJ_RATE (i : Nat) : Nat := 0x810104 + i * 0x80000
/-- MSH_INJ_RATE.RATE. -/
def MSH_INJ_RATE_RATE : Fld := ⟨0, 24⟩
/-- MSH_INJ_SEED (11, R364). -/
def MSH_INJ_SEED (i : Nat) : Nat := 0x810108 + i * 0x80000
/-- MSH_INJ_SEED.SEED. -/
def MSH_INJ_SEED_SEED : Fld := ⟨0, 32⟩
/-- MSH_INJ_CNT (11, R364). -/
def MSH_INJ_CNT (i : Nat) : Nat := 0x81010C + i * 0x80000
/-- MSH_INJ_CNT.COUNT. -/
def MSH_INJ_CNT_COUNT : Fld := ⟨0, 32⟩
/-- PLC_STATUS (12, R390). -/
def PLC_STATUS : Nat := 0x70000
/-- PLC_STATUS.STATE. -/
def PLC_STATUS_STATE : Fld := ⟨0, 2⟩
/-- PLC_STATUS.KIND. -/
def PLC_STATUS_KIND : Fld := ⟨2, 2⟩
/-- PLC_REFUSE (12, R390). -/
def PLC_REFUSE : Nat := 0x70004
/-- PLC_REFUSE.TYPE. -/
def PLC_REFUSE_TYPE : Fld := ⟨0, 8⟩
/-- PLC_REFUSE.INDEX. -/
def PLC_REFUSE_INDEX : Fld := ⟨8, 16⟩
/-- PLC_STAGED (12, R390). -/
def PLC_STAGED : Nat := 0x70008
/-- PLC_STAGED.COUNT. -/
def PLC_STAGED_COUNT : Fld := ⟨0, 7⟩
/-- PLC_LOST_0 (12, R390). -/
def PLC_LOST_0 : Nat := 0x70010
/-- PLC_LOST_0.LOST_LO. -/
def PLC_LOST_0_LOST_LO : Fld := ⟨0, 32⟩
/-- PLC_LOST_1 (12, R390). -/
def PLC_LOST_1 : Nat := 0x70014
/-- PLC_LOST_1.LOST_HI. -/
def PLC_LOST_1_LOST_HI : Fld := ⟨0, 32⟩
/-- PLC_REGION_n_w (12, R390). -/
def PLC_REGION (i j : Nat) : Nat := 0x71000 + i * 0x40 + j * 0x4
/-- PLC_REGION.WORD. -/
def PLC_REGION_WORD : Fld := ⟨0, 32⟩
/-- XCH_STATUS (12, R390). -/
def XCH_STATUS (i : Nat) : Nat := 0x510300 + i * 0x20000
/-- XCH_STATUS.STATE. -/
def XCH_STATUS_STATE : Fld := ⟨0, 2⟩
/-- XCH_STATUS.CUR. -/
def XCH_STATUS_CUR : Fld := ⟨4, 8⟩
/-- XCH_STATUS.PAUSED. -/
def XCH_STATUS_PAUSED : Fld := ⟨12, 1⟩
/-- XCH_QLEN (12, R390). -/
def XCH_QLEN (i : Nat) : Nat := 0x510304 + i * 0x20000
/-- XCH_QLEN.LEN. -/
def XCH_QLEN_LEN : Fld := ⟨0, 9⟩
/-- XCH_FAULT (12, R390). -/
def XCH_FAULT (i : Nat) : Nat := 0x510308 + i * 0x20000
/-- XCH_FAULT.INDEX. -/
def XCH_FAULT_INDEX : Fld := ⟨0, 1⟩
/-- XCH_FAULT.POISON. -/
def XCH_FAULT_POISON : Fld := ⟨1, 1⟩
/-- XCH_DROPPED (12, R390). -/
def XCH_DROPPED (i : Nat) : Nat := 0x51030C + i * 0x20000
/-- XCH_DROPPED.COUNT. -/
def XCH_DROPPED_COUNT : Fld := ⟨0, 32⟩
/-- XCH_DROP_TOTAL (12, R390). -/
def XCH_DROP_TOTAL (i : Nat) : Nat := 0x510310 + i * 0x20000
/-- XCH_DROP_TOTAL.COUNT. -/
def XCH_DROP_TOTAL_COUNT : Fld := ⟨0, 32⟩
/-- XCH_DESC_n_w (12, R390). -/
def XCH_DESC (i j k : Nat) : Nat := 0x518000 + i * 0x20000 + j * 0x40 + k * 0x4
/-- XCH_DESC.WORD. -/
def XCH_DESC_WORD : Fld := ⟨0, 32⟩
/-- EXP_DIR_n_w (12, R390). -/
def EXP_DIR (i j : Nat) : Nat := 0x280000 + i * 0x10 + j * 0x4
/-- EXP_DIR.WORD. -/
def EXP_DIR_WORD : Fld := ⟨0, 32⟩
/-- SEC_LC (13, R418). -/
def SEC_LC : Nat := 0x80000
/-- SEC_LC.STATE. -/
def SEC_LC_STATE : Fld := ⟨0, 3⟩
/-- SEC_LC.LC_FUSE. -/
def SEC_LC_LC_FUSE : Fld := ⟨8, 8⟩
/-- SEC_LC.DEBUG_OPEN. -/
def SEC_LC_DEBUG_OPEN : Fld := ⟨16, 1⟩
/-- SEC_TAGS_i (13, R418). -/
def SEC_TAGS (i : Nat) : Nat := 0x80010 + i * 0x4
/-- SEC_TAGS.HELD. -/
def SEC_TAGS_HELD : Fld := ⟨0, 32⟩
/-- SEC_LKEYS_i (13, R418). -/
def SEC_LKEYS (i : Nat) : Nat := 0x80030 + i * 0x4
/-- SEC_LKEYS.HELD. -/
def SEC_LKEYS_HELD : Fld := ⟨0, 32⟩
/-- SEC_REL_FAIL (13, R418). -/
def SEC_REL_FAIL : Nat := 0x80050
/-- SEC_REL_FAIL.COUNT. -/
def SEC_REL_FAIL_COUNT : Fld := ⟨0, 16⟩
/-- SEC_REPLAY (13, R418). -/
def SEC_REPLAY : Nat := 0x80054
/-- SEC_REPLAY.COUNT. -/
def SEC_REPLAY_COUNT : Fld := ⟨0, 32⟩
/-- SEC_PROT (13, R418). -/
def SEC_PROT : Nat := 0x80058
/-- SEC_PROT.RESIDENT. -/
def SEC_PROT_RESIDENT : Fld := ⟨0, 9⟩
/-- CTX_DESC_n_w (13, R418). -/
def CTX_DESC (i j : Nat) : Nat := 0x100000 + i * 0x40 + j * 0x4
/-- CTX_DESC.WORD. -/
def CTX_DESC_WORD : Fld := ⟨0, 32⟩
/-- PWR_STATUS (14, R451). -/
def PWR_STATUS : Nat := 0x90000
/-- PWR_STATUS.SUPPLY. -/
def PWR_STATUS_SUPPLY : Fld := ⟨0, 2⟩
/-- PWR_STATUS.CAP_LIMITING. -/
def PWR_STATUS_CAP_LIMITING : Fld := ⟨2, 1⟩
/-- PWR_STATUS.CAP_UNMET. -/
def PWR_STATUS_CAP_UNMET : Fld := ⟨3, 1⟩
/-- PWR_CAP_HOST (14, R451). -/
def PWR_CAP_HOST : Nat := 0x90004
/-- PWR_CAP_HOST.CAP. -/
def PWR_CAP_HOST_CAP : Fld := ⟨0, 11⟩
/-- PWR_CAP_BMC (14, R451). -/
def PWR_CAP_BMC : Nat := 0x90008
/-- PWR_CAP_BMC.CAP. -/
def PWR_CAP_BMC_CAP : Fld := ⟨0, 11⟩
/-- PWR_IN_V (14, R451). -/
def PWR_IN_V : Nat := 0x9000C
/-- PWR_IN_V.V. -/
def PWR_IN_V_V : Fld := ⟨0, 14⟩
/-- PWR_IN_P (14, R451). -/
def PWR_IN_P : Nat := 0x90010
/-- PWR_IN_P.W. -/
def PWR_IN_P_W : Fld := ⟨0, 16⟩
/-- PWR_CLASS_0 (14, R451). -/
def PWR_CLASS_0 : Nat := 0x90014
/-- PWR_CLASS_0.CONTROL. -/
def PWR_CLASS_0_CONTROL : Fld := ⟨0, 16⟩
/-- PWR_CLASS_0.LINKS. -/
def PWR_CLASS_0_LINKS : Fld := ⟨16, 16⟩
/-- PWR_CLASS_1 (14, R451). -/
def PWR_CLASS_1 : Nat := 0x90018
/-- PWR_CLASS_1.CELLAR. -/
def PWR_CLASS_1_CELLAR : Fld := ⟨0, 16⟩
/-- PWR_CLASS_1.COMPUTE. -/
def PWR_CLASS_1_COMPUTE : Fld := ⟨16, 16⟩
/-- FREQ_STATUS (14, R451). -/
def FREQ_STATUS : Nat := 0x90020
/-- FREQ_STATUS.F_JOB. -/
def FREQ_STATUS_F_JOB : Fld := ⟨0, 7⟩
/-- FREQ_STATUS.CEIL_MOD. -/
def FREQ_STATUS_CEIL_MOD : Fld := ⟨8, 7⟩
/-- FREQ_STATUS.CAUSE. -/
def FREQ_STATUS_CAUSE : Fld := ⟨16, 3⟩
/-- FREQ_MAX (14, R451). -/
def FREQ_MAX : Nat := 0x90024
/-- FREQ_MAX.CODE. -/
def FREQ_MAX_CODE : Fld := ⟨0, 7⟩
/-- FREQ_CHANGES (14, R451). -/
def FREQ_CHANGES : Nat := 0x90028
/-- FREQ_CHANGES.COUNT. -/
def FREQ_CHANGES_COUNT : Fld := ⟨0, 32⟩
/-- PWR_DROOP_CNT (14, R451). -/
def PWR_DROOP_CNT : Nat := 0x9002C
/-- PWR_DROOP_CNT.DROOP. -/
def PWR_DROOP_CNT_DROOP : Fld := ⟨0, 16⟩
/-- PWR_DROOP_CNT.POWERFAIL. -/
def PWR_DROOP_CNT_POWERFAIL : Fld := ⟨16, 16⟩
/-- THM_MAX (14, R451). -/
def THM_MAX : Nat := 0x90030
/-- THM_MAX.TEMP_C. -/
def THM_MAX_TEMP_C : Fld := ⟨0, 8⟩
/-- THM_MAX.TILE. -/
def THM_MAX_TILE : Fld := ⟨8, 6⟩
/-- THM_SHED_0 (14, R451). -/
def THM_SHED_0 : Nat := 0x90034
/-- THM_SHED_0.SHED_LO. -/
def THM_SHED_0_SHED_LO : Fld := ⟨0, 32⟩
/-- THM_SHED_1 (14, R451). -/
def THM_SHED_1 : Nat := 0x90038
/-- THM_SHED_1.SHED_HI. -/
def THM_SHED_1_SHED_HI : Fld := ⟨0, 32⟩
/-- IVR_FAILED_LO (14, R451). -/
def IVR_FAILED_LO (i : Nat) : Nat := 0x860000 + i * 0x80000
/-- IVR_FAILED_LO.CELLS_LO. -/
def IVR_FAILED_LO_CELLS_LO : Fld := ⟨0, 32⟩
/-- IVR_FAILED_HI (14, R451). -/
def IVR_FAILED_HI (i : Nat) : Nat := 0x860004 + i * 0x80000
/-- IVR_FAILED_HI.CELLS_HI. -/
def IVR_FAILED_HI_CELLS_HI : Fld := ⟨0, 16⟩
/-- IVR_RAIL (14, R451). -/
def IVR_RAIL (i : Nat) : Nat := 0x860008 + i * 0x80000
/-- IVR_RAIL.VCOMP_MV. -/
def IVR_RAIL_VCOMP_MV : Fld := ⟨0, 10⟩
/-- TILE_P (14, R451). -/
def TILE_P (i : Nat) : Nat := 0x86000C + i * 0x80000
/-- TILE_P.MEAS_W. -/
def TILE_P_MEAS_W : Fld := ⟨0, 16⟩
/-- TILE_P.EST_W. -/
def TILE_P_EST_W : Fld := ⟨16, 16⟩
/-- TILE_CAL (14, R451). -/
def TILE_CAL (i : Nat) : Nat := 0x860010 + i * 0x80000
/-- TILE_CAL.K. -/
def TILE_CAL_K : Fld := ⟨0, 13⟩
/-- TILE_CEIL (14, R451). -/
def TILE_CEIL (i : Nat) : Nat := 0x860014 + i * 0x80000
/-- TILE_CEIL.THERMAL. -/
def TILE_CEIL_THERMAL : Fld := ⟨0, 7⟩
/-- TILE_CEIL.DERATE. -/
def TILE_CEIL_DERATE : Fld := ⟨8, 7⟩
/-- TILE_FT (14, R451). -/
def TILE_FT (i : Nat) : Nat := 0x860018 + i * 0x80000
/-- TILE_FT.FT_A. -/
def TILE_FT_FT_A : Fld := ⟨0, 8⟩
/-- TILE_FT_CNT (14, R451). -/
def TILE_FT_CNT (i : Nat) : Nat := 0x86001C + i * 0x80000
/-- TILE_FT_CNT.COUNT. -/
def TILE_FT_CNT_COUNT : Fld := ⟨0, 32⟩
/-- TILE_SAG_CNT (14, R451). -/
def TILE_SAG_CNT (i : Nat) : Nat := 0x860020 + i * 0x80000
/-- TILE_SAG_CNT.COUNT. -/
def TILE_SAG_CNT_COUNT : Fld := ⟨0, 32⟩
/-- TILE_NOTE (14, R451). -/
def TILE_NOTE (i : Nat) : Nat := 0x860024 + i * 0x80000
/-- TILE_NOTE.REFUSED. -/
def TILE_NOTE_REFUSED : Fld := ⟨0, 16⟩
/-- TILE_HDR (14, R451). -/
def TILE_HDR (i : Nat) : Nat := 0x860028 + i * 0x80000
/-- TILE_HDR.CORE0. -/
def TILE_HDR_CORE0 : Fld := ⟨0, 2⟩
/-- TILE_HDR.CORE1. -/
def TILE_HDR_CORE1 : Fld := ⟨2, 2⟩
/-- TILE_HDR.CORE2. -/
def TILE_HDR_CORE2 : Fld := ⟨4, 2⟩
/-- TILE_HDR.CORE3. -/
def TILE_HDR_CORE3 : Fld := ⟨6, 2⟩
/-- TILE_HDR.CORE4. -/
def TILE_HDR_CORE4 : Fld := ⟨8, 2⟩
/-- TILE_TEMP_0 (14, R451). -/
def TILE_TEMP_0 (i : Nat) : Nat := 0x860030 + i * 0x80000
/-- TILE_TEMP_0.BASE0. -/
def TILE_TEMP_0_BASE0 : Fld := ⟨0, 8⟩
/-- TILE_TEMP_0.BASE1. -/
def TILE_TEMP_0_BASE1 : Fld := ⟨8, 8⟩
/-- TILE_TEMP_0.BASE2. -/
def TILE_TEMP_0_BASE2 : Fld := ⟨16, 8⟩
/-- TILE_TEMP_0.BASE3. -/
def TILE_TEMP_0_BASE3 : Fld := ⟨24, 8⟩
/-- TILE_TEMP_1 (14, R451). -/
def TILE_TEMP_1 (i : Nat) : Nat := 0x860034 + i * 0x80000
/-- TILE_TEMP_1.COMP0. -/
def TILE_TEMP_1_COMP0 : Fld := ⟨0, 8⟩
/-- TILE_TEMP_1.COMP1. -/
def TILE_TEMP_1_COMP1 : Fld := ⟨8, 8⟩
/-- FLT_STATUS (15, R471). -/
def FLT_STATUS : Nat := 0xA0000
/-- FLT_STATUS.TAKEOVER. -/
def FLT_STATUS_TAKEOVER : Fld := ⟨0, 1⟩
/-- FLT_STATUS.PLOG_DROP. -/
def FLT_STATUS_PLOG_DROP : Fld := ⟨1, 1⟩
/-- FLT_STATUS.TEST_RES. -/
def FLT_STATUS_TEST_RES : Fld := ⟨2, 1⟩
/-- FLT_LOG_SEQ (15, R471). -/
def FLT_LOG_SEQ : Nat := 0xA0004
/-- FLT_LOG_SEQ.SEQ. -/
def FLT_LOG_SEQ_SEQ : Fld := ⟨0, 32⟩
/-- FLT_LOG_RD (15, R471). -/
def FLT_LOG_RD : Nat := 0xA0008
/-- FLT_LOG_RD.SEQ. -/
def FLT_LOG_RD_SEQ : Fld := ⟨0, 32⟩
/-- FLT_LOG_LOST (15, R471). -/
def FLT_LOG_LOST : Nat := 0xA000C
/-- FLT_LOG_LOST.COUNT. -/
def FLT_LOG_LOST_COUNT : Fld := ⟨0, 32⟩
/-- FLT_LASTING (15, R471). -/
def FLT_LASTING : Nat := 0xA0010
/-- FLT_LASTING.COUNT. -/
def FLT_LASTING_COUNT : Fld := ⟨0, 16⟩
/-- FLT_EVICT (15, R471). -/
def FLT_EVICT : Nat := 0xA0014
/-- FLT_EVICT.COUNT. -/
def FLT_EVICT_COUNT : Fld := ⟨0, 32⟩
/-- FLT_PLOG (15, R471). -/
def FLT_PLOG : Nat := 0xA0018
/-- FLT_PLOG.COUNT. -/
def FLT_PLOG_COUNT : Fld := ⟨0, 32⟩
/-- FLT_TEST_CTL (15, R471). -/
def FLT_TEST_CTL : Nat := 0xA0020
/-- FLT_TEST_CTL.EN. -/
def FLT_TEST_CTL_EN : Fld := ⟨0, 1⟩
/-- FLT_TEST_CTL.PERIOD_S. -/
def FLT_TEST_CTL_PERIOD_S : Fld := ⟨1, 16⟩
/-- FLT_TEST_SEED (15, R471). -/
def FLT_TEST_SEED : Nat := 0xA0024
/-- FLT_TEST_SEED.SEED. -/
def FLT_TEST_SEED_SEED : Fld := ⟨0, 32⟩
/-- FLT_TEST_ROUNDS (15, R471). -/
def FLT_TEST_ROUNDS : Nat := 0xA0028
/-- FLT_TEST_ROUNDS.COUNT. -/
def FLT_TEST_ROUNDS_COUNT : Fld := ⟨0, 32⟩
/-- FLT_TEST_MISMATCH (15, R471). -/
def FLT_TEST_MISMATCH : Nat := 0xA002C
/-- FLT_TEST_MISMATCH.COUNT. -/
def FLT_TEST_MISMATCH_COUNT : Fld := ⟨0, 16⟩
/-- FLT_TEST_LAST (15, R471). -/
def FLT_TEST_LAST : Nat := 0xA0030
/-- FLT_TEST_LAST.SLOT. -/
def FLT_TEST_LAST_SLOT : Fld := ⟨0, 8⟩
/-- FLT_TEST_LAST.VALID. -/
def FLT_TEST_LAST_VALID : Fld := ⟨8, 1⟩
/-- FLT_WIN_c (15, R471). -/
def FLT_WIN (i : Nat) : Nat := 0xA1000 + i * 0x4
/-- FLT_WIN.N. -/
def FLT_WIN_N : Fld := ⟨0, 4⟩
/-- FLT_WIN.SPAN_S. -/
def FLT_WIN_SPAN_S : Fld := ⟨4, 20⟩
/-- HIF_STATUS (16, R490). -/
def HIF_STATUS : Nat := 0x10000
/-- HIF_STATUS.READY. -/
def HIF_STATUS_READY : Fld := ⟨0, 1⟩
/-- HIF_STATUS.SPEED. -/
def HIF_STATUS_SPEED : Fld := ⟨1, 3⟩
/-- HIF_STATUS.WIDTH. -/
def HIF_STATUS_WIDTH : Fld := ⟨4, 3⟩
/-- HIF_STATUS.FLIT. -/
def HIF_STATUS_FLIT : Fld := ⟨7, 1⟩
/-- HIF_STATUS.D3HOT. -/
def HIF_STATUS_D3HOT : Fld := ⟨8, 1⟩
/-- HIF_CQ_BASE_LO (16, R490). -/
def HIF_CQ_BASE_LO : Nat := 0x10004
/-- HIF_CQ_BASE_LO.BASE_LO. -/
def HIF_CQ_BASE_LO_BASE_LO : Fld := ⟨12, 20⟩
/-- HIF_CQ_BASE_HI (16, R490). -/
def HIF_CQ_BASE_HI : Nat := 0x10008
/-- HIF_CQ_BASE_HI.BASE_HI. -/
def HIF_CQ_BASE_HI_BASE_HI : Fld := ⟨0, 32⟩
/-- HIF_CQ_CTL (16, R490). -/
def HIF_CQ_CTL : Nat := 0x1000C
/-- HIF_CQ_CTL.EN. -/
def HIF_CQ_CTL_EN : Fld := ⟨0, 1⟩
/-- HIF_CQ_CTL.SIZE_LOG2. -/
def HIF_CQ_CTL_SIZE_LOG2 : Fld := ⟨1, 4⟩
/-- HIF_CQ_HEAD (16, R490). -/
def HIF_CQ_HEAD : Nat := 0x10010
/-- HIF_CQ_HEAD.HEAD. -/
def HIF_CQ_HEAD_HEAD : Fld := ⟨0, 16⟩
/-- HIF_CQ_TAIL (16, R490). -/
def HIF_CQ_TAIL : Nat := 0x10014
/-- HIF_CQ_TAIL.TAIL. -/
def HIF_CQ_TAIL_TAIL : Fld := ⟨0, 16⟩
/-- HIF_CQ_PEND (16, R490). -/
def HIF_CQ_PEND : Nat := 0x10018
/-- HIF_CQ_PEND.COUNT. -/
def HIF_CQ_PEND_COUNT : Fld := ⟨0, 9⟩
/-- HIF_CQ_DROP (16, R490). -/
def HIF_CQ_DROP : Nat := 0x1001C
/-- HIF_CQ_DROP.COUNT. -/
def HIF_CQ_DROP_COUNT : Fld := ⟨0, 32⟩
/-- HIF_PAN_CONS (16, R490). -/
def HIF_PAN_CONS : Nat := 0x10020
/-- HIF_PAN_CONS.INDEX. -/
def HIF_PAN_CONS_INDEX : Fld := ⟨0, 10⟩
/-- HIF_PAN_CONS.PHASE. -/
def HIF_PAN_CONS_PHASE : Fld := ⟨10, 1⟩
/-- HIF_PAN_TAKEN (16, R490). -/
def HIF_PAN_TAKEN : Nat := 0x10024
/-- HIF_PAN_TAKEN.COUNT. -/
def HIF_PAN_TAKEN_COUNT : Fld := ⟨0, 32⟩
/-- HIF_PAN_ACTIVE (16, R490). -/
def HIF_PAN_ACTIVE : Nat := 0x10028
/-- HIF_PAN_ACTIVE.COUNT. -/
def HIF_PAN_ACTIVE_COUNT : Fld := ⟨0, 16⟩
/-- HIF_DBG_BASE (16, R490). -/
def HIF_DBG_BASE : Nat := 0x10030
/-- HIF_DBG_BASE.BASE. -/
def HIF_DBG_BASE_BASE : Fld := ⟨0, 19⟩
/-- SB_SMB (16, R490). -/
def SB_SMB : Nat := 0xB0000
/-- SB_SMB.ADDR. -/
def SB_SMB_ADDR : Fld := ⟨0, 7⟩
/-- SB_SMB.ALERT. -/
def SB_SMB_ALERT : Fld := ⟨7, 1⟩
/-- SB_JTAG (16, R490). -/
def SB_JTAG : Nat := 0xB0004
/-- SB_JTAG.SESSION. -/
def SB_JTAG_SESSION : Fld := ⟨0, 1⟩
/-- SB_JTAG.PINS. -/
def SB_JTAG_PINS : Fld := ⟨1, 1⟩
/-- SB_JTAG.DEBUG. -/
def SB_JTAG_DEBUG : Fld := ⟨2, 1⟩
/-- RST_STATUS (17, R511). -/
def RST_STATUS : Nat := 0xD0000
/-- RST_STATUS.LAST. -/
def RST_STATUS_LAST : Fld := ⟨0, 3⟩
/-- RST_STATUS.BUSY. -/
def RST_STATUS_BUSY : Fld := ⟨3, 1⟩
/-- RST_STATUS.PSTATE. -/
def RST_STATUS_PSTATE : Fld := ⟨4, 2⟩
/-- RST_STATUS.PTRANS. -/
def RST_STATUS_PTRANS : Fld := ⟨6, 1⟩
/-- RST_CAUSE (17, R511). -/
def RST_CAUSE : Nat := 0xD0004
/-- RST_CAUSE.POWER_ON. -/
def RST_CAUSE_POWER_ON : Fld := ⟨0, 1⟩
/-- RST_CAUSE.UNDERVOLT. -/
def RST_CAUSE_UNDERVOLT : Fld := ⟨1, 1⟩
/-- RST_CAUSE.MGMT_HOT. -/
def RST_CAUSE_MGMT_HOT : Fld := ⟨2, 1⟩
/-- RST_CAUSE.SMBUS. -/
def RST_CAUSE_SMBUS : Fld := ⟨3, 1⟩
/-- RST_CAUSE.PANTRY. -/
def RST_CAUSE_PANTRY : Fld := ⟨4, 1⟩
/-- RST_CAUSE.LC_CHANGE. -/
def RST_CAUSE_LC_CHANGE : Fld := ⟨5, 1⟩
/-- RST_CAUSE.PERST. -/
def RST_CAUSE_PERST : Fld := ⟨6, 1⟩
/-- RST_COUNT (17, R511). -/
def RST_COUNT : Nat := 0xD0008
/-- RST_COUNT.MODULE. -/
def RST_COUNT_MODULE : Fld := ⟨0, 16⟩
/-- RST_COUNT.PERST. -/
def RST_COUNT_PERST : Fld := ⟨16, 16⟩
/-- RST_TILE (17, R511). -/
def RST_TILE : Nat := 0xD000C
/-- RST_TILE.COUNT. -/
def RST_TILE_COUNT : Fld := ⟨0, 16⟩
/-- RST_TILE.LAST_TILE. -/
def RST_TILE_LAST_TILE : Fld := ⟨16, 6⟩
/-- RST_CTX (17, R511). -/
def RST_CTX : Nat := 0xD0010
/-- RST_CTX.LAST_CTX. -/
def RST_CTX_LAST_CTX : Fld := ⟨0, 14⟩
/-- RST_CTX.COUNT. -/
def RST_CTX_COUNT : Fld := ⟨16, 16⟩
/-- BOOT_MS (17, R511). -/
def BOOT_MS : Nat := 0xD0014
/-- BOOT_MS.MS. -/
def BOOT_MS_MS : Fld := ⟨0, 16⟩
/-- BOOT_STAGE (17, R511). -/
def BOOT_STAGE : Nat := 0xD0018
/-- BOOT_STAGE.STAGE. -/
def BOOT_STAGE_STAGE : Fld := ⟨0, 4⟩
/-- CFG_STATUS (17, R511). -/
def CFG_STATUS : Nat := 0xD001C
/-- CFG_STATUS.VALID. -/
def CFG_STATUS_VALID : Fld := ⟨0, 1⟩
/-- CFG_STATUS.COPY. -/
def CFG_STATUS_COPY : Fld := ⟨1, 1⟩
/-- CFG_VERSION (17, R511). -/
def CFG_VERSION : Nat := 0xD0020
/-- CFG_VERSION.VERSION. -/
def CFG_VERSION_VERSION : Fld := ⟨0, 32⟩
/-- CFG_PORTS (17, R511). -/
def CFG_PORTS : Nat := 0xD0024
/-- CFG_PORTS.PORT_EN. -/
def CFG_PORTS_PORT_EN : Fld := ⟨0, 32⟩
/-- PST_COUNT (17, R511). -/
def PST_COUNT : Nat := 0xD0028
/-- PST_COUNT.QUIET. -/
def PST_COUNT_QUIET : Fld := ⟨0, 16⟩
/-- PST_COUNT.HOLD. -/
def PST_COUNT_HOLD : Fld := ⟨16, 16⟩
/-- FW_STATUS (18, R530). -/
def FW_STATUS : Nat := 0xC0000
/-- FW_STATUS.MODE. -/
def FW_STATUS_MODE : Fld := ⟨0, 2⟩
/-- FW_STATUS.BUSY. -/
def FW_STATUS_BUSY : Fld := ⟨2, 1⟩
/-- FW_STATUS.WDOG. -/
def FW_STATUS_WDOG : Fld := ⟨3, 1⟩
/-- FW_RUN_k (18, R530). -/
def FW_RUN (i : Nat) : Nat := 0xC0010 + i * 0x4
/-- FW_RUN.SLOT. -/
def FW_RUN_SLOT : Fld := ⟨0, 1⟩
/-- FW_RUN.TRIAL. -/
def FW_RUN_TRIAL : Fld := ⟨1, 1⟩
/-- FW_RUN.NONE. -/
def FW_RUN_NONE : Fld := ⟨2, 1⟩
/-- FW_VER_k (18, R530). -/
def FW_VER (i : Nat) : Nat := 0xC0030 + i * 0x4
/-- FW_VER.VERSION. -/
def FW_VER_VERSION : Fld := ⟨0, 32⟩
/-- FW_SET_k (18, R530). -/
def FW_SET (i : Nat) : Nat := 0xC0050 + i * 0x4
/-- FW_SET.SET. -/
def FW_SET_SET : Fld := ⟨0, 32⟩
/-- FW_SLOT_k_s (18, R530). -/
def FW_SLOT (i j : Nat) : Nat := 0xC0070 + i * 0x8 + j * 0x4
/-- FW_SLOT.STATE. -/
def FW_SLOT_STATE : Fld := ⟨0, 3⟩
/-- FW_SLOT.ARB. -/
def FW_SLOT_ARB : Fld := ⟨3, 7⟩
/-- FW_ARB_0 (18, R530). -/
def FW_ARB_0 : Nat := 0xC00A0
/-- FW_ARB_0.COUNT0. -/
def FW_ARB_0_COUNT0 : Fld := ⟨0, 7⟩
/-- FW_ARB_0.COUNT1. -/
def FW_ARB_0_COUNT1 : Fld := ⟨8, 7⟩
/-- FW_ARB_0.COUNT2. -/
def FW_ARB_0_COUNT2 : Fld := ⟨16, 7⟩
/-- FW_ARB_0.COUNT3. -/
def FW_ARB_0_COUNT3 : Fld := ⟨24, 7⟩
/-- FW_ARB_1 (18, R530). -/
def FW_ARB_1 : Nat := 0xC00A4
/-- FW_ARB_1.COUNT4. -/
def FW_ARB_1_COUNT4 : Fld := ⟨0, 7⟩
/-- FW_LAST_REFUSE (18, R530). -/
def FW_LAST_REFUSE : Nat := 0xC00B0
/-- FW_LAST_REFUSE.REASON. -/
def FW_LAST_REFUSE_REASON : Fld := ⟨0, 4⟩
/-- FW_LAST_REFUSE.COMPONENT. -/
def FW_LAST_REFUSE_COMPONENT : Fld := ⟨4, 5⟩
/-- MGC_RESTARTS (18, R530). -/
def MGC_RESTARTS : Nat := 0xC00C0
/-- MGC_RESTARTS.COUNT. -/
def MGC_RESTARTS_COUNT : Fld := ⟨0, 16⟩
/-- MGC_SRAM_CE (18, R530). -/
def MGC_SRAM_CE : Nat := 0xC00C4
/-- MGC_SRAM_CE.COUNT. -/
def MGC_SRAM_CE_COUNT : Fld := ⟨0, 32⟩
/-- SNS_FAILED_0 (18, R530). -/
def SNS_FAILED_0 : Nat := 0xC00D0
/-- SNS_FAILED_0.TILES_LO. -/
def SNS_FAILED_0_TILES_LO : Fld := ⟨0, 32⟩
/-- SNS_FAILED_1 (18, R530). -/
def SNS_FAILED_1 : Nat := 0xC00D4
/-- SNS_FAILED_1.TILES_HI. -/
def SNS_FAILED_1_TILES_HI : Fld := ⟨0, 32⟩
/-- RCV_CTL (18, R530). -/
def RCV_CTL : Nat := 0xC0100
/-- RCV_CTL.PIECE. -/
def RCV_CTL_PIECE : Fld := ⟨0, 16⟩
/-- RCV_CTL.GO. -/
def RCV_CTL_GO : Fld := ⟨16, 1⟩
/-- RCV_STATUS (18, R530). -/
def RCV_STATUS : Nat := 0xC0104
/-- RCV_STATUS.STATE. -/
def RCV_STATUS_STATE : Fld := ⟨0, 2⟩
/-- RCV_STATUS.NEXT. -/
def RCV_STATUS_NEXT : Fld := ⟨16, 16⟩
/-- RCV_DATA (18, R530). -/
def RCV_DATA (i : Nat) : Nat := 0xC8000 + i * 0x4
/-- RCV_DATA.DATA. -/
def RCV_DATA_DATA : Fld := ⟨0, 32⟩
/-- SB_CLK (19, R534). -/
def SB_CLK : Nat := 0xB0008
/-- SB_CLK.HOLDOVER. -/
def SB_CLK_HOLDOVER : Fld := ⟨0, 1⟩
/-- SB_CLK.MODCLK_OK. -/
def SB_CLK_MODCLK_OK : Fld := ⟨1, 1⟩
/-- SB_CLK.EVENTS. -/
def SB_CLK_EVENTS : Fld := ⟨16, 16⟩
/-- BULK_MAP_a_i (02, R74). -/
def BULK_MAP (i j k : Nat) : Nat := 0x408000 + i * 0x20000 + j * 0x4000 + k * 0x4
/-- BULK_MAP.ENTRY_LO. -/
def BULK_MAP_ENTRY_LO : Fld := ⟨0, 16⟩
/-- BULK_MAP.ENTRY_HI. -/
def BULK_MAP_ENTRY_HI : Fld := ⟨16, 16⟩
/-- MSIX_TABLE (16, R486). -/
def MSIX_TABLE (i j : Nat) : Nat := 0x20000 + i * 0x10 + j * 0x4
/-- MSIX_TABLE.WORD. -/
def MSIX_TABLE_WORD : Fld := ⟨0, 32⟩
/-- MSIX_PBA (16, R486). -/
def MSIX_PBA (i : Nat) : Nat := 0x20800 + i * 0x4
/-- MSIX_PBA.PENDING. -/
def MSIX_PBA_PENDING : Fld := ⟨0, 32⟩

/-- Rows 0 to 29 of the register table. -/
def regRows0 : List RegRow := [
  ⟨0x800000, [(64, 0x80000)], [(TILE_FUSE_CORE_PASS, .ro), (TILE_FUSE_SPARE_CORE, .ro), (TILE_FUSE_LD_REPAIRED, .ro), (TILE_FUSE_STACK0_PASS, .ro), (TILE_FUSE_STACK1_PASS, .ro)], 0x69F⟩,
  ⟨0x800004, [(64, 0x80000)], [(TILE_CORE_MAP_SLOT0_CORE, .ro), (TILE_CORE_MAP_SLOT1_CORE, .ro), (TILE_CORE_MAP_SLOT2_CORE, .ro), (TILE_CORE_MAP_SLOT3_CORE, .ro), (TILE_CORE_MAP_SPARE_NOW, .ro)], 0x43210⟩,
  ⟨0x800008, [(64, 0x80000)], [(TILE_STATE_COMPUTE, .ro), (TILE_STATE_ROUTER_ON, .ro), (TILE_STATE_BASE_LOST, .ro), (TILE_STATE_RETIRED, .ro), (TILE_STATE_SPARE_IN_USE, .ro)], 0x5⟩,
  ⟨0x0, [], [(MOD_ID_MODULE_NUMBER, .rwl)], 0xFFFF⟩,
  ⟨0x4, [], [(MOD_LOCK_LOCK, .rw)], 0x0⟩,
  ⟨0x8, [], [(MOD_CORES_ASSIGNED, .ro), (MOD_CORES_SPARES, .ro)], 0x400100⟩,
  ⟨0x10, [], [(MOD_TILE_LOST_0_LOST_LO, .ro)], 0x0⟩,
  ⟨0x14, [], [(MOD_TILE_LOST_1_LOST_HI, .ro)], 0x0⟩,
  ⟨0x30000, [], [(TG_CTL_RUN, .ro)], 0x0⟩,
  ⟨0x30004, [], [(TG_SENT_LEN_LEN, .ro), (TG_SENT_LEN_CUR_LEN, .ro)], 0xFA0019⟩,
  ⟨0x30008, [], [(TG_BUDGET_FB, .ro)], 0x50⟩,
  ⟨0x30010, [], [(TG_TICK_LO_TICK_LO, .ro)], 0x0⟩,
  ⟨0x30014, [], [(TG_TICK_HI_TICK_HI, .ro)], 0x0⟩,
  ⟨0x30018, [], [(TG_ARRIVAL_ARRIVAL_MAX, .ro)], 0x0⟩,
  ⟨0x3001C, [], [(TG_STRETCH_STRETCHED, .ro)], 0x0⟩,
  ⟨0x810000, [(64, 0x80000)], [(SLOT_CTL_ENABLE, .ro), (SLOT_CTL_PERIOD, .ro), (SLOT_CTL_REPEAT, .ro)], 0x0⟩,
  ⟨0x810004, [(64, 0x80000)], [(SLOT_ALIGN_TICK_ALIGN, .ro), (SLOT_ALIGN_ARRIVAL, .ro)], 0x0⟩,
  ⟨0x810008, [(64, 0x80000)], [(SLOT_STATUS_MISS, .w1c), (SLOT_STATUS_DROP, .w1c), (SLOT_STATUS_TICK_FAULT, .w1c)], 0x0⟩,
  ⟨0x810010, [(64, 0x80000)], [(SLOT_READ_IDX_IDX, .rw)], 0x0⟩,
  ⟨0x810014, [(64, 0x80000), (4, 0x4)], [(SLOT_READ_ENTRY, .ro)], 0x0⟩,
  ⟨0x2800F00, [(320, 0x10000)], [(SC_CLAUSE_CYC_CYCLES, .ro)], 0x0⟩,
  ⟨0x2800F04, [(320, 0x10000)], [(SC_STALL_CYC_STALLS, .ro)], 0x0⟩,
  ⟨0x2800F08, [(320, 0x10000)], [(SC_MARGIN_MIN_MARGIN, .rw)], 0xFFFFFFFF⟩,
  ⟨0x2800F0C, [(320, 0x10000)], [(SC_OVERRUN_COUNT, .ro), (SC_OVERRUN_LAST, .ro)], 0x0⟩,
  ⟨0x2800E00, [(320, 0x10000)], [(SC_STATUS_RUNNING, .ro), (SC_STATUS_ACC_POISON_ANY, .ro), (SC_STATUS_GF_WAIT, .ro)], 0x0⟩,
  ⟨0x2800E04, [(320, 0x10000)], [(SC_FAULT_SCATTER, .w1c), (SC_FAULT_IN_RANGE, .w1c), (SC_FAULT_HDR, .w1c), (SC_FAULT_ACC_PARITY, .w1c), (SC_FAULT_PAIRING, .w1c)], 0x0⟩,
  ⟨0x2800E08, [(320, 0x10000)], [(SC_GROUPS_LO_GROUPS_LO, .ro)], 0x0⟩,
  ⟨0x2800E0C, [(320, 0x10000)], [(SC_GROUPS_HI_GROUPS_HI, .ro)], 0x0⟩,
  ⟨0x2800E10, [(320, 0x10000)], [(SC_MERGED_MERGED, .ro)], 0x0⟩,
  ⟨0x2800E14, [(320, 0x10000)], [(SC_SPILL_SEQ_SEQ, .ro)], 0x0⟩]

/-- Rows 30 to 59 of the register table. -/
def regRows1 : List RegRow := [
  ⟨0x2800E18, [(320, 0x10000)], [(SC_SLICE_RPOS, .ro), (SC_SLICE_REGION, .ro)], 0x0⟩,
  ⟨0x2800E1C, [(320, 0x10000)], [(SC_EMPTY_EMPTY, .ro)], 0x0⟩,
  ⟨0x2800E20, [(320, 0x10000), (8, 0x4)], [(SC_ACC_POISON_POISON, .ro)], 0x0⟩,
  ⟨0x2800E40, [(320, 0x10000)], [(SC_W1_SEQ_SEQ, .ro)], 0x0⟩,
  ⟨0x2800C00, [(320, 0x10000)], [(SHF_PART_FG_ROWS, .ro)], 0x20⟩,
  ⟨0x2800C04, [(320, 0x10000)], [(SHF_AWAKE_AWAKE, .ro)], 0xFFFF⟩,
  ⟨0x2800C08, [(320, 0x10000)], [(SHF_ACCEPT_ACCEPT, .ro)], 0xFFFF⟩,
  ⟨0x2800C0C, [(320, 0x10000)], [(SHF_BUSY_BUSY, .ro)], 0x0⟩,
  ⟨0x2800C10, [(320, 0x10000)], [(SHF_FAULT_PARITY, .w1c), (SHF_FAULT_ASLEEP, .w1c), (SHF_FAULT_COLLIDE, .w1c), (SHF_FAULT_PORT, .w1c), (SHF_FAULT_PART, .w1c), (SHF_FAULT_WP, .w1c), (SHF_FAULT_SLEEP_REFUSED, .w1c)], 0x0⟩,
  ⟨0x2800C14, [(320, 0x10000)], [(SHF_PARITY_CNT_COUNT, .ro)], 0x0⟩,
  ⟨0x2800C18, [(320, 0x10000)], [(SHF_LAST_ERR_BANK, .ro), (SHF_LAST_ERR_ROW, .ro), (SHF_LAST_ERR_PORT, .ro), (SHF_LAST_ERR_FILLER, .ro)], 0x0⟩,
  ⟨0x2800C1C, [(320, 0x10000)], [(SHF_REFUSED_COUNT, .ro)], 0x0⟩,
  ⟨0x2802000, [(320, 0x10000), (512, 0x8)], [(HT_ENTRY_n_LO_ENTRY_LO, .ro)], 0x0⟩,
  ⟨0x2802004, [(320, 0x10000), (512, 0x8)], [(HT_ENTRY_n_HI_ENTRY_HI, .ro)], 0x0⟩,
  ⟨0x2801000, [(320, 0x10000), (16, 0x20)], [(STR_CTL_CUR, .ro), (STR_CTL_NEXT, .ro), (STR_CTL_OWNER, .ro), (STR_CTL_ASSIGNED, .ro), (STR_CTL_CUR_ENTRY, .ro), (STR_CTL_NEXT_ENTRY, .ro)], 0x0⟩,
  ⟨0x2801004, [(320, 0x10000), (16, 0x20)], [(STR_LANDED_LANDED, .ro)], 0x0⟩,
  ⟨0x2801008, [(320, 0x10000), (16, 0x20)], [(STR_TOTAL_TOTAL, .ro)], 0x0⟩,
  ⟨0x280100C, [(320, 0x10000), (16, 0x20)], [(STR_STAGE_CUR_FILL, .ro), (STR_STAGE_NEXT_FILL, .ro)], 0x0⟩,
  ⟨0x2801010, [(320, 0x10000), (16, 0x20)], [(STR_FAULT_START, .w1c), (STR_FAULT_OVERFLOW, .w1c), (STR_FAULT_GROUP, .w1c), (STR_FAULT_CAPTURE, .w1c), (STR_FAULT_AGENT, .w1c), (STR_FAULT_POISON, .w1c), (STR_FAULT_STRAY, .w1c)], 0x0⟩,
  ⟨0x2801014, [(320, 0x10000), (16, 0x20)], [(STR_PRED_MISS_MISS, .ro)], 0x0⟩,
  ⟨0x2801018, [(320, 0x10000), (16, 0x20)], [(STR_ROW_OFS_ROW_OFS, .ro)], 0x0⟩,
  ⟨0x2804000, [(320, 0x10000), (512, 0x40), (16, 0x4)], [(STR_PROG_WORD, .ro)], 0x0⟩,
  ⟨0x280C000, [(320, 0x10000), (4096, 0x4)], [(CORE_PORT_MAP_ENTRY_LO, .ro), (CORE_PORT_MAP_ENTRY_HI, .ro)], 0x0⟩,
  ⟨0x2800D00, [(320, 0x10000)], [(CL_STATUS_SEQ_POS, .ro), (CL_STATUS_YIELDED, .ro), (CL_STATUS_ENDED, .ro), (CL_STATUS_REP, .ro)], 0x0⟩,
  ⟨0x2800D04, [(320, 0x10000)], [(CL_WAIT_PC, .ro), (CL_WAIT_WAIT, .ro)], 0x0⟩,
  ⟨0x2800D08, [(320, 0x10000)], [(CL_FAULT_ILLEGAL, .w1c), (CL_FAULT_BRANCH, .w1c), (CL_FAULT_FELL_OFF, .w1c), (CL_FAULT_SHAPE, .w1c), (CL_FAULT_WORD, .w1c)], 0x0⟩,
  ⟨0x2800D0C, [(320, 0x10000)], [(CL_NOTE_COVER, .ro), (CL_NOTE_LEVEL, .ro)], 0x0⟩,
  ⟨0x2800D10, [(320, 0x10000)], [(CL_GATED_CYCLES, .ro)], 0x0⟩,
  ⟨0x2800D14, [(320, 0x10000)], [(CL_BALLAST_CYCLES, .ro)], 0x0⟩,
  ⟨0x830000, [(64, 0x80000), (2, 0x10000)], [(CC_STATUS_TRAINED, .ro), (CC_STATUS_SELF_REFRESH, .ro), (CC_STATUS_HOT, .ro), (CC_STATUS_STACK_LOST, .ro), (CC_STATUS_WIPED, .ro)], 0x0⟩]

/-- Rows 60 to 89 of the register table. -/
def regRows2 : List RegRow := [
  ⟨0x830004, [(64, 0x80000), (2, 0x10000)], [(CC_SCRUB_CTL_EN, .rwl), (CC_SCRUB_CTL_PERIOD_H, .rwl)], 0x19⟩,
  ⟨0x830008, [(64, 0x80000), (2, 0x10000)], [(CC_SCRUB_POS_ROW, .ro)], 0x0⟩,
  ⟨0x83000C, [(64, 0x80000), (2, 0x10000)], [(CC_SCRUB_PASS_PASSES, .ro)], 0x0⟩,
  ⟨0x830010, [(64, 0x80000), (2, 0x10000)], [(CC_CE_CNT_COUNT, .ro)], 0x0⟩,
  ⟨0x830014, [(64, 0x80000), (2, 0x10000)], [(CC_CE_LAST_PC, .ro), (CC_CE_LAST_SYMBOL, .ro), (CC_CE_LAST_CODEWORD, .ro)], 0x0⟩,
  ⟨0x830018, [(64, 0x80000), (2, 0x10000)], [(CC_UE_CNT_COUNT, .ro)], 0x0⟩,
  ⟨0x83001C, [(64, 0x80000), (2, 0x10000)], [(CC_POISON_RD_COUNT, .ro)], 0x0⟩,
  ⟨0x830020, [(64, 0x80000), (2, 0x10000)], [(CC_ERR_ADDR_LO_ADDR_LO, .ro)], 0x0⟩,
  ⟨0x830024, [(64, 0x80000), (2, 0x10000)], [(CC_ERR_ADDR_HI_ADDR_HI, .ro), (CC_ERR_ADDR_HI_BY_SCRUB, .ro)], 0x0⟩,
  ⟨0x830028, [(64, 0x80000), (2, 0x10000)], [(CC_ERR_SYN_SYNDROME, .ro)], 0x0⟩,
  ⟨0x83002C, [(64, 0x80000), (2, 0x10000)], [(CC_TEMP_TEMP_C, .ro)], 0x0⟩,
  ⟨0x830030, [(64, 0x80000), (2, 0x10000)], [(CC_BUDGET_ONE_DIR, .ro), (CC_BUDGET_MIXED, .ro)], 0x282C⟩,
  ⟨0x830034, [(64, 0x80000), (2, 0x10000)], [(CC_LOCK_LOCK, .rw)], 0x0⟩,
  ⟨0x831000, [(64, 0x80000), (2, 0x10000), (4608, 0x4)], [(CC_TAG_TAG0, .ro), (CC_TAG_TAG1, .ro), (CC_TAG_TAG2, .ro), (CC_TAG_TAG3, .ro)], 0x0⟩,
  ⟨0x850000, [(64, 0x80000)], [(UE_STATUS_STATE, .ro), (UE_STATUS_RECLIP_PASS, .ro)], 0x0⟩,
  ⟨0x850004, [(64, 0x80000)], [(UE_ORDER_POS, .ro), (UE_ORDER_LEN, .ro)], 0x0⟩,
  ⟨0x850008, [(64, 0x80000)], [(UE_RETRY_COUNT, .ro)], 0x0⟩,
  ⟨0x85000C, [(64, 0x80000)], [(UE_FAULT_PARITY, .w1c), (UE_FAULT_SIDE, .w1c), (UE_FAULT_STATE_POISON, .w1c), (UE_FAULT_GRAD_POISON, .w1c), (UE_FAULT_ORDER, .w1c)], 0x0⟩,
  ⟨0x850010, [(64, 0x80000)], [(UE_ROWS_LO_ROWS_LO, .ro)], 0x0⟩,
  ⟨0x850014, [(64, 0x80000)], [(UE_ROWS_HI_ROWS_HI, .ro)], 0x0⟩,
  ⟨0x850020, [(64, 0x80000)], [(UE_MAP_SEL_CHUNK, .rw), (UE_MAP_SEL_STACK, .rw)], 0x0⟩,
  ⟨0x850024, [(64, 0x80000), (4, 0x4)], [(UE_MAP_ENTRY, .ro)], 0x0⟩,
  ⟨0x854000, [(64, 0x80000), (256, 0x40), (16, 0x4)], [(UE_RULE_WORD, .ro)], 0x0⟩,
  ⟨0x40000, [], [(STEP_EPOCH_LO_EPOCH_LO, .ro)], 0x0⟩,
  ⟨0x40004, [], [(STEP_EPOCH_HI_EPOCH_HI, .ro)], 0x0⟩,
  ⟨0x40008, [], [(STEP_COUNT_LO_COUNT_LO, .ro)], 0x0⟩,
  ⟨0x4000C, [], [(STEP_COUNT_HI_COUNT_HI, .ro)], 0x0⟩,
  ⟨0x40010, [], [(STEP_APPLIED_LO_APPLIED_LO, .ro)], 0x0⟩,
  ⟨0x40014, [], [(STEP_APPLIED_HI_APPLIED_HI, .ro)], 0x0⟩,
  ⟨0x40018, [], [(STEP_LAST_VERDICT, .ro), (STEP_LAST_SCOPE, .ro), (STEP_LAST_ATTEMPT, .ro)], 0x0⟩]

/-- Rows 90 to 119 of the register table. -/
def regRows3 : List RegRow := [
  ⟨0x4001C, [], [(STEP_SKIPS_COUNT, .ro)], 0x0⟩,
  ⟨0x40020, [], [(STEP_RERUNS_COUNT, .ro)], 0x0⟩,
  ⟨0x40024, [], [(STEP_RECLIPS_COUNT, .ro)], 0x0⟩,
  ⟨0x40028, [], [(STEP_CLIP_CLIP, .ro)], 0x0⟩,
  ⟨0x50000, [], [(VRD_STATUS_STATE, .ro), (VRD_STATUS_ROOT_X, .ro), (VRD_STATUS_ANCHOR, .ro)], 0x0⟩,
  ⟨0x50004, [], [(VRD_DIVERGE_COUNT, .ro)], 0x0⟩,
  ⟨0x50008, [], [(VRD_SUSPECT_COUNT, .ro)], 0x0⟩,
  ⟨0x5000C, [], [(VRD_STALE_COUNT, .ro)], 0x0⟩,
  ⟨0x50010, [], [(JOB_POS_0_X, .ro), (JOB_POS_0_Y, .ro)], 0x0⟩,
  ⟨0x50014, [], [(JOB_POS_1_Z, .ro)], 0x0⟩,
  ⟨0x50018, [], [(JOB_SIZE_0_NX_M1, .ro), (JOB_SIZE_0_NY_M1, .ro)], 0x0⟩,
  ⟨0x5001C, [], [(JOB_SIZE_1_NZ_M1, .ro)], 0x0⟩,
  ⟨0x50020, [], [(JOB_ANCHOR_MODULE, .ro)], 0x0⟩,
  ⟨0x51000, [(3, 0x2000), (2048, 0x4)], [(JOB_RING_ENTRY_LO, .ro), (JOB_RING_ENTRY_HI, .ro)], 0x0⟩,
  ⟨0x400000, [(16, 0x20000)], [(RDX_STATUS_STATE, .ro), (RDX_STATUS_CUR, .ro), (RDX_STATUS_VSTAGE_A, .ro), (RDX_STATUS_VSTAGE_B, .ro)], 0x0⟩,
  ⟨0x400004, [(16, 0x20000)], [(RDX_QLEN_LEN, .ro)], 0x0⟩,
  ⟨0x400008, [(16, 0x20000)], [(RDX_FAULT_DIGEST, .w1c), (RDX_FAULT_BLAMED, .w1c)], 0x0⟩,
  ⟨0x40000C, [(16, 0x20000)], [(RDX_DIG_BAD_A_COUNT, .ro)], 0x0⟩,
  ⟨0x400010, [(16, 0x20000)], [(RDX_DIG_BAD_B_COUNT, .ro)], 0x0⟩,
  ⟨0x400014, [(16, 0x20000)], [(RDX_BLAMED_COUNT, .ro)], 0x0⟩,
  ⟨0x400018, [(16, 0x20000)], [(RDX_LAST_SENDER_MODULE, .ro), (RDX_LAST_SENDER_PORT, .ro)], 0x0⟩,
  ⟨0x400020, [(16, 0x20000)], [(RDX_ROWS_LO_ROWS_LO, .ro)], 0x0⟩,
  ⟨0x400024, [(16, 0x20000)], [(RDX_ROWS_HI_ROWS_HI, .ro)], 0x0⟩,
  ⟨0x401000, [(16, 0x20000), (256, 0x40), (16, 0x4)], [(RDX_DESC_WORD, .ro)], 0x0⟩,
  ⟨0x870000, [(64, 0x80000)], [(SYNC_FAULT_CTX, .w1c), (SYNC_FAULT_OVF, .w1c), (SYNC_FAULT_NACK, .w1c)], 0x0⟩,
  ⟨0x870004, [(64, 0x80000)], [(SYNC_WAITERS_COUNT, .ro)], 0x0⟩,
  ⟨0x871000, [(64, 0x80000), (256, 0x10), (4, 0x4)], [(SYNC_OBJ_WORD, .ro)], 0x0⟩,
  ⟨0x410000, [(16, 0x20000), (2, 0x100)], [(GP_STATUS_STATE, .ro), (GP_STATUS_PEER_LEVEL, .ro), (GP_STATUS_LINK_LEVEL, .ro)], 0x0⟩,
  ⟨0x410004, [(16, 0x20000), (2, 0x100)], [(GP_FEC_CE_COUNT, .ro)], 0x0⟩,
  ⟨0x410008, [(16, 0x20000), (2, 0x100)], [(GP_FEC_UE_COUNT, .ro)], 0x0⟩]

/-- Rows 120 to 149 of the register table. -/
def regRows4 : List RegRow := [
  ⟨0x41000C, [(16, 0x20000), (2, 0x100)], [(GP_RETRY_REPLAYS, .ro), (GP_RETRY_REQUESTS, .ro)], 0x0⟩,
  ⟨0x410010, [(16, 0x20000), (2, 0x100)], [(GP_DOWN_COUNT, .ro)], 0x0⟩,
  ⟨0x410014, [(16, 0x20000), (2, 0x100)], [(GP_FAULT_LINK_DOWN, .w1c), (GP_FAULT_LEVEL, .w1c), (GP_FAULT_HCRC, .w1c), (GP_FAULT_INTEGRITY, .w1c), (GP_FAULT_TXN_TIMEOUT, .w1c), (GP_FAULT_MCAST_HOLD, .w1c), (GP_FAULT_NACK_RX, .w1c), (GP_FAULT_NOROUTE, .w1c)], 0x0⟩,
  ⟨0x410018, [(16, 0x20000), (2, 0x100)], [(GP_CLASS_WT_W1, .rwl), (GP_CLASS_WT_W2, .rwl), (GP_CLASS_WT_W3, .rwl)], 0x134⟩,
  ⟨0x410020, [(16, 0x20000), (2, 0x100), (4, 0x4)], [(GP_CREDIT_LIMIT, .ro), (GP_CREDIT_USED, .ro)], 0x0⟩,
  ⟨0x410040, [(16, 0x20000), (2, 0x100)], [(GP_INJ_CTL_MODE, .rw), (GP_INJ_CTL_CLASSES, .rw)], 0xF0⟩,
  ⟨0x410044, [(16, 0x20000), (2, 0x100)], [(GP_INJ_RATE_RATE, .rw)], 0x0⟩,
  ⟨0x410048, [(16, 0x20000), (2, 0x100)], [(GP_INJ_SEED_SEED, .rw)], 0x1⟩,
  ⟨0x41004C, [(16, 0x20000), (2, 0x100)], [(GP_INJ_CNT_COUNT, .ro)], 0x0⟩,
  ⟨0x410050, [(16, 0x20000), (2, 0x100)], [(GP_LOCK_LOCK, .rw)], 0x0⟩,
  ⟨0x410200, [(16, 0x20000)], [(XFER_STATUS_STATE, .ro), (XFER_STATUS_CUR, .ro), (XFER_STATUS_PAUSED, .ro)], 0x0⟩,
  ⟨0x410204, [(16, 0x20000)], [(XFER_QLEN_LEN, .ro)], 0x0⟩,
  ⟨0x410208, [(16, 0x20000)], [(XFER_OUT_COUNT, .ro)], 0x0⟩,
  ⟨0x414000, [(16, 0x20000), (256, 0x40), (16, 0x4)], [(XFER_DESC_WORD, .ro)], 0x0⟩,
  ⟨0x405000, [(16, 0x20000)], [(MCP_BUF_BYTES, .ro)], 0x0⟩,
  ⟨0x405004, [(16, 0x20000)], [(MCP_HOLD_MAX_US, .ro)], 0x0⟩,
  ⟨0x405800, [(16, 0x20000), (16, 0x200), (64, 0x8), (2, 0x4)], [(MCP_LIST_WORD, .ro)], 0x0⟩,
  ⟨0x60000, [], [(FAB_STATE_STATE, .ro), (FAB_STATE_QUORUM, .ro), (FAB_STATE_HOLDING, .ro)], 0x0⟩,
  ⟨0x60004, [], [(FAB_MEPOCH_EPOCH, .ro)], 0x0⟩,
  ⟨0x60008, [], [(FAB_JOB_LO_JOB_LO, .ro)], 0x0⟩,
  ⟨0x6000C, [], [(FAB_JOB_HI_JOB_HI, .ro)], 0x0⟩,
  ⟨0x60010, [], [(FAB_MEMBERS_M, .ro)], 0x0⟩,
  ⟨0x60014, [], [(FAB_REACH_R, .ro)], 0x0⟩,
  ⟨0x60018, [], [(FAB_LEVEL_LINK_LEVEL, .ro), (FAB_LEVEL_NUM_LEVEL, .ro)], 0x101⟩,
  ⟨0x6001C, [], [(FAB_MCAST_HOLD_US, .ro)], 0xC8⟩,
  ⟨0x60020, [], [(FAB_TXN_TO_US, .ro)], 0x3E8⟩,
  ⟨0x60024, [], [(FAB_VHOLD_S, .ro)], 0x3C⟩,
  ⟨0x60028, [], [(FAB_REFUSED_COUNT, .ro)], 0x0⟩,
  ⟨0x6002C, [], [(FAB_LAST_REFUSE_SRC, .ro), (FAB_LAST_REFUSE_CODE, .ro), (FAB_LAST_REFUSE_PTYPE, .ro)], 0x0⟩,
  ⟨0x60030, [], [(FAB_LOCK_LOCK, .rw)], 0x0⟩]

/-- Rows 150 to 179 of the register table. -/
def regRows5 : List RegRow := [
  ⟨0x61000, [(2048, 0x4)], [(FAB_PRESENT_BITS, .ro)], 0x0⟩,
  ⟨0x200000, [(8192, 0x40), (16, 0x4)], [(WIN_DESC_WORD, .ro)], 0x0⟩,
  ⟨0x810100, [(64, 0x80000)], [(MSH_INJ_CTL_MODE, .rw), (MSH_INJ_CTL_LINKS, .rw)], 0x0⟩,
  ⟨0x810104, [(64, 0x80000)], [(MSH_INJ_RATE_RATE, .rw)], 0x0⟩,
  ⟨0x810108, [(64, 0x80000)], [(MSH_INJ_SEED_SEED, .rw)], 0x1⟩,
  ⟨0x81010C, [(64, 0x80000)], [(MSH_INJ_CNT_COUNT, .ro)], 0x0⟩,
  ⟨0x70000, [], [(PLC_STATUS_STATE, .ro), (PLC_STATUS_KIND, .ro)], 0x0⟩,
  ⟨0x70004, [], [(PLC_REFUSE_TYPE, .ro), (PLC_REFUSE_INDEX, .ro)], 0x0⟩,
  ⟨0x70008, [], [(PLC_STAGED_COUNT, .ro)], 0x0⟩,
  ⟨0x70010, [], [(PLC_LOST_0_LOST_LO, .ro)], 0x0⟩,
  ⟨0x70014, [], [(PLC_LOST_1_LOST_HI, .ro)], 0x0⟩,
  ⟨0x71000, [(256, 0x40), (16, 0x4)], [(PLC_REGION_WORD, .ro)], 0x0⟩,
  ⟨0x510300, [(8, 0x20000)], [(XCH_STATUS_STATE, .ro), (XCH_STATUS_CUR, .ro), (XCH_STATUS_PAUSED, .ro)], 0x0⟩,
  ⟨0x510304, [(8, 0x20000)], [(XCH_QLEN_LEN, .ro)], 0x0⟩,
  ⟨0x510308, [(8, 0x20000)], [(XCH_FAULT_INDEX, .w1c), (XCH_FAULT_POISON, .w1c)], 0x0⟩,
  ⟨0x51030C, [(8, 0x20000)], [(XCH_DROPPED_COUNT, .ro)], 0x0⟩,
  ⟨0x510310, [(8, 0x20000)], [(XCH_DROP_TOTAL_COUNT, .ro)], 0x0⟩,
  ⟨0x518000, [(8, 0x20000), (256, 0x40), (16, 0x4)], [(XCH_DESC_WORD, .ro)], 0x0⟩,
  ⟨0x280000, [(32768, 0x10), (4, 0x4)], [(EXP_DIR_WORD, .ro)], 0x0⟩,
  ⟨0x80000, [], [(SEC_LC_STATE, .ro), (SEC_LC_LC_FUSE, .ro), (SEC_LC_DEBUG_OPEN, .ro)], 0x302⟩,
  ⟨0x80010, [(8, 0x4)], [(SEC_TAGS_HELD, .ro)], 0x0⟩,
  ⟨0x80030, [(8, 0x4)], [(SEC_LKEYS_HELD, .ro)], 0x0⟩,
  ⟨0x80050, [], [(SEC_REL_FAIL_COUNT, .ro)], 0x0⟩,
  ⟨0x80054, [], [(SEC_REPLAY_COUNT, .ro)], 0x0⟩,
  ⟨0x80058, [], [(SEC_PROT_RESIDENT, .ro)], 0x0⟩,
  ⟨0x100000, [(16384, 0x40), (16, 0x4)], [(CTX_DESC_WORD, .ro)], 0x0⟩,
  ⟨0x90000, [], [(PWR_STATUS_SUPPLY, .ro), (PWR_STATUS_CAP_LIMITING, .ro), (PWR_STATUS_CAP_UNMET, .ro)], 0x0⟩,
  ⟨0x90004, [], [(PWR_CAP_HOST_CAP, .rw)], 0x708⟩,
  ⟨0x90008, [], [(PWR_CAP_BMC_CAP, .ro)], 0x708⟩,
  ⟨0x9000C, [], [(PWR_IN_V_V, .ro)], 0x0⟩]

/-- Rows 180 to 209 of the register table. -/
def regRows6 : List RegRow := [
  ⟨0x90010, [], [(PWR_IN_P_W, .ro)], 0x0⟩,
  ⟨0x90014, [], [(PWR_CLASS_0_CONTROL, .ro), (PWR_CLASS_0_LINKS, .ro)], 0x0⟩,
  ⟨0x90018, [], [(PWR_CLASS_1_CELLAR, .ro), (PWR_CLASS_1_COMPUTE, .ro)], 0x0⟩,
  ⟨0x90020, [], [(FREQ_STATUS_F_JOB, .ro), (FREQ_STATUS_CEIL_MOD, .ro), (FREQ_STATUS_CAUSE, .ro)], 0x5000⟩,
  ⟨0x90024, [], [(FREQ_MAX_CODE, .rw)], 0x50⟩,
  ⟨0x90028, [], [(FREQ_CHANGES_COUNT, .ro)], 0x0⟩,
  ⟨0x9002C, [], [(PWR_DROOP_CNT_DROOP, .ro), (PWR_DROOP_CNT_POWERFAIL, .ro)], 0x0⟩,
  ⟨0x90030, [], [(THM_MAX_TEMP_C, .ro), (THM_MAX_TILE, .ro)], 0x0⟩,
  ⟨0x90034, [], [(THM_SHED_0_SHED_LO, .ro)], 0x0⟩,
  ⟨0x90038, [], [(THM_SHED_1_SHED_HI, .ro)], 0x0⟩,
  ⟨0x860000, [(64, 0x80000)], [(IVR_FAILED_LO_CELLS_LO, .ro)], 0x0⟩,
  ⟨0x860004, [(64, 0x80000)], [(IVR_FAILED_HI_CELLS_HI, .ro)], 0x0⟩,
  ⟨0x860008, [(64, 0x80000)], [(IVR_RAIL_VCOMP_MV, .ro)], 0x0⟩,
  ⟨0x86000C, [(64, 0x80000)], [(TILE_P_MEAS_W, .ro), (TILE_P_EST_W, .ro)], 0x0⟩,
  ⟨0x860010, [(64, 0x80000)], [(TILE_CAL_K, .ro)], 0x1000⟩,
  ⟨0x860014, [(64, 0x80000)], [(TILE_CEIL_THERMAL, .ro), (TILE_CEIL_DERATE, .ro)], 0x5050⟩,
  ⟨0x860018, [(64, 0x80000)], [(TILE_FT_FT_A, .ro)], 0xF0⟩,
  ⟨0x86001C, [(64, 0x80000)], [(TILE_FT_CNT_COUNT, .ro)], 0x0⟩,
  ⟨0x860020, [(64, 0x80000)], [(TILE_SAG_CNT_COUNT, .ro)], 0x0⟩,
  ⟨0x860024, [(64, 0x80000)], [(TILE_NOTE_REFUSED, .ro)], 0x0⟩,
  ⟨0x860028, [(64, 0x80000)], [(TILE_HDR_CORE0, .ro), (TILE_HDR_CORE1, .ro), (TILE_HDR_CORE2, .ro), (TILE_HDR_CORE3, .ro), (TILE_HDR_CORE4, .ro)], 0xAA⟩,
  ⟨0x860030, [(64, 0x80000)], [(TILE_TEMP_0_BASE0, .ro), (TILE_TEMP_0_BASE1, .ro), (TILE_TEMP_0_BASE2, .ro), (TILE_TEMP_0_BASE3, .ro)], 0x0⟩,
  ⟨0x860034, [(64, 0x80000)], [(TILE_TEMP_1_COMP0, .ro), (TILE_TEMP_1_COMP1, .ro)], 0x0⟩,
  ⟨0xA0000, [], [(FLT_STATUS_TAKEOVER, .ro), (FLT_STATUS_PLOG_DROP, .w1c), (FLT_STATUS_TEST_RES, .ro)], 0x0⟩,
  ⟨0xA0004, [], [(FLT_LOG_SEQ_SEQ, .ro)], 0x0⟩,
  ⟨0xA0008, [], [(FLT_LOG_RD_SEQ, .rw)], 0x1⟩,
  ⟨0xA000C, [], [(FLT_LOG_LOST_COUNT, .ro)], 0x0⟩,
  ⟨0xA0010, [], [(FLT_LASTING_COUNT, .ro)], 0x0⟩,
  ⟨0xA0014, [], [(FLT_EVICT_COUNT, .ro)], 0x0⟩,
  ⟨0xA0018, [], [(FLT_PLOG_COUNT, .ro)], 0x0⟩]

/-- Rows 210 to 239 of the register table. -/
def regRows7 : List RegRow := [
  ⟨0xA0020, [], [(FLT_TEST_CTL_EN, .rw), (FLT_TEST_CTL_PERIOD_S, .rw)], 0x78⟩,
  ⟨0xA0024, [], [(FLT_TEST_SEED_SEED, .rw)], 0x1⟩,
  ⟨0xA0028, [], [(FLT_TEST_ROUNDS_COUNT, .ro)], 0x0⟩,
  ⟨0xA002C, [], [(FLT_TEST_MISMATCH_COUNT, .ro)], 0x0⟩,
  ⟨0xA0030, [], [(FLT_TEST_LAST_SLOT, .ro), (FLT_TEST_LAST_VALID, .ro)], 0x0⟩,
  ⟨0xA1000, [(256, 0x4)], [(FLT_WIN_N, .rw), (FLT_WIN_SPAN_S, .rw)], 0x0⟩,
  ⟨0x10000, [], [(HIF_STATUS_READY, .ro), (HIF_STATUS_SPEED, .ro), (HIF_STATUS_WIDTH, .ro), (HIF_STATUS_FLIT, .ro), (HIF_STATUS_D3HOT, .ro)], 0x0⟩,
  ⟨0x10004, [], [(HIF_CQ_BASE_LO_BASE_LO, .rw)], 0x0⟩,
  ⟨0x10008, [], [(HIF_CQ_BASE_HI_BASE_HI, .rw)], 0x0⟩,
  ⟨0x1000C, [], [(HIF_CQ_CTL_EN, .rw), (HIF_CQ_CTL_SIZE_LOG2, .rw)], 0xC⟩,
  ⟨0x10010, [], [(HIF_CQ_HEAD_HEAD, .rw)], 0x0⟩,
  ⟨0x10014, [], [(HIF_CQ_TAIL_TAIL, .ro)], 0x0⟩,
  ⟨0x10018, [], [(HIF_CQ_PEND_COUNT, .ro)], 0x0⟩,
  ⟨0x1001C, [], [(HIF_CQ_DROP_COUNT, .ro)], 0x0⟩,
  ⟨0x10020, [], [(HIF_PAN_CONS_INDEX, .ro), (HIF_PAN_CONS_PHASE, .ro)], 0x400⟩,
  ⟨0x10024, [], [(HIF_PAN_TAKEN_COUNT, .ro)], 0x0⟩,
  ⟨0x10028, [], [(HIF_PAN_ACTIVE_COUNT, .ro)], 0x0⟩,
  ⟨0x10030, [], [(HIF_DBG_BASE_BASE, .rw)], 0x0⟩,
  ⟨0xB0000, [], [(SB_SMB_ADDR, .ro), (SB_SMB_ALERT, .ro)], 0x5B⟩,
  ⟨0xB0004, [], [(SB_JTAG_SESSION, .ro), (SB_JTAG_PINS, .ro), (SB_JTAG_DEBUG, .ro)], 0x0⟩,
  ⟨0xD0000, [], [(RST_STATUS_LAST, .ro), (RST_STATUS_BUSY, .ro), (RST_STATUS_PSTATE, .ro), (RST_STATUS_PTRANS, .ro)], 0x1⟩,
  ⟨0xD0004, [], [(RST_CAUSE_POWER_ON, .ro), (RST_CAUSE_UNDERVOLT, .ro), (RST_CAUSE_MGMT_HOT, .ro), (RST_CAUSE_SMBUS, .ro), (RST_CAUSE_PANTRY, .ro), (RST_CAUSE_LC_CHANGE, .ro), (RST_CAUSE_PERST, .ro)], 0x1⟩,
  ⟨0xD0008, [], [(RST_COUNT_MODULE, .ro), (RST_COUNT_PERST, .ro)], 0x0⟩,
  ⟨0xD000C, [], [(RST_TILE_COUNT, .ro), (RST_TILE_LAST_TILE, .ro)], 0x0⟩,
  ⟨0xD0010, [], [(RST_CTX_LAST_CTX, .ro), (RST_CTX_COUNT, .ro)], 0x0⟩,
  ⟨0xD0014, [], [(BOOT_MS_MS, .ro)], 0x0⟩,
  ⟨0xD0018, [], [(BOOT_STAGE_STAGE, .ro)], 0x0⟩,
  ⟨0xD001C, [], [(CFG_STATUS_VALID, .ro), (CFG_STATUS_COPY, .ro)], 0x0⟩,
  ⟨0xD0020, [], [(CFG_VERSION_VERSION, .ro)], 0x0⟩,
  ⟨0xD0024, [], [(CFG_PORTS_PORT_EN, .ro)], 0x0⟩]

/-- Rows 240 to 259 of the register table. -/
def regRows8 : List RegRow := [
  ⟨0xD0028, [], [(PST_COUNT_QUIET, .ro), (PST_COUNT_HOLD, .ro)], 0x0⟩,
  ⟨0xC0000, [], [(FW_STATUS_MODE, .ro), (FW_STATUS_BUSY, .ro), (FW_STATUS_WDOG, .ro)], 0x0⟩,
  ⟨0xC0010, [(5, 0x4)], [(FW_RUN_SLOT, .ro), (FW_RUN_TRIAL, .ro), (FW_RUN_NONE, .ro)], 0x0⟩,
  ⟨0xC0030, [(5, 0x4)], [(FW_VER_VERSION, .ro)], 0x0⟩,
  ⟨0xC0050, [(5, 0x4)], [(FW_SET_SET, .ro)], 0x0⟩,
  ⟨0xC0070, [(5, 0x8), (2, 0x4)], [(FW_SLOT_STATE, .ro), (FW_SLOT_ARB, .ro)], 0x0⟩,
  ⟨0xC00A0, [], [(FW_ARB_0_COUNT0, .ro), (FW_ARB_0_COUNT1, .ro), (FW_ARB_0_COUNT2, .ro), (FW_ARB_0_COUNT3, .ro)], 0x0⟩,
  ⟨0xC00A4, [], [(FW_ARB_1_COUNT4, .ro)], 0x0⟩,
  ⟨0xC00B0, [], [(FW_LAST_REFUSE_REASON, .ro), (FW_LAST_REFUSE_COMPONENT, .ro)], 0x0⟩,
  ⟨0xC00C0, [], [(MGC_RESTARTS_COUNT, .ro)], 0x0⟩,
  ⟨0xC00C4, [], [(MGC_SRAM_CE_COUNT, .ro)], 0x0⟩,
  ⟨0xC00D0, [], [(SNS_FAILED_0_TILES_LO, .ro)], 0x0⟩,
  ⟨0xC00D4, [], [(SNS_FAILED_1_TILES_HI, .ro)], 0x0⟩,
  ⟨0xC0100, [], [(RCV_CTL_PIECE, .wo), (RCV_CTL_GO, .wo)], 0x0⟩,
  ⟨0xC0104, [], [(RCV_STATUS_STATE, .ro), (RCV_STATUS_NEXT, .ro)], 0x0⟩,
  ⟨0xC8000, [(8192, 0x4)], [(RCV_DATA_DATA, .wo)], 0x0⟩,
  ⟨0xB0008, [], [(SB_CLK_HOLDOVER, .ro), (SB_CLK_MODCLK_OK, .ro), (SB_CLK_EVENTS, .ro)], 0x0⟩,
  ⟨0x408000, [(16, 0x20000), (2, 0x4000), (4096, 0x4)], [(BULK_MAP_ENTRY_LO, .ro), (BULK_MAP_ENTRY_HI, .ro)], 0x0⟩,
  ⟨0x20000, [(64, 0x10), (4, 0x4)], [(MSIX_TABLE_WORD, .rw)], 0x0⟩,
  ⟨0x20800, [(2, 0x4)], [(MSIX_PBA_PENDING, .ro)], 0x0⟩]

/-- Every mapped register (R36). -/
def regRows : List RegRow := regRows0 ++ (regRows1 ++ (regRows2 ++ (regRows3 ++ (regRows4 ++ (regRows5 ++ (regRows6 ++ (regRows7 ++ (regRows8))))))))

/-- The rows whose reset value is not 0. -/
def resetRows : List (Nat × List (Nat × Nat) × Nat) := [
  (0x800000, [(64, 0x80000)], 0x69F),
  (0x800004, [(64, 0x80000)], 0x43210),
  (0x800008, [(64, 0x80000)], 0x5),
  (0x0, [], 0xFFFF),
  (0x8, [], 0x400100),
  (0x30004, [], 0xFA0019),
  (0x30008, [], 0x50),
  (0x2800F08, [(320, 0x10000)], 0xFFFFFFFF),
  (0x2800C00, [(320, 0x10000)], 0x20),
  (0x2800C04, [(320, 0x10000)], 0xFFFF),
  (0x2800C08, [(320, 0x10000)], 0xFFFF),
  (0x830004, [(64, 0x80000), (2, 0x10000)], 0x19),
  (0x830030, [(64, 0x80000), (2, 0x10000)], 0x282C),
  (0x410018, [(16, 0x20000), (2, 0x100)], 0x134),
  (0x410040, [(16, 0x20000), (2, 0x100)], 0xF0),
  (0x410048, [(16, 0x20000), (2, 0x100)], 0x1),
  (0x60018, [], 0x101),
  (0x6001C, [], 0xC8),
  (0x60020, [], 0x3E8),
  (0x60024, [], 0x3C),
  (0x810108, [(64, 0x80000)], 0x1),
  (0x80000, [], 0x302),
  (0x90004, [], 0x708),
  (0x90008, [], 0x708),
  (0x90020, [], 0x5000),
  (0x90024, [], 0x50),
  (0x860010, [(64, 0x80000)], 0x1000),
  (0x860014, [(64, 0x80000)], 0x5050),
  (0x860018, [(64, 0x80000)], 0xF0),
  (0x860028, [(64, 0x80000)], 0xAA),
  (0xA0008, [], 0x1),
  (0xA0020, [], 0x78),
  (0xA0024, [], 0x1),
  (0x1000C, [], 0xC),
  (0x10020, [], 0x400),
  (0xB0000, [], 0x5B),
  (0xD0000, [], 0x1),
  (0xD0004, [], 0x1)]

/-- Default (N, SPAN_S) of each fault class whose window is not "—" (R470, R471: "First" reads N = 1, SPAN_S = 0). -/
def fltWinDefaults : List (Nat × Nat × Nat) := [
  (0x01, 3, 600), (0x02, 3, 600), (0x03, 2, 86400), (0x04, 1, 0), (0x10, 8, 60), (0x11, 3, 600), (0x12, 1, 0), (0x20, 1, 0), (0x21, 3, 600), (0x22, 1, 0), (0x23, 1, 0), (0x24, 1, 0), (0x30, 3, 600), (0x31, 3, 600), (0x32, 3, 600), (0x34, 3, 600), (0x35, 3, 600), (0x40, 3, 600), (0x41, 3, 86400)]

/-- Whether byte address a is an instance of a register at base with the given index counts and strides. -/
def addrIn : Nat → List (Nat × Nat) → Nat → Bool
  | base, [], a => a == base
  | base, (n, s) :: t, a => decide (base ≤ a) && decide ((a - base) / s < n) && addrIn base t (base + (a - base) % s)

/-- The reset value of the register word at byte address a (0 where no table gives another). -/
def regReset (a : Nat) : Nat :=
  if 0xA1000 ≤ a ∧ a < 0xA1400 then
    match fltWinDefaults.find? (fun r => decide (0xA1000 + 4 * r.1 = a)) with
    | some r => r.2.1 + r.2.2 * 16
    | none => 0
  else if 0x20000 ≤ a ∧ a < 0x20400 then (if a % 16 = 12 then 1 else 0)
  else
    match resetRows.find? (fun r => addrIn r.1 r.2.1 a) with
    | some r => r.2.2
    | none => 0

/-- The register row that address a belongs to. -/
def regRowAt (a : Nat) : Option RegRow := regRows.find? (fun r => addrIn r.base r.dims a)

end Sys2Proof.Machine
end

