-- ==== Sys2Proof/Machine/Tbl.lean ====
section
/-!
DEFINITION. Machine/Tbl.lean: sparse tables with a default value, in one canonical form.

A table is a list of (key, value) pairs with strictly rising keys and no entry equal to the value an unlisted key
reads as, so that equal tables are equal lists. Memory (Host.Cell pairs), the mapped registers and every large
array of the device are held in this form.
-/
namespace Sys2Proof.Machine

/-- A sparse table: (key, value) pairs, keys strictly rising. -/
abbrev Tbl (α : Type) := List (Nat × α)

/-- The value listed at k, or none. -/
def Tbl.find {α : Type} : Tbl α → Nat → Option α
  | [], _ => none
  | c :: t, k => if c.1 = k then some c.2 else Tbl.find t k

/-- The value at k, where an unlisted key reads as d. -/
def Tbl.get {α : Type} (t : Tbl α) (k : Nat) (d : α) : α := (Tbl.find t k).getD d

/-- The table with the value v at k, where an unlisted key reads as d: writing d removes the entry. -/
def Tbl.put {α : Type} [DecidableEq α] (t : Tbl α) (k : Nat) (v d : α) : Tbl α :=
  t.filter (fun c => decide (c.1 < k)) ++
    ((if v = d then [] else [(k, v)]) ++ t.filter (fun c => decide (k < c.1)))

/-- The table without the keys of [lo, hi). -/
def Tbl.cut {α : Type} (t : Tbl α) (lo hi : Nat) : Tbl α :=
  t.filter (fun c => decide (c.1 < lo) || decide (hi ≤ c.1))

/-- Keys strictly rise from lo, and no entry holds what an unlisted key reads as (a function of the key). -/
def Tbl.ok {α : Type} [DecidableEq α] (dflt : Nat → α) : Nat → Tbl α → Bool
  | _, [] => true
  | lo, c :: t => decide (lo ≤ c.1) && decide (c.2 ≠ dflt c.1) && Tbl.ok dflt (c.1 + 1) t

end Sys2Proof.Machine
end

