-- ==== Sys2Proof/Machine/State.lean ====
section
/-!
DEFINITION. Machine/State.lean: the module's state as plain data. INVENTORY.md '## State' lists every piece with the rule
that names it and its value at reset. Every field's default below is its value at reset.
-/
namespace Sys2Proof.Machine

/-- What a 128 B row carries beside its data: poison (R163, R242), which of its five parity bits are in error, bit k for
bytes 32 k to 32 k + 31 and bit 4 for the side field (R163), the shelf's header side field (R142), the Cellar's 128 check
bits (R239), and one more than the ticks emitted when the shelf row was last written (R68). -/
structure RowMeta where
  poison : Bool := false
  parErr : BitVec 5 := 0
  hdr : BitVec 64 := 0
  chk : BitVec 128 := 0
  born : Nat := 0
  deriving DecidableEq, Repr

/-- One row access of a running operation (R139, R546, R547): its operand rank (0 A or source, 1 B, 2 D or destination),
the pass of the operand it belongs to, its physical index, its cycle from the operation's start, bank and row (bank
128 + i, row j is part j of vector register Vi, which uses no port), whether it writes, whether it is over (an invalid
row, a lost port, a write that has landed), whether a stream writes its row in the same cycle (R141), and for a read what it
returned. -/
structure PortAcc where
  opnd : Nat
  pass : Nat := 0
  idx : Nat
  cyc : Nat
  bank : Nat
  row : Nat
  wr : Bool
  drop : Bool := false
  clash : Bool := false
  data : Row := 0
  hdr : BitVec 64 := 0
  poison : Bool := false
  deriving DecidableEq, Repr

/-- The operation a pipe entry holds. -/
inductive SlotOp where
  | mat (o : MatOp)
  | vec (o : VecOp)
  | mov (o : MovOp)
  deriving DecidableEq, Repr

/-- An operation issued and not yet retired (R211, R212): its issue number, its bundle, the cycle it issued in, the index register values and handle
entries it captured at issue, the cycle it started (none while pending), its accesses, the groups it has still to issue, the
cycle in which it retires, since when the note gate has held it (R229), and the rows an ACC_LOAD has loaded (R123). -/
structure POp where
  op : SlotOp
  no : Nat
  bundle : Nat
  iss : Nat := 0
  xs : List Nat := []
  hs : List Nat := []
  seq : Nat := 0
  start : Option Nat := none
  accs : List PortAcc := []
  done : Nat := 0
  total : Nat := 0
  retire : Nat := 0
  gate : Option Nat := none
  loaded : Nat := 0
  deriving DecidableEq, Repr

/-- A group of an indexed channel as it crosses the mesh (R184): header row, two index rows, the weight rows, the block
headers of a dense SDX8 group, and the poison each part arrived with. A lost group was discarded at a full stage (R191). -/
structure GRec where
  hdr : FRow := {}
  idx0 : FRow := {}
  idx1 : FRow := {}
  w0 : FRow := {}
  w1 : FRow := {}
  blk : BitVec 64 := 0
  blkPoison : Bool := false
  lost : Bool := false
  deriving DecidableEq, Repr

/-- A group gathered and not yet retired (R124): its retirement cycle, its operation as it stood then, the WFMT and kind of its
stream, whether it was bad (R182), the group, and the rows read for it, their cycles from clause start. -/
structure GPend where
  ret : Nat
  op : POp
  wfmt : Nat
  gloss : Bool
  bad : Bool
  grp : GRec
  reads : List PortAcc
  deriving DecidableEq, Repr

/-- A row waiting in a phrase stage: inbound rows as delivered (lost ones marked, R191), outbound rows as read, with the
mark of their last write (R68). -/
structure SRow where
  row : FRow := {}
  lost : Bool := false
  born : Nat := 0
  deriving DecidableEq, Repr

/-- A program in CUR or NEXT (R170): the copied entry, its number, ROW_OFS, the copied handle entry, the context and
clause that started it, whether it is held (R193), discarding (R195) or ended early by an eviction (R198), the rows received or sent over the mesh, the
data rows or groups done (LANDED), the stage, the rows of an incomplete group, the headers of the current run and their
poison, the next expected GSEQ, whether the first poisoned row has been recorded, and the first far row that reached no memory
while the program was held (R193). -/
structure Prog where
  entry : BitVec 512
  entryNo : Nat
  ofs : Nat
  handle : BitVec 64
  fill : Bool
  ctx : Nat
  sid : Nat
  clauseNo : Nat
  held : Bool := false
  discard : Bool := false
  dead : Bool := false
  recv : Nat := 0
  landed : Nat := 0
  fetched : Nat := 0
  stage : List SRow := []
  gstage : List GRec := []
  part : List FRow := []
  hdrs : FRow := {}
  hdrPoison : Bool := false
  gseq : Nat := 0
  poisonSeen : Bool := false
  lateFar : Option Nat := none
  deriving DecidableEq, Repr

/-- One entry of a capture lane (R187): the captured IN_ROW and OUT_ROW and the weight as SDX32. -/
structure CapEnt where
  inRow : Nat
  outRow : Nat
  w : BitVec 32
  deriving DecidableEq, Repr

/-- A capture lane whose program has ended and whose last record is still to be emitted (R188): program, lane, the lane's
records so far, entries. -/
structure Flush where
  prog : Prog
  lane : Nat
  cnt : Nat
  ents : List CapEnt
  deriving DecidableEq, Repr

/-- A capture record waiting for slots (R189): the address it is written to, the agent that writes it, its rows. -/
structure CapRec where
  addr : Nat
  agent : Nat
  rows : List FRow
  deriving DecidableEq, Repr

/-- A stream channel beside its registers (R170-R199): its two positions, the last stream that ended, the capture lanes
(entries and record counts), the lanes still to flush after a program's end, the records waiting for slots, the stream closes
under way and whether the slots of an evicted outbound stream still pass as BULK slots (R198). -/
structure Chan where
  cur : Option Prog := none
  next : Option Prog := none
  lastSid : Nat := 0
  lanes : Tbl (List CapEnt) := []
  laneCnt : Tbl Nat := []
  flush : List Flush := []
  capQ : List CapRec := []
  closing : Nat := 0
  quiet : Bool := false
  deriving DecidableEq, Repr

/-- A stream await under way (R172): the channel, the stream it refers to (none: no stream has occupied CUR), its count,
and the referred stream's final count once it has ended. -/
structure Await where
  ch : Nat
  sid : Option Nat
  n : Nat
  fin : Option Nat := none
  deriving DecidableEq, Repr

/-- The clause a core runs (R205-R210): context kind and number, the header's bundle index, LENGTH, NCONST, LAST, the
repetition, the next bundle and the next slot of it, whether END or a yield has ended issue, the earliest cycle of the
last bundle issued, the latest retirement, the await and the sync object waited on. -/
structure RunSt where
  fill : Bool
  ctx : Nat
  start : Nat
  len : Nat
  nconst : Nat
  last : Bool
  rep : Nat
  no : Nat
  pc : Nat
  slot : Nat := 0
  ended : Bool := false
  cyc : Nat := 0
  lastRet : Nat := 0
  await : Option Await := none
  waitObj : Option Nat := none
  released : Bool := false
  deriving DecidableEq, Repr

/-- A Sparse Core beside its registers: resident contexts (R39), the context that last ran a clause (R61), the context
selected for this sentence (R60), the clause under way, the filler's sequence position (R204), index and vector
registers (R208), the operations of each pipe, the groups gathered and not retired, and the cycles until which the pipes are occupied (R212, R124), the stream
channels, the load note waiting, the implicit note for the next origin, which of the two contexts R60 considers in this
sentence (R204), since when a coverage fall is pending, in thousandths of a router cycle (R228, R230), the non-finite latch (R100), whether the layer-end
drain keeps NEXT programs of one of its contexts from promotion (R192; true: the filler), the cycle its activity was last followed
to (R230), whether a parity error in the filler partition discards the filler's results (R164), and counters that name streams
and clauses. -/
structure CoreSt where
  resFg : Option Nat := none
  resFill : Option Nat := none
  lastCtx : Option Nat := none
  sel : Option Bool := none
  run : Option RunSt := none
  startPos : Option (Nat × Nat) := none
  fillPos : Nat := 0
  fillRep : Nat := 0
  yielded : Bool := false
  fillYielded : Bool := false
  xregs : Tbl (BitVec 32) := []
  vregs : Tbl (BitVec 4096) := []
  vpois : BitVec 16 := 0
  group : List POp := []
  half0 : List POp := []
  half1 : List POp := []
  vec : List POp := []
  mov : List POp := []
  gpend : List GPend := []
  gfFree : Nat := 0
  vecFree : Nat := 0
  movFree : Nat := 0
  portFree0 : Nat := 0
  portFree1 : Nat := 0
  grpRet0 : Nat := 0
  grpRet1 : Nat := 0
  chans : Tbl Chan := []
  note : Option Nat := none
  impNote : Option Nat := none
  consFg : Bool := false
  consFill : Bool := false
  fall : Option Nat := none
  actCyc : Nat := 0
  fillBad : Bool := false
  level : Nat := 0
  latch : Bool := false
  drained : Option Bool := none
  opCnt : Nat := 0
  sidCnt : Nat := 0
  clauseCnt : Nat := 0
  deriving DecidableEq, Repr

/-- A writeback called for and not yet made (R243, R244): the stored row's address, its data and whether it is written
poisoned. -/
structure WriteBack where
  addr : Nat
  data : Row
  poison : Bool
  deriving DecidableEq, Repr

/-- A stream open on its way to a far agent (R176). -/
structure OpenMsg where
  core : Nat
  ch : Nat
  unit : Nat
  agent : Nat
  prog : Prog
  deriving DecidableEq, Repr

/-- A stream close on its way to a far agent (R198). -/
structure CloseMsg where
  core : Nat
  ch : Nat
  unit : Nat
  agent : Nat
  sid : Nat
  deriving DecidableEq, Repr

/-- A far agent running a stream (R176): whose stream, its program, the rows it has moved, and whether an out-of-unit row
has been recorded (R174). -/
structure Agent where
  core : Nat
  ch : Nat
  prog : Prog
  k : Nat := 0
  oor : Bool := false
  deriving DecidableEq, Repr

/-- A flit at an input of a router: the tile, the input port, the router cycle in which it is present, its rows, and for
the rows of capture slots the module-local addresses they carry with their source's key tag and context and the agent that is
to write them. -/
structure Flit where
  tile : Nat
  port : Nat
  cyc : Nat
  rows : List FRow
  addrs : List Nat := []
  tag : Nat := 0
  ctx : Nat := 0
  agent : Nat := 63
  fill : Bool := false
  deriving DecidableEq, Repr

/-- What the router of a tile has read from a local port one cycle early, for its entry of cycle cyc (R70): a flit, or none ready;
whether the slot passes as a BULK slot would, and whether its owner is a filler. -/
structure PreRead where
  tile : Nat
  port : Nat
  cyc : Nat
  flit : Option Flit := none
  quiet : Bool := false
  fill : Bool := false
  deriving DecidableEq, Repr

/-- A flit a router has delivered to a local port, with the slot-table index of its slot (R178). -/
structure Delivery where
  tile : Nat
  port : Nat
  idx : Nat
  flit : Flit
  deriving DecidableEq, Repr
/-- A row on its way to a core's shelf over the control network (R147): the core, its byte offset in the shelf window,
whether it is a write, its data and poison, the context it carries (none: the host), the held request it belongs to
(none: a debug access), and the host read it belongs to. -/
structure ShelfRow where
  core : Nat
  ofs : Nat
  wr : Bool
  row : FRow := {}
  ctx : Option Nat := none
  req : Option Nat := none
  rd : Option Nat := none
  deriving DecidableEq, Repr

/-- A host read through the debug window that waits for shelf rows (R147): a number that names it, its first byte's module-local
address, its length, its rows so far, by their place in it, and how many are still to come. -/
structure HostRd where
  no : Nat
  addr : Nat
  len : Nat
  got : Tbl (BitVec 1024) := []
  left : Nat := 0
  deriving DecidableEq, Repr

/-- An increment on its way to a sync object (R320): the object, the source context, the amount, its sender (a core number,
or a number above 319 for an engine or CN node), whether that source is a filler, whether it is an accepted message from
another module, and for a forwarded one the object that sent it (R324). -/
structure SyncInc where
  obj : Nat
  ctx : Nat
  amt : Nat
  src : Nat
  fill : Bool := false
  remote : Bool := false
  fromObj : Option Nat := none
  deriving DecidableEq, Repr

/-- A sync message a reached object sends to another module (R324). -/
structure SyncMsg where
  rmod : Nat
  robj : Nat
  fromObj : Nat
  deriving DecidableEq, Repr

/-- A completion record (R483) before it is written to the ring, with the MSI-X vector that signals it (R486). -/
structure CqRec where
  kind : Nat
  status : Nat
  tag : Nat
  step : Nat
  value : Nat
  detail : Nat
  modNo : Nat
  vec : Nat
  deriving DecidableEq, Repr


/-- The Update Engine of a tile beside its registers (R266-R269, R315): a shard is under way, its tries so far, the rows
written of each of its arrays, its partial norm and its loft digest; the partial norms of the shards done in order, the loft
digest of the pass, the two latches, and whether the pass ended early. -/
structure UeSt where
  busy : Bool := false
  tries : Nat := 0
  rows : Tbl Nat := []
  norm : BitVec 48 := 0
  dig : BitVec 64 := 0
  norms : List (BitVec 48) := []
  passDig : BitVec 64 := 0
  nf : Bool := false
  absurd : Bool := false
  failed : Bool := false
  deriving DecidableEq, Repr

/-- The update pass of the module: its Update Engines by tile, the update orders (descriptor i of tile t at 1024 t + i,
R262), P1 and P2 of each rule entry (an unlisted entry holds 1.0 twice, R278), the clip scale of the pass and whether the pass
waits for tokens (R266, R291), and the chunk maps as the last checkpoint copied them into the runtime reserve (R274). -/
structure Upd where
  ues : Tbl UeSt := []
  order : Tbl (BitVec 512) := []
  bias : Tbl (BitVec 64) := []
  clip : BitVec 32 := 0x3FC00000
  wait : Bool := true
  mapCopy : Tbl (BitVec 128) := []
  deriving DecidableEq, Repr

/-- Which contexts are resident on the module (R394): the foreground one and the fillers. -/
structure Res where
  fg : Option Nat := none
  fillers : List Nat := []
  deriving DecidableEq, Repr

/-- Something the module has sent outside, in order (log 23): a frame on a Gorith port with its rows' poison, a link packet,
a write of host memory by the bus master, an MSI-X message, an SMBus response or its NACK, a DOE response, a PCIe completion
of a read, the SMBALERT# line, an AER message, JTAG data shifted out. -/
inductive Out where
  | frame (port : Nat) (lanes : List (BitVec 680)) (pois : BitVec 20)
  | hostWrite (addr len data : Nat)
  | msix (addr data : Nat)
  | smbus (bytes : List Byte)
  | smbusNack
  | doe (bytes : List Byte)
  | readData (data : Nat)
  | aer (kind : Nat)
  | tdo (data : Nat)
  deriving DecidableEq, Repr

/-- A packet a port has received, and the data bit that injection flips after its check (R362 mode 4). -/
structure RxPkt where
  p : Packet
  flip : Option Nat := none
  deriving DecidableEq, Repr

/-- Sealed packets accepted from one sender at a port (R414): the highest counter and the window of 256 below it. -/
structure SealWin where
  sender : Nat
  slot : Nat
  high : Nat
  marks : BitVec 256
  deriving DecidableEq, Repr

/-- A frame of a Gorith port (R330): its 5,140 message bits, and the poison of the rows its units belong to (log 24). -/
structure Frame where
  msg : BitVec 5140
  pois : BitVec 20 := 0
  deriving DecidableEq, Repr

/-- The CONTRIB packet of highest OFS that a port has sent of one contribution (R413): its TAG and WIN as one number, its OFS and
its nonce. -/
structure LastRow where
  id : Nat
  ofs : Nat
  nonce : BitVec 96
  deriving DecidableEq, Repr

/-- A Gorith port beside its registers (R329-R336, R362, R413, R414): the expected FSEQ and whether the receiver waits for
it, frames accepted since the last acknowledgement, the 32 B units of the packet in progress with its rows' poison, packets received and not handled, the packet injection
holds back, link packets received, units handed back per class, packets queued to send, the service each class has had (log 106), the
next FSEQ, the frames kept for replay (oldest first) and those of a started packet that wait while 2,048 are kept, the FSEQ last asked
for again and how often, training attempts and whether the link levels agree, the injection generator, the counters of sealed packets
by key slot, the last rows sent of the contributions under way, and the senders' windows. -/
structure GPort where
  rxExp : Nat := 0
  rxGap : Bool := false
  rxNew : Nat := 0
  rxUnits : List (BitVec 256) := []
  rxPois : List Bool := []
  inbox : List RxPkt := []
  held : Option RxPkt := none
  links : List (BitVec 256) := []
  freed : Tbl Nat := []
  txq : List Packet := []
  served : Tbl Nat := []
  txSeq : Nat := 0
  kept : List Frame := []
  txWait : List Frame := []
  reqSeq : Nat := 0
  reqCnt : Nat := 0
  tries : Nat := 0
  levelOk : Bool := false
  inj : BitVec 32 := 1
  sealCtr : Tbl Nat := []
  lastRows : List LastRow := []
  wins : List SealWin := []
  deriving DecidableEq, Repr

/-- A remote WRITE or READ that has passed its checks and waits for its slots (R347): the port it came by, its header, its
rows, the window descriptor it was checked against, how many rows have landed or been read, those read, whether a bulk agent or shelf has refused one and whether that
report is still on its way, and a number that names it. -/
structure HeldReq where
  no : Nat
  port : Nat
  hdr : BitVec 256
  rows : List FRow := []
  win : Nat := 0
  sent : Nat := 0
  done : Nat := 0
  got : Tbl FRow := []
  refused : Bool := false
  reported : Bool := false
  deriving DecidableEq, Repr

/-- A request this module has outstanding (R348, R350): its tag, its target, the port it went by, the engine that sent it
(edge die and 2 transfer or 3 exchange, 8 more once the engine's queue has been restarted), whether it is a READ and where its rows land. -/
structure Outst where
  tag : Nat
  dst : Nat
  port : Nat
  die : Nat
  eng : Nat
  read : Bool := false
  addr : Nat := 0
  rows : Nat := 0
  deriving DecidableEq, Repr

/-- A packet in a multicast replicator's buffer (R353): the packet, the router cycle it entered in, the entries still waiting, the
descriptor it belongs to and whether the queue has been restarted since. -/
structure McPkt where
  p : Packet
  at_ : Nat
  waiting : List Nat
  desc : Nat := 0
  old : Bool := false
  deriving DecidableEq, Repr

/-- A contribution arriving at a reduce-exchange unit (R299, R305): its port, descriptor number and phase, its sender, its
rows by offset, and its digest. -/
structure Contrib where
  port : Nat
  desc : Nat
  phase : Nat
  src : Nat
  rows : Tbl FRow := []
  digest : Option (BitVec 64) := none
  bad : Bool := false
  nonce : BitVec 96 := 0
  nonceOfs : Option Nat := none
  slot : Nat := 0
  deriving DecidableEq, Repr

/-- An engine of an edge die running its queue (R298, R349, R381): whether a descriptor is under way, its phase, whether the
phase's contribution has been sent, the rows it holds, how far it has come, whether a request was
refused or timed out, and whether a poisoned row of the descriptor has been recorded (R386). -/
structure Eng where
  busy : Bool := false
  phase : Nat := 0
  sent : Bool := false
  buf : List FRow := []
  pos : Nat := 0
  bad : Bool := false
  poisSeen : Bool := false
  deriving DecidableEq, Repr

/-- An edge die beside its registers: its three engines, contributions arriving, the replicator's buffer, its non-finite latch
(R100) and whether the die is lost (R27). -/
structure Edge where
  rdx : Eng := {}
  xfer : Eng := {}
  xch : Eng := {}
  contribs : List Contrib := []
  mcp : List McPkt := []
  latch : Bool := false
  lost : Bool := false
  deriving DecidableEq, Repr

/-- A member's parts of a JOIN (R357): its number, its epoch and job, how many parts it has and those that have arrived,
the body's level, W1 and resume fields, its windows, and its ceiling. -/
structure JoinRx where
  src : Nat
  job : Nat
  epoch : Nat
  parts : Nat
  seen : List Nat
  level : Nat
  w1 : Nat
  resEpoch : Nat
  resStep : Nat
  wins : List (Nat × Nat) := []
  ceil : Nat := 0
  deriving DecidableEq, Repr

/-- Membership (R355-R361, R439): members with their positions, the job being joined (its epoch and the tag of its request),
job windows opened for it, JOIN parts received, the previous epoch, each member's last ceiling, the cycle the hold timer started in, and whether work is paused by fencing. -/
structure Member where
  members : List (Nat × Nat × Nat × Nat) := []
  joining : Option (Nat × Nat) := none
  joinWins : List Nat := []
  joins : List JoinRx := []
  prevEpoch : Nat := 0
  ceils : Tbl Nat := []
  hold : Option Nat := none
  deriving DecidableEq, Repr

/-- A verdict record at a root (R311): its stage (0 X, 1 Y, 2 Z), the sender's ring position, the record and the digest
table. -/
structure VrdRx where
  stage : Nat
  pos : Nat
  rec_ : BitVec 256
  table : List (BitVec 64) := []
  deriving DecidableEq, Repr

/-- The verdict reduction (R289-R318): records held as a root, the final record held and the router cycle of its
arrival, the combined record of the X stage, the ring detail this X root forms, its consecutive differing attempts with the step they belong to,
the positions in the minority in the last one, whether the pass under way is a RECLIP pass, a repair's source and tiles, whether the
record ends the job, whether a replay that cores held back has not begun, and the stages and positions from which a record of this attempt
has come (R312). -/
structure Verd where
  box : List VrdRx := []
  fin : Option (BitVec 256) := none
  finAt : Nat := 0
  detail : List Row := []
  consec : Nat := 0
  consecStep : Nat := 0
  minority : List Nat := []
  rcp : Bool := false
  repair : Option (Nat × BitVec 64) := none
  ended : Bool := false
  fresh : Bool := false
  seen : List (Nat × Nat) := []
  deriving DecidableEq, Repr

/-- The fabric: ports, edge dies, link session keys (R411), requests held and outstanding, the next tag and held number, windows that
are closing with the requests that wait for them, membership and the verdict reduction. -/
structure Fab where
  ports : Tbl GPort := []
  edges : Tbl Edge := []
  linkKeys : Tbl (BitVec 256) := []
  held : List HeldReq := []
  heldNo : Nat := 1
  outst : List Outst := []
  tag : Nat := 0
  closing : List (Nat × Option Nat) := []
  mem : Member := {}
  verd : Verd := {}
  deriving DecidableEq, Repr

/-- Mesh fault injection beside its registers (R362): each tile's generator (an unlisted one holds 1) and, for a reorder, the router cycle of
the flit on a link that waits to be exchanged, by tile and input port. -/
structure MeshInj where
  gen : Tbl (BitVec 32) := []
  swap : Tbl Nat := []
  deriving DecidableEq, Repr

/-- Power and heat beside their registers (R421-R450): the cap ceiling with its count, f_job changes due (code and origins to
go), the held compute clock's code with whether droop hold or its exit ramp is under way, power-fail and whether recovery
has been seen, tiles whose adaptive clock or fast-trip hold is in force, each tile's deficit in the running sentence (in ns
of 1/(8 f_job) with f_job in 25 MHz) with the time in ns up to which it is counted, the converter
modules that are off, the header-switch stages closed of each core that stages, and cores that wait to stage. -/
structure Pwr where
  capCeil : Nat := 80
  under : Nat := 0
  pend : List (Nat × Nat) := []
  clk : Nat := 0
  droop : Bool := false
  ramp : Bool := false
  failed : Bool := false
  resume : Bool := false
  sag : List Nat := []
  trip : List Nat := []
  deficit : Tbl Nat := []
  defAt : Nat := 0
  vcmOff : List Nat := []
  stages : Tbl Nat := []
  stageWait : List Nat := []
  deriving DecidableEq, Repr

/-- Heat (R446-R450, R514): tiles whose shedding condition holds, for each tile the 1 ms readings in a row at or above 105
°C, those in a row below 90 °C and how many of these ceiling raises have used, the junction temperature, failed sensors (6 t + i) and
each sensor's run of readings away from its die's median, stacks' readings in a row at or above 105 °C, and the tiles shed with
filler regions only. -/
structure Heat where
  shedDue : List Nat := []
  hot : Tbl Nat := []
  cool : Tbl Nat := []
  raised : Tbl Nat := []
  junction : Tbl Nat := []
  sensorBad : List Nat := []
  sensorRun : Tbl Nat := []
  stackHot : Tbl Nat := []
  fillerShed : List Nat := []
  deriving DecidableEq, Repr

/-- A fault that has become lasting and is applied at origin C (R458): class, unit kind and unit. -/
structure Lasting where
  cls : Nat
  kind : Nat
  unit : Nat
  deriving DecidableEq, Repr

/-- Events of one key in its window (R456, R457): the key (kind, unit, class and, for CELLAR_CE, SUB) and their times in units
of 10 ms, oldest first. -/
structure Tracker where
  key : Nat × Nat × Nat × Nat
  times : List Nat
  deriving DecidableEq, Repr

/-- A spare takeover under way (R459): tile, slot, spare core, and whether its writes are done. -/
structure Takeover where
  tile : Nat
  slot : Nat
  spare : Nat
  done : Bool := false
  deriving DecidableEq, Repr

/-- Faults beside their registers (R452-R469): the log ring by index, lasting faults to apply, trackers, records waiting to be
copied to the persistent log with that log (by index), the next index, stacks whose scrub period is held, core-map values for
the next stop tick by tile, takeovers, committed-state losses, chunks under repair and those repaired with the step number,
whether the test context is resident, and the mismatches that wait for a referee: the core slot, the round, the slot's digest
and its partner's. -/
structure Flt where
  log : Tbl (BitVec 512) := []
  due : List Lasting := []
  trackers : List Tracker := []
  plogWait : List (BitVec 512) := []
  plog : Tbl (BitVec 512) := []
  plogNext : Nat := 0
  scrubHeld : List Nat := []
  mapPend : List (Nat × Nat) := []
  takeovers : List Takeover := []
  stateLost : Bool := false
  repair : List Nat := []
  repaired : List (Nat × Nat) := []
  test : Bool := false
  testPend : List (Nat × Nat × BitVec 64 × BitVec 64) := []
  deriving DecidableEq, Repr
/-- A section of a placement package (R370): its TYPE, INDEX and LENGTH, its body as one little-endian number,
and whether a reserved bit of its header was set. -/
structure Sec where
  typ : Nat
  idx : Nat
  len : Nat
  body : Nat
  resv : Bool := false
  deriving DecidableEq, Repr

/-- A placement package (R370): its 64 B header, its sections and its SHA-384 digest. -/
structure Pkg where
  hdr : Nat
  secs : List Sec
  dig : Nat := 0
  deriving DecidableEq, Repr

/-- A pantry request as taken (R478): OP, FLAGS, TAG, CONTEXT, payload address, length and space, ARGS, and whether a reserved
field was set. -/
structure PReq where
  op : Nat
  flags : Nat
  tag : Nat
  ctx : Nat
  paddr : Nat
  plen : Nat
  pspace : Nat
  args : BitVec 1792
  bad : Bool := false
  deriving DecidableEq, Repr

/-- A request of several phases under way: OP, FLAGS, TAG, CONTEXT, whether its writes are done and take effect at the next
origin, the package of a load, and addresses and a length of a copy, a blob or a checkpoint. -/
structure Work where
  op : Nat
  flags : Nat
  tag : Nat
  ctx : Nat
  done : Bool := false
  pkg : Option Pkg := none
  src : Nat := 0
  dst : Nat := 0
  len : Nat := 0
  data : Nat := 0
  deriving DecidableEq, Repr

/-- The STEP request under way (R482): TAG, steps in all, steps done, input extents, STRIDE, and the extents. -/
structure StepReq where
  tag : Nat
  count : Nat
  k : Nat := 0
  nin : Nat
  stride : Nat
  ext : BitVec 1024
  deriving DecidableEq, Repr

/-- The pantry beside its slots (R478-R482): requests taken and not started, those of several phases under way, the STEP
request, and whether a further step may begin. -/
structure Pan where
  taken : List PReq := []
  works : List Work := []
  step : Option StepReq := none
  deriving DecidableEq, Repr

/-- A GET_REPORT that the DOE mailbox holds (R401, R403): its context and nonce, and the tags of the requests accepted before it that have
not taken effect. -/
structure DoeHeld where
  ctx : Nat
  nonce : Nat
  tags : List Nat
  deriving DecidableEq, Repr

/-- A context beside its descriptor (R392, R402-R411): its ephemeral private keys, the digest of its latest report, failed
releases, weight key, whether checkpoints are permitted, link key, blobs loaded (BLOB_ID, MODULE), and its two logs. -/
structure CtxKeys where
  eph : Option (Nat × Nat) := none
  report : Option Nat := none
  fails : Nat := 0
  kw : Option (BitVec 256) := none
  ckpt : Bool := false
  kl : BitVec 256 := 0
  blobs : List (Nat × Nat) := []
  pkgLog : Nat := 0
  pkgCount : Nat := 0
  manLog : Nat := 0
  manCount : Nat := 0
  deriving DecidableEq, Repr

/-- JTAG beside its register (R489): the instruction in force (IDCODE in Test-Logic-Reset; log 46), and HIF_STATUS's link fields
kept while pins are driven. -/
structure Jtag where
  ir : Nat := 0x01
  link : Nat := 0
  deriving DecidableEq, Repr


/-- A firmware image in its slot of an attic flash (R516): header, body, and whether its signature block and body digest verify as
R517 says (a function of bytes that stand still in the flash). -/
structure Img where
  hdr : BitVec 2048 := 0
  body : Nat := 0
  good : Bool := false
  deriving DecidableEq, Repr

/-- The header of component k's image as shipped: release 1, link level 1, numeric level 1, an empty body (log 45). -/
def shippedHdr (k : Nat) : BitVec 2048 :=
  BitVec.ofNat 2048 (fv 0 32 1 + fv 32 32 11056 + fv 64 8 k + fv 80 8 (if k = 1 then 1 else 0) + fv 88 8 (if k = 4 then 1 else 0) +
    fv 96 32 1 + fv 128 32 1 + fv 160 32 1 +
    fv 256 384 0x5bb99848f1d21ad5fb656fe7bfde4e27dae1f663bfc70c4c4307be1411b7fd216ae3b1b17e32d94c3896ac51a760b038)

/-- The slot record of component k in flash A as shipped: GOOD, with the CRC given (log 45). -/
def shippedRec (k crc : Nat) : BitVec 512 :=
  BitVec.ofNat 512 (fv 0 8 k + fv 8 8 3 + fv 32 32 (k + 1) + fv 64 32 1 + fv 96 32 1 + fv 128 32 1 + fv 160 32 1 + fv 480 32 crc)

/-- The attic (R496, R497, R515, R518): image slots by 2 k + slot; slot records by 2 flash + half, oldest first, and each
flash's active half; the two copies of the configuration image, erased where unlisted. As shipped slot A holds every component
(log 45). -/
structure Attic where
  imgs : Tbl Img := [(0, ⟨shippedHdr 0, 0, true⟩), (2, ⟨shippedHdr 1, 0, true⟩), (4, ⟨shippedHdr 2, 0, true⟩),
    (6, ⟨shippedHdr 3, 0, true⟩), (8, ⟨shippedHdr 4, 0, true⟩)]
  recs : Tbl (List (BitVec 512)) := [(0, [shippedRec 0 0x73422e38,
    shippedRec 1 0x9f2e94ce,
    shippedRec 2 0x06be12c9,
    shippedRec 3 0x9c86e763,
    shippedRec 4 0x98ba57da])]
  half : Tbl Nat := []
  cfg : Tbl (BitVec 512) := []
  deriving DecidableEq, Repr

/-- A tile or context reset under way (R502-R505): its code, the tags of its request and of those it has absorbed (none once a
management restart has answered them), the tile or context, and how far it is: 0 waits for its origin, 1 has begun, 2 may end. -/
structure Rst where
  code : Nat
  tags : List Nat
  unit : Nat
  phase : Nat := 0
  deriving DecidableEq, Repr

/-- A firmware update taken (R523-R525): tag, component, RESET_AFTER, the image and its length, and its target slot. -/
structure FwJob where
  tag : Nat
  comp : Nat
  after : Bool
  data : Nat
  len : Nat
  tgt : Nat
  deriving DecidableEq, Repr

/-- Starting, resets and the management core beside their registers (R492-R530): no power yet, PERST# asserted, the wiping reset
under way (1 cold, 2 PERST#, 3 module), RST_CAUSE for the next power-good, whether keys are derived again at the next start, whether the
fused serial number or secret fails its check (R529),
the identity private keys, a unique device secret written since manufacture, tile and context resets, the power-state
transition (its target and tag) and those that wait, firmware updates taken, the recovery image received, a management restart
under way, the return of MODCLK waiting for an origin, D0 waiting for a tick, and the persistent-log index SMBus has selected. -/
structure Boot where
  off : Bool := true
  held : Bool := false
  run : Option Nat := none
  cause : Nat := 1
  rekey : Bool := false
  fuseBad : Bool := false
  ident : Option (Nat × Nat) := none
  uds : Option Nat := none
  rsts : List Rst := []
  ptrans : Option (Nat × Option Nat) := none
  pwait : List Nat := []
  fwq : List FwJob := []
  rcv : Nat := 0
  restart : Bool := false
  clkBack : Bool := false
  d0wait : Bool := false
  plogSel : Nat := 0
  deriving DecidableEq, Repr

/-- Everything the spec gives the module, beside the queue of waiting commands. -/
structure Dev where
  now : Nat := 0
  freshN : Nat := 0
  regs : Tbl Word := []
  mem : List Host.Cell := []
  rowMeta : Tbl RowMeta := []
  pantry : Tbl Byte := []
  acc : Tbl (BitVec 6144) := []
  accPar : Tbl Bool := []
  clauseStore : Tbl (BitVec 128) := []
  clauseSeq : Tbl (BitVec 64) := []
  slotTable : Tbl (BitVec 128) := []
  portMap : Tbl (BitVec 16) := []
  cores : Tbl CoreSt := []
  agents : Tbl (Option Agent) := []
  opens : List OpenMsg := []
  closes : List CloseMsg := []
  flits : List Flit := []
  preReads : List PreRead := []
  deliveries : List Delivery := []
  shelfFlight : List ShelfRow := []
  hostHold : List ShelfRow := []
  doeHeld : Option DoeHeld := none
  hostRds : List HostRd := []
  hostNo : Nat := 0
  meshLatch : Tbl Bool := []
  tickOut : Bool := false
  guarded : Bool := true
  tickAt : Tbl Nat := []
  edgeAlign : Tbl Nat := []
  losePend : List Nat := []
  keyTable : Tbl (BitVec 512) := []
  cmap : Tbl (BitVec 128) := []
  writebacks : List WriteBack := []
  ccLast : Tbl FRow := []
  ceTime : Tbl Nat := []
  syncFlight : List SyncInc := []
  waits : List (Nat × Nat) := []
  syncOut : List SyncMsg := []
  cqQueue : List CqRec := []
  cqHeld : List CqRec := []
  upd : Upd := {}
  res : Res := {}
  out : List Out := []
  fab : Fab := {}
  meshInj : MeshInj := {}
  pwr : Pwr := {}
  heat : Heat := {}
  flt : Flt := {}
  staged : List Pkg := []
  pkgs : List (Nat × Pkg) := []
  primary : Option Pkg := none
  pan : Pan := {}
  ctxKeys : Tbl CtxKeys := []
  jtag : Jtag := {}
  attic : Attic := {}
  boot : Boot := {}
  volts : Tbl Nat := []
  aer : Nat := 0
  cqPhase : Nat := 1
  msixDue : List Nat := []
  alert : Nat := 0
  committedPoison : List Nat := []
  manifestChunks : List Nat := []
  recFlight : List (BitVec 512) := []
  recSeen : List (Nat × Nat × Nat) := []
  rerunStep : Bool := false
  rerunUpd : Bool := false
  inStep : Bool := false
  originAt : Nat := 0
  deriving DecidableEq, Repr

/-- The module and the commands waiting for it, first in, first out. -/
structure State where
  dev : Dev := {}
  pending : List Instr := []
  deriving DecidableEq, Repr

/-- Reasons the machine could stop with a fault. -/
inductive Fault where
  /-- Raised by no meaning: no command of this model ends in a fault. Safe: it adds no behaviour. -/
  | outsideSpec
  deriving DecidableEq, Repr

/-- Reasons a command could be refused. -/
inductive Refusal where
  /-- A command whose meaning is not written yet, by its mnemonic. Safe: nothing is claimed of it. -/
  | notModelled (mnemonic : String)
  deriving DecidableEq, Repr

/-- The module at power-good, before the cold start runs: every field at its default (INVENTORY.md '## State'). -/
def State.reset : State := {}

end Sys2Proof.Machine
end

