-- ==== Sys2Proof/Machine/Act.lean ====
section
/-!
DEFINITION. Machine/Act.lean: a command's outcome from its effect on the module.
-/
namespace Sys2Proof.Machine

/-- What a command answers. -/
abbrev Answer := Host.Outcome State Fault Refusal

/-- The next state of a command whose effect on the module is f; the waiting commands stay as they are. -/
def act (s : State) (f : Dev → Dev) : Answer := .next { s with dev := f s.dev }

end Sys2Proof.Machine
end

