-- ==== Sys2Proof/Machine/Codec.lean ====
section
/-!
DEFINITION. Machine/Codec.lean: the codes of the spec over byte strings: CRC-32 (R338), the CRC-64 digest (R304), the
fault-injection generator (R362), the cellar's symbol code (R239-R242), and the published algorithms that R12 names and
the device uses inside: SHA-384, AES-256, XTS and GCM.

A byte string is a list of bytes below 256; `bytesOf n v` is the little-endian string of a number.
-/
namespace Sys2Proof.Machine

/-- The n bytes of v, least significant first (R543). -/
def bytesOf (n v : Nat) : List Nat := (List.range n).map (fun i => (v >>> (8 * i)) % 256)

/-- The number whose little-endian bytes are given. -/
def natOfBytes (bs : List Nat) : Nat := bs.foldr (fun b acc => b % 256 + acc <<< 8) 0

/-- The number whose big-endian bytes are given. -/
def natOfBytesBE (bs : List Nat) : Nat := bs.foldl (fun acc b => acc <<< 8 + b % 256) 0

/-- The n bytes of v, most significant first. -/
def bytesBE (n v : Nat) : List Nat := (bytesOf n v).reverse

/- Cyclic redundancy checks -/

/-- One byte through a reflected CRC. -/
def crcByte (poly : Nat) (c b : Nat) : Nat :=
  (List.range 8).foldl (fun x _ => if x % 2 = 1 then (x >>> 1) ^^^ poly else x >>> 1) (c ^^^ b)

/-- CRC-32 of the IEEE 802.3 frame check sequence (R338). -/
def crc32 (bs : List Nat) : Nat := (bs.foldl (crcByte 0xEDB88320) 0xFFFFFFFF) ^^^ 0xFFFFFFFF

/-- The digest: CRC-64 of ECMA-182, reflected (R304). -/
def crc64 (bs : List Nat) : Nat :=
  (bs.foldl (crcByte 0xC96C5795D7870F42) 0xFFFFFFFFFFFFFFFF) ^^^ 0xFFFFFFFFFFFFFFFF

/-- The digest of more bytes appended to a string whose digest is c. -/
def crc64More (c : Nat) (bs : List Nat) : Nat :=
  (bs.foldl (crcByte 0xC96C5795D7870F42) (c ^^^ 0xFFFFFFFFFFFFFFFF)) ^^^ 0xFFFFFFFFFFFFFFFF

/-- One step of the fault-injection generator (R362). -/
def injStep (x : Nat) : Nat :=
  let x := (x ^^^ (x <<< 13)) % 2 ^ 32
  let x := x ^^^ (x >>> 17)
  (x ^^^ (x <<< 5)) % 2 ^ 32

/- The symbol code of the cellar (R239-R242) -/

/-- Product in GF(16) = GF(2)[x] modulo x^4 + x + 1 (R240). -/
def gf16Mul (a b : Nat) : Nat :=
  let p := (List.range 4).foldl (fun acc i => if bit b i then acc ^^^ (a <<< i) else acc) 0
  [6, 5, 4].foldl (fun acc i => if bit acc i then acc ^^^ (0x13 <<< (i - 4)) else acc) p

/-- Product in GF(256) = GF(16)[w] modulo w^2 + w + 8, an element being a + 16 b for a + b w (R240). -/
def gf256Mul (x y : Nat) : Nat :=
  let a1 := x % 16; let b1 := x / 16; let a2 := y % 16; let b2 := y / 16
  let bb := gf16Mul b1 b2
  (gf16Mul a1 a2 ^^^ gf16Mul 8 bb) + 16 * (gf16Mul a1 b2 ^^^ gf16Mul a2 b1 ^^^ bb)

/-- The locator of data symbol k (R240). -/
def locator (k : Nat) : Nat := (k + 1) % 256

/-- The sums s_1 to s_4 over the 64 data symbols of a 256-bit codeword (R240). -/
def eccSums (cw : Nat) : Nat × Nat × Nat × Nat :=
  (List.range 64).foldl (fun (s : Nat × Nat × Nat × Nat) k =>
    let dk := bits cw (4 * k) 4
    if dk = 0 then s
    else
      let g := locator k
      let p1 := gf256Mul dk g
      let p2 := gf256Mul p1 g
      let p3 := gf256Mul p2 g
      (s.1 ^^^ p1, s.2.1 ^^^ p2, s.2.2.1 ^^^ p3, s.2.2.2 ^^^ gf256Mul p3 g)) (0, 0, 0, 0)

/-- The 32 check bits of a codeword (R239, R240): each s_m takes symbols 64 + 2(m-1) and 65 + 2(m-1). -/
def eccCheck (cw : Nat) : Nat :=
  let s := eccSums cw
  s.1 + s.2.1 <<< 8 + s.2.2.1 <<< 16 + s.2.2.2 <<< 24

/-- The 128 check bits of a row, XORed with the poison pattern where the row is poisoned (R242). -/
def rowCheck (data : Nat) (poison : Bool) : Nat :=
  (List.range 4).foldl (fun acc j =>
    acc + ((eccCheck (bits data (256 * j) 256)) ^^^ (if poison then 0x01000001 else 0)) <<< (32 * j)) 0

/-- The class of a codeword (R241). -/
inductive CwClass where
  | clean
  | poison
  | checkSym (sym : Nat)
  | dataSym (k e : Nat)
  | uncorrectable
  deriving DecidableEq, Repr

/-- The syndrome T_1 to T_4 of a codeword and its check bits (R241). -/
def eccSyndrome (cw chk : Nat) : Nat := eccCheck cw ^^^ chk

/-- The class of a syndrome (R241). -/
def classifySyndrome (syn : Nat) : CwClass :=
  let t1 := bits syn 0 8; let t2 := bits syn 8 8; let t3 := bits syn 16 8; let t4 := bits syn 24 8
  if syn = 0 then .clean
  else if t1 = 1 ∧ t2 = 0 ∧ t3 = 0 ∧ t4 = 1 then .poison
  else match (List.range 8).filter (fun j => bits syn (4 * j) 4 != 0) with
    | [j] => .checkSym (64 + j)
    | _ =>
      match (List.range 64).find? (fun k => t1 != 0 && gf256Mul (locator k) t1 == t2 &&
          gf256Mul (locator k) t2 == t3 && gf256Mul (locator k) t3 == t4) with
      | some k =>
        match (List.range 16).find? (fun e => e != 0 && gf256Mul (locator k) e == t1) with
        | some e => .dataSym k e
        | none => .uncorrectable
      | none => .uncorrectable

/-- A codeword corrected under its class. -/
def correctCw (cw : Nat) : CwClass → Nat
  | .dataSym k e => cw ^^^ (e <<< (4 * k))
  | _ => cw

def shaK0 : List Nat := [
  0x428A2F98D728AE22, 0x7137449123EF65CD, 0xB5C0FBCFEC4D3B2F, 0xE9B5DBA58189DBBC,
  0x3956C25BF348B538, 0x59F111F1B605D019, 0x923F82A4AF194F9B, 0xAB1C5ED5DA6D8118,
  0xD807AA98A3030242, 0x12835B0145706FBE, 0x243185BE4EE4B28C, 0x550C7DC3D5FFB4E2,
  0x72BE5D74F27B896F, 0x80DEB1FE3B1696B1, 0x9BDC06A725C71235, 0xC19BF174CF692694,
  0xE49B69C19EF14AD2, 0xEFBE4786384F25E3, 0x0FC19DC68B8CD5B5, 0x240CA1CC77AC9C65,
  0x2DE92C6F592B0275, 0x4A7484AA6EA6E483, 0x5CB0A9DCBD41FBD4, 0x76F988DA831153B5,
  0x983E5152EE66DFAB, 0xA831C66D2DB43210, 0xB00327C898FB213F, 0xBF597FC7BEEF0EE4,
  0xC6E00BF33DA88FC2, 0xD5A79147930AA725, 0x06CA6351E003826F, 0x142929670A0E6E70,
  0x27B70A8546D22FFC, 0x2E1B21385C26C926, 0x4D2C6DFC5AC42AED, 0x53380D139D95B3DF,
  0x650A73548BAF63DE, 0x766A0ABB3C77B2A8, 0x81C2C92E47EDAEE6, 0x92722C851482353B]

def shaK1 : List Nat := [
  0xA2BFE8A14CF10364, 0xA81A664BBC423001, 0xC24B8B70D0F89791, 0xC76C51A30654BE30,
  0xD192E819D6EF5218, 0xD69906245565A910, 0xF40E35855771202A, 0x106AA07032BBD1B8,
  0x19A4C116B8D2D0C8, 0x1E376C085141AB53, 0x2748774CDF8EEB99, 0x34B0BCB5E19B48A8,
  0x391C0CB3C5C95A63, 0x4ED8AA4AE3418ACB, 0x5B9CCA4F7763E373, 0x682E6FF3D6B2B8A3,
  0x748F82EE5DEFB2FC, 0x78A5636F43172F60, 0x84C87814A1F0AB72, 0x8CC702081A6439EC,
  0x90BEFFFA23631E28, 0xA4506CEBDE82BDE9, 0xBEF9A3F7B2C67915, 0xC67178F2E372532B,
  0xCA273ECEEA26619C, 0xD186B8C721C0C207, 0xEADA7DD6CDE0EB1E, 0xF57D4F7FEE6ED178,
  0x06F067AA72176FBA, 0x0A637DC5A2C898A6, 0x113F9804BEF90DAE, 0x1B710B35131C471B,
  0x28DB77F523047D84, 0x32CAAB7B40C72493, 0x3C9EBE0A15C9BEBC, 0x431D67C49C100D4C,
  0x4CC5D4BECB3E42B6, 0x597F299CFC657E2A, 0x5FCB6FAB3AD6FAEC, 0x6C44198C4A475817]

/-- The round constants of SHA-384 (FIPS 180-4). -/
def shaK : List Nat := shaK0 ++ (shaK1)

/-- The initial hash value of SHA-384 (FIPS 180-4). -/
def shaH0 : List Nat := [
  0xCBBB9D5DC1059ED8, 0x629A292A367CD507, 0x9159015A3070DD17, 0x152FECD8F70E5939,
  0x67332667FFC00B31, 0x8EB44A8768581511, 0xDB0C2E0D64F98FA7, 0x47B5481DBEFA4FA4]

def sbox0 : List Nat := [
  0x63, 0x7C, 0x77, 0x7B, 0xF2, 0x6B, 0x6F, 0xC5, 0x30, 0x01, 0x67, 0x2B, 0xFE, 0xD7, 0xAB, 0x76,
  0xCA, 0x82, 0xC9, 0x7D, 0xFA, 0x59, 0x47, 0xF0, 0xAD, 0xD4, 0xA2, 0xAF, 0x9C, 0xA4, 0x72, 0xC0,
  0xB7, 0xFD, 0x93, 0x26, 0x36, 0x3F, 0xF7, 0xCC, 0x34, 0xA5, 0xE5, 0xF1, 0x71, 0xD8, 0x31, 0x15,
  0x04, 0xC7, 0x23, 0xC3, 0x18, 0x96, 0x05, 0x9A, 0x07, 0x12, 0x80, 0xE2, 0xEB, 0x27, 0xB2, 0x75]

def sbox1 : List Nat := [
  0x09, 0x83, 0x2C, 0x1A, 0x1B, 0x6E, 0x5A, 0xA0, 0x52, 0x3B, 0xD6, 0xB3, 0x29, 0xE3, 0x2F, 0x84,
  0x53, 0xD1, 0x00, 0xED, 0x20, 0xFC, 0xB1, 0x5B, 0x6A, 0xCB, 0xBE, 0x39, 0x4A, 0x4C, 0x58, 0xCF,
  0xD0, 0xEF, 0xAA, 0xFB, 0x43, 0x4D, 0x33, 0x85, 0x45, 0xF9, 0x02, 0x7F, 0x50, 0x3C, 0x9F, 0xA8,
  0x51, 0xA3, 0x40, 0x8F, 0x92, 0x9D, 0x38, 0xF5, 0xBC, 0xB6, 0xDA, 0x21, 0x10, 0xFF, 0xF3, 0xD2]

def sbox2 : List Nat := [
  0xCD, 0x0C, 0x13, 0xEC, 0x5F, 0x97, 0x44, 0x17, 0xC4, 0xA7, 0x7E, 0x3D, 0x64, 0x5D, 0x19, 0x73,
  0x60, 0x81, 0x4F, 0xDC, 0x22, 0x2A, 0x90, 0x88, 0x46, 0xEE, 0xB8, 0x14, 0xDE, 0x5E, 0x0B, 0xDB,
  0xE0, 0x32, 0x3A, 0x0A, 0x49, 0x06, 0x24, 0x5C, 0xC2, 0xD3, 0xAC, 0x62, 0x91, 0x95, 0xE4, 0x79,
  0xE7, 0xC8, 0x37, 0x6D, 0x8D, 0xD5, 0x4E, 0xA9, 0x6C, 0x56, 0xF4, 0xEA, 0x65, 0x7A, 0xAE, 0x08]

def sbox3 : List Nat := [
  0xBA, 0x78, 0x25, 0x2E, 0x1C, 0xA6, 0xB4, 0xC6, 0xE8, 0xDD, 0x74, 0x1F, 0x4B, 0xBD, 0x8B, 0x8A,
  0x70, 0x3E, 0xB5, 0x66, 0x48, 0x03, 0xF6, 0x0E, 0x61, 0x35, 0x57, 0xB9, 0x86, 0xC1, 0x1D, 0x9E,
  0xE1, 0xF8, 0x98, 0x11, 0x69, 0xD9, 0x8E, 0x94, 0x9B, 0x1E, 0x87, 0xE9, 0xCE, 0x55, 0x28, 0xDF,
  0x8C, 0xA1, 0x89, 0x0D, 0xBF, 0xE6, 0x42, 0x68, 0x41, 0x99, 0x2D, 0x0F, 0xB0, 0x54, 0xBB, 0x16]

/-- The AES S-box (FIPS 197). -/
def sbox : List Nat := sbox0 ++ (sbox1 ++ (sbox2 ++ (sbox3)))

def invSbox0 : List Nat := [
  0x52, 0x09, 0x6A, 0xD5, 0x30, 0x36, 0xA5, 0x38, 0xBF, 0x40, 0xA3, 0x9E, 0x81, 0xF3, 0xD7, 0xFB,
  0x7C, 0xE3, 0x39, 0x82, 0x9B, 0x2F, 0xFF, 0x87, 0x34, 0x8E, 0x43, 0x44, 0xC4, 0xDE, 0xE9, 0xCB,
  0x54, 0x7B, 0x94, 0x32, 0xA6, 0xC2, 0x23, 0x3D, 0xEE, 0x4C, 0x95, 0x0B, 0x42, 0xFA, 0xC3, 0x4E,
  0x08, 0x2E, 0xA1, 0x66, 0x28, 0xD9, 0x24, 0xB2, 0x76, 0x5B, 0xA2, 0x49, 0x6D, 0x8B, 0xD1, 0x25]

def invSbox1 : List Nat := [
  0x72, 0xF8, 0xF6, 0x64, 0x86, 0x68, 0x98, 0x16, 0xD4, 0xA4, 0x5C, 0xCC, 0x5D, 0x65, 0xB6, 0x92,
  0x6C, 0x70, 0x48, 0x50, 0xFD, 0xED, 0xB9, 0xDA, 0x5E, 0x15, 0x46, 0x57, 0xA7, 0x8D, 0x9D, 0x84,
  0x90, 0xD8, 0xAB, 0x00, 0x8C, 0xBC, 0xD3, 0x0A, 0xF7, 0xE4, 0x58, 0x05, 0xB8, 0xB3, 0x45, 0x06,
  0xD0, 0x2C, 0x1E, 0x8F, 0xCA, 0x3F, 0x0F, 0x02, 0xC1, 0xAF, 0xBD, 0x03, 0x01, 0x13, 0x8A, 0x6B]

def invSbox2 : List Nat := [
  0x3A, 0x91, 0x11, 0x41, 0x4F, 0x67, 0xDC, 0xEA, 0x97, 0xF2, 0xCF, 0xCE, 0xF0, 0xB4, 0xE6, 0x73,
  0x96, 0xAC, 0x74, 0x22, 0xE7, 0xAD, 0x35, 0x85, 0xE2, 0xF9, 0x37, 0xE8, 0x1C, 0x75, 0xDF, 0x6E,
  0x47, 0xF1, 0x1A, 0x71, 0x1D, 0x29, 0xC5, 0x89, 0x6F, 0xB7, 0x62, 0x0E, 0xAA, 0x18, 0xBE, 0x1B,
  0xFC, 0x56, 0x3E, 0x4B, 0xC6, 0xD2, 0x79, 0x20, 0x9A, 0xDB, 0xC0, 0xFE, 0x78, 0xCD, 0x5A, 0xF4]

def invSbox3 : List Nat := [
  0x1F, 0xDD, 0xA8, 0x33, 0x88, 0x07, 0xC7, 0x31, 0xB1, 0x12, 0x10, 0x59, 0x27, 0x80, 0xEC, 0x5F,
  0x60, 0x51, 0x7F, 0xA9, 0x19, 0xB5, 0x4A, 0x0D, 0x2D, 0xE5, 0x7A, 0x9F, 0x93, 0xC9, 0x9C, 0xEF,
  0xA0, 0xE0, 0x3B, 0x4D, 0xAE, 0x2A, 0xF5, 0xB0, 0xC8, 0xEB, 0xBB, 0x3C, 0x83, 0x53, 0x99, 0x61,
  0x17, 0x2B, 0x04, 0x7E, 0xBA, 0x77, 0xD6, 0x26, 0xE1, 0x69, 0x14, 0x63, 0x55, 0x21, 0x0C, 0x7D]

/-- The inverse AES S-box (FIPS 197). -/
def invSbox : List Nat := invSbox0 ++ (invSbox1 ++ (invSbox2 ++ (invSbox3)))

/- SHA-384 (FIPS 180-4) -/

def w64 (x : Nat) : Nat := x % 2 ^ 64
def rotr64 (x n : Nat) : Nat := (x >>> n) ||| w64 (x <<< (64 - n))

/-- The message schedule of one 1,024-bit block, newest word first. -/
def shaSchedule (blk : List Nat) : List Nat :=
  ((List.range 64).foldl (fun (w : List Nat) _ =>
    let x := w.getD 14 0; let y := w.getD 1 0
    let s0 := rotr64 x 1 ^^^ rotr64 x 8 ^^^ (x >>> 7)
    let s1 := rotr64 y 19 ^^^ rotr64 y 61 ^^^ (y >>> 6)
    w64 (w.getD 15 0 + s0 + w.getD 6 0 + s1) :: w) blk.reverse).reverse

/-- One round of the compression function on (a..h) with constant + word kw. -/
def shaRound (v : List Nat) (kw : Nat) : List Nat :=
  match v with
  | [a, b, c, d, e, f, g, h] =>
    let s1 := rotr64 e 14 ^^^ rotr64 e 18 ^^^ rotr64 e 41
    let ch := (e &&& f) ^^^ ((0xFFFFFFFFFFFFFFFF ^^^ e) &&& g)
    let t1 := h + s1 + ch + kw
    let s0 := rotr64 a 28 ^^^ rotr64 a 34 ^^^ rotr64 a 39
    let mj := (a &&& b) ^^^ (a &&& c) ^^^ (b &&& c)
    [w64 (t1 + s0 + mj), a, b, c, w64 (d + t1), e, f, g]
  | x => x

/-- One block into the hash value. -/
def shaBlock (h : List Nat) (blk : List Nat) : List Nat :=
  let r := ((shaSchedule blk).zip shaK).foldl (fun v wk => shaRound v (wk.1 + wk.2)) h
  (h.zip r).map (fun p => w64 (p.1 + p.2))

/-- Blocks of a padded message: `fuel` bounds their number. -/
def shaBlocks (h : List Nat) : Nat → List Nat → List Nat
  | 0, _ => h
  | k + 1, bs =>
    if bs = [] then h
    else shaBlocks (shaBlock h ((List.range 16).map (fun i => natOfBytesBE ((bs.drop (8 * i)).take 8)))) k (bs.drop 128)

/-- The hash value of a byte string, as eight words, from an initial value. -/
def sha2 (h0 msg : List Nat) : List Nat :=
  let n := msg.length
  let zeros := (239 - n % 128) % 128
  let padded := msg ++ (0x80 :: List.replicate zeros 0) ++ bytesBE 16 (8 * n)
  shaBlocks h0 (padded.length / 128 + 1) padded

/-- SHA-384 of a byte string, as its 48 bytes in the standard's order. -/
def sha384 (msg : List Nat) : List Nat := ((sha2 shaH0 msg).take 6).flatMap (bytesBE 8)

/- AES-256 (FIPS 197): a block is a list of 16 bytes -/

def xtime (b : Nat) : Nat := (if b % 256 < 128 then 2 * b else (2 * b) ^^^ 0x11B) % 256

def aesMul (a b : Nat) : Nat :=
  ((List.range 8).foldl (fun (st : Nat × Nat) i => (if bit b i then st.1 ^^^ st.2 else st.1, xtime st.2)) (0, a)).1

def xorBytes (a b : List Nat) : List Nat := (a.zip b).map (fun p => p.1 ^^^ p.2)

def subB (t : List Nat) (b : Nat) : Nat := t.getD b 0

/-- The key schedule of a 32-byte key: 60 words of 4 bytes, newest first. -/
def aesExpand (key : List Nat) : List (List Nat) :=
  let w0 := (List.range 8).map (fun i => (key.drop (4 * i)).take 4)
  (((List.range 52).foldl (fun (st : List (List Nat) × Nat) j =>
    let i := j + 8
    let prev := st.1.getD 0 []
    let t := if i % 8 = 0 then
        let r := (prev.drop 1 ++ prev.take 1).map (subB sbox)
        xorBytes r [st.2, 0, 0, 0]
      else if i % 8 = 4 then prev.map (subB sbox) else prev
    (xorBytes (st.1.getD 7 []) t :: st.1, if i % 8 = 0 then xtime st.2 else st.2)) (w0.reverse, 1)).1).reverse

/-- The 16-byte round keys 0 to 14. -/
def roundKeys (key : List Nat) : List (List Nat) :=
  let w := aesExpand key
  (List.range 15).map (fun r => ((w.drop (4 * r)).take 4).flatten)

def shiftRows (s : List Nat) : List Nat := (List.range 16).map (fun i => s.getD ((i + 4 * (i % 4)) % 16) 0)
def invShiftRows (s : List Nat) : List Nat := (List.range 16).map (fun i => s.getD ((i + 16 - 4 * (i % 4)) % 16) 0)

/-- One column times a circulant matrix row. -/
def mixWith (m : List Nat) (s : List Nat) : List Nat :=
  (List.range 16).map (fun i =>
    let c := i / 4; let r := i % 4
    (List.range 4).foldl (fun acc j => acc ^^^ aesMul (s.getD (4 * c + j) 0) (m.getD ((j + 4 - r) % 4) 0)) 0)

/-- AES-256 encryption of one block. -/
def aesEnc (rk : List (List Nat)) (blk : List Nat) : List Nat :=
  let s0 := xorBytes blk (rk.getD 0 [])
  let s := (List.range 13).foldl (fun s r =>
    xorBytes (mixWith [2, 3, 1, 1] (shiftRows (s.map (subB sbox)))) (rk.getD (r + 1) [])) s0
  xorBytes (shiftRows (s.map (subB sbox))) (rk.getD 14 [])

/-- AES-256 decryption of one block. -/
def aesDec (rk : List (List Nat)) (blk : List Nat) : List Nat :=
  let s0 := (invShiftRows (xorBytes blk (rk.getD 14 []))).map (subB invSbox)
  let s := (List.range 13).foldl (fun s r =>
    (invShiftRows (mixWith [14, 11, 13, 9] (xorBytes s (rk.getD (13 - r) [])))).map (subB invSbox)) s0
  xorBytes s (rk.getD 0 [])

/-- Multiplication by x in XTS's GF(2^128) on a little-endian number (SP 800-38E). -/
def xtsMulX (t : Nat) : Nat := if bit t 127 then ((2 * t) % 2 ^ 128) ^^^ 0x87 else 2 * t

/-- AES-256-XTS over the 128 B of one row: key 64 bytes, data unit sequence number (R250). -/
def xtsRow (decrypt : Bool) (key : List Nat) (seqno : Nat) (row : Nat) : Nat :=
  let k1 := roundKeys (key.take 32)
  let t0 := natOfBytes (aesEnc (roundKeys (key.drop 32)) (bytesOf 16 seqno))
  ((List.range 8).foldl (fun (st : Nat × Nat) i =>
    let tb := bytesOf 16 st.1
    let x := xorBytes (bytesOf 16 (bits row (128 * i) 128)) tb
    let y := xorBytes (if decrypt then aesDec k1 x else aesEnc k1 x) tb
    (xtsMulX st.1, st.2 + natOfBytes y <<< (128 * i))) (t0, 0)).2

/-- Product in GCM's GF(2^128), bit 0 the most significant bit of the block (SP 800-38D). -/
def gcmMul (x y : Nat) : Nat :=
  ((List.range 128).foldl (fun (st : Nat × Nat) i =>
    let z := if bit x (127 - i) then st.1 ^^^ st.2 else st.1
    (z, if bit st.2 0 then (st.2 >>> 1) ^^^ (0xE1 <<< 120) else st.2 >>> 1)) (0, y)).1

/-- GHASH over 16-byte blocks, the last padded with zeros: `fuel` bounds their number. -/
def ghash (h : Nat) : Nat → Nat → List Nat → Nat
  | 0, y, _ => y
  | k + 1, y, bs =>
    if bs = [] then y
    else
      let b := bs.take 16
      ghash h k (gcmMul (y ^^^ natOfBytesBE (b ++ List.replicate (16 - b.length) 0)) h) (bs.drop 16)

/-- The CTR keystream applied from counter block ctr. -/
def gcmCtr (rk : List (List Nat)) (iv : List Nat) : Nat → Nat → List Nat → List Nat
  | 0, _, _ => []
  | k + 1, ctr, bs =>
    if bs = [] then []
    else xorBytes (bs.take 16) (aesEnc rk (iv ++ bytesBE 4 ctr)) ++ gcmCtr rk iv k (ctr + 1) (bs.drop 16)

/-- The GCM tag of ciphertext ct with associated data aad: 16 bytes. -/
def gcmTag (rk : List (List Nat)) (iv aad ct : List Nat) : List Nat :=
  let h := natOfBytesBE (aesEnc rk (List.replicate 16 0))
  let y := ghash h (aad.length / 16 + 1) 0 aad
  let y := ghash h (ct.length / 16 + 1) y ct
  let y := gcmMul (y ^^^ (fv 64 64 (8 * aad.length) + fv 0 64 (8 * ct.length))) h
  xorBytes (bytesBE 16 y) (aesEnc rk (iv ++ bytesBE 4 1))

/-- AES-256-GCM sealing: ciphertext and tag (SP 800-38D; R408, R412). -/
def gcmSeal (key iv aad pt : List Nat) : List Nat × List Nat :=
  let rk := roundKeys key
  let ct := gcmCtr rk iv (pt.length / 16 + 1) 2 pt
  (ct, gcmTag rk iv aad ct)

/-- AES-256-GCM opening: the plaintext, or none where the tag differs. -/
def gcmOpen (key iv aad ct tag : List Nat) : Option (List Nat) :=
  let rk := roundKeys key
  if gcmTag rk iv aad ct = tag then some (gcmCtr rk iv (ct.length / 16 + 1) 2 ct) else none

end Sys2Proof.Machine
end

