-- ==== Sys2Proof/Config.lean ====
section
/-!
DEFINITION. Config.lean: what one implementation fixes and the spec leaves open: free values (opaque constants with no
body, so nothing can be proved of their values) and the public-key algorithms of R12, which the spec takes from
published standards and does not restate (log 8, log 12). Byte strings are natural numbers, first byte least significant
(R543), unless a comment says otherwise.
-/
namespace Sys2Proof.Config

/-- The management die's random source and every other value the spec leaves open: the n-th value drawn (log 8). -/
opaque freeValue : Nat → Nat

/-- Rows of receive space that port p has for READ responses beyond one largest response (R336; log 76). -/
opaque readSpare : Nat → Nat

/-- The key that the ROM's root certifies for tokens (R416): Yonavos Ed25519 and ML-DSA-65 (log 12). -/
opaque yonavosEd : Nat
opaque yonavosMldsa : Nat

/-- The private halves of Yonavos's two root keys, whose public halves' digests the ROM holds (R400, R517), and of the key that issues
device certificates: an Ed25519 private key and an ML-DSA-65 key generation seed (log 12). -/
opaque rootKeys : Nat → Nat × Nat
opaque issuerKeys : Nat × Nat

/-- Which root has certified the issuing key (R400; log 12). -/
opaque certRoot : Bool

/-- What Yonavos put into certificate i of the attic (R400): 0 the device's, 1 the issuing key's: its issue time and the
randomness of its ML-DSA-65 signature (log 12). -/
opaque certTime : Nat → Nat
opaque certRnd : Nat → Nat

/-- The fused unique device secret and serial number (R398, R400; log 4). -/
opaque uds : Nat
opaque deviceId : Nat

/-- A junction temperature of a die outside the tiles, in degrees C, when the n-th record was written (R453; log 8). -/
opaque otherDieTemp : Nat → BitVec 8

/-- The fused V-f table of a tile: the compute-rail setpoint in mV at a frequency code (R437; log 30). -/
opaque vf : Nat → Nat → Nat

/-- V² f Σ w a + L(V, T) of a tile's power estimator, in W, for a setpoint in mV, a frequency code, a temperature and the
activity counts of its cores: the weights and the leakage table are fused (R430; log 30). -/
opaque pwe : Nat → Nat → Nat → Nat → List Nat → Nat

/-- The fused model of a tile's loads outside compute, in W, when the n-th value was drawn (R431; log 30). -/
opaque otherLoad : Nat → Nat → Nat

end Sys2Proof.Config
end

