-- ==== Sys2Proof/Machine/Ops.lean ====
section
/-!
DEFINITION. Machine/Ops.lean: the named operations over registers, memory, cores, error records and RERUN causes that
the meanings are written in.
-/
namespace Sys2Proof.Machine

/- Registers (R9-R11, R36) -/

/-- The register word at BAR0 byte address a. -/
def getR (d : Dev) (a : Nat) : Nat := (d.regs.get a (BitVec.ofNat 32 (regReset a))).toNat

/-- The device writes register word a. -/
def setR (d : Dev) (a v : Nat) : Dev :=
  { d with regs := d.regs.put a (BitVec.ofNat 32 v) (BitVec.ofNat 32 (regReset a)) }

/-- Field f of register a. -/
def getF (d : Dev) (a : Nat) (f : Fld) : Nat := bits (getR d a) f.lo f.w

/-- The device writes field f of register a. -/
def setF (d : Dev) (a : Nat) (f : Fld) (v : Nat) : Dev := setR d a (insBits (getR d a) f.lo f.w v)

/-- A one-bit field as a truth value. -/
def getB (d : Dev) (a : Nat) (f : Fld) : Bool := getF d a f != 0

/-- A one-bit field set to a truth value. -/
def setB (d : Dev) (a : Nat) (f : Fld) (b : Bool) : Dev := setF d a f (b2n b)

/-- n added to a counter field, modulo its width. -/
def addF (d : Dev) (a : Nat) (f : Fld) (n : Nat) : Dev := setF d a f (getF d a f + n)

/-- One added to a counter field. -/
def incF (d : Dev) (a : Nat) (f : Fld) : Dev := addF d a f 1

/-- Two registers as one 64-bit value, low word first. -/
def get64 (d : Dev) (lo hi : Nat) : Nat := getR d lo + getR d hi <<< 32

/-- A 64-bit value into two registers, low word first. -/
def set64 (d : Dev) (lo hi v : Nat) : Dev := setR (setR d lo v) hi (v >>> 32)

/-- n consecutive register words from a, low word first: a descriptor or table entry. -/
def getWords (d : Dev) (a n : Nat) : Nat :=
  (List.range n).foldl (fun acc i => acc + getR d (a + 4 * i) <<< (32 * i)) 0

/-- n consecutive register words from a take v. -/
def setWords (d : Dev) (a n v : Nat) : Dev :=
  (List.range n).foldl (fun d i => setR d (a + 4 * i) (v >>> (32 * i))) d

/-- Bit i of a bit array held in words from a. -/
def getBitAt (d : Dev) (a i : Nat) : Bool := bit (getR d (a + 4 * (i / 32))) (i % 32)

/-- Bit i of a bit array held in words from a takes b. -/
def setBitAt (d : Dev) (a i : Nat) (b : Bool) : Dev :=
  setR d (a + 4 * (i / 32)) (insBits (getR d (a + 4 * (i / 32))) (i % 32) 1 (b2n b))

/-- The next free value (log 8). -/
def fresh (d : Dev) : Nat × Dev := (Config.freeValue d.freshN, { d with freshN := d.freshN + 1 })

/- The module-local address map (R32) -/

/-- What a module-local address names. -/
inductive Region where
  | cellar (stack ofs : Nat)
  | larder (tile ofs : Nat)
  | shelf (core ofs : Nat)
  | ctl (ofs : Nat)
  | mgmt
  | unimpl
  deriving DecidableEq, Repr

def stackSize : Nat := 0x1200000000
def larderBase : Nat := 0x0A0000000000
def larderSize : Nat := 0x18000000
def shelfBase : Nat := 0x0B0000000000
def shelfSize : Nat := 0x80000
def ctlBase : Nat := 0x0C0000000000

/-- The region of a module-local address (R32). -/
def regionOf (a : Nat) : Region :=
  if a < 128 * stackSize then .cellar (a / stackSize) (a % stackSize)
  else if larderBase ≤ a ∧ a < larderBase + 64 * larderSize then .larder ((a - larderBase) / larderSize) ((a - larderBase) % larderSize)
  else if shelfBase ≤ a ∧ a < shelfBase + 320 * shelfSize then .shelf ((a - shelfBase) / shelfSize) ((a - shelfBase) % shelfSize)
  else if ctlBase ≤ a ∧ a < ctlBase + 1024 * 0x10000 then .ctl (a - ctlBase)
  else if 0x0F0000000000 ≤ a ∧ a < 0x100000000000 then .mgmt
  else .unimpl

/-- Module-local address of a shelf row (R137). -/
def shelfRowAddr (c bank row : Nat) : Nat := shelfBase + c * shelfSize + (row * 128 + bank) * 128

/-- Module-local address of byte ofs of stack n. -/
def cellarAddr (n ofs : Nat) : Nat := n * stackSize + ofs

/-- Module-local address of byte ofs of tile t's larder. -/
def larderAddr (t ofs : Nat) : Nat := larderBase + t * larderSize + ofs

/- Memory: one canonical list of bytes, an unlisted byte reading 0 (log 3) -/

/-- n bytes of a byte table from a, as one little-endian number (R543). -/
def bytesAt (m : Tbl Byte) (a n : Nat) : Nat :=
  (m.filter (fun c => decide (a ≤ c.1) && decide (c.1 < a + n))).foldl
    (fun acc c => acc + c.2.toNat <<< (8 * (c.1 - a))) 0

/-- The cells of n bytes of v from a, zero bytes left out. -/
def byteCells (a n v : Nat) : Tbl Byte :=
  ((List.range n).map (fun i => (a + i, BitVec.ofNat 8 (v >>> (8 * i))))).filter (fun c => decide (c.2 ≠ 0))

/-- A byte table with n bytes of v at a (R543). -/
def putBytes (m : Tbl Byte) (a n v : Nat) : Tbl Byte :=
  m.filter (fun c => decide (c.1 < a)) ++ (byteCells a n v ++ m.filter (fun c => decide (a + n ≤ c.1)))

/-- The canonical form of a memory: addresses strictly rising and no zero byte listed. -/
abbrev memWf (m : List Host.Cell) : Prop := Tbl.ok (fun _ => (0 : Byte)) 0 m = true

/-- One byte of memory. -/
def readByte (d : Dev) (a : Nat) : Byte := Tbl.get d.mem a 0

/-- n bytes of memory from a. -/
def readMem (d : Dev) (a n : Nat) : Nat := bytesAt d.mem a n

/-- n bytes of memory at a take v. -/
def writeMem (d : Dev) (a n v : Nat) : Dev := { d with mem := putBytes d.mem a n v }

/-- The side data of the row holding address a. -/
def rowMetaAt (d : Dev) (a : Nat) : RowMeta := d.rowMeta.get (a / 128) {}

/-- The side data of the row holding address a takes m. -/
def setMeta (d : Dev) (a : Nat) (m : RowMeta) : Dev := { d with rowMeta := d.rowMeta.put (a / 128) m {} }

/-- The data of the 128 B row at a. -/
def rowData (d : Dev) (a : Nat) : Row := BitVec.ofNat 1024 (readMem d a 128)

/-- Ticks emitted since cold reset: in a sentence, the number of the tick that opened it (R50). -/
def ticks (d : Dev) : Nat := get64 d TG_TICK_LO TG_TICK_HI

/-- A row written whole: data, poison, header side field, with fresh parity (R163) and the sentence of the write (R68). -/
def putRow (d : Dev) (a : Nat) (v : Row) (poison : Bool) (hdr : BitVec 64) : Dev :=
  setMeta (writeMem d a 128 v.toNat) a { (rowMetaAt d a) with poison := poison, parErr := 0, hdr := hdr, born := ticks d + 1 }

/-- A row poisoned where it stands (R57). -/
def poisonRow (d : Dev) (a : Nat) : Dev := setMeta d a { (rowMetaAt d a) with poison := true }

/-- A span of n rows from a wiped: zero data, headers, poison and parity (R145). -/
def wipeRows (d : Dev) (a n : Nat) : Dev :=
  { d with mem := Tbl.cut d.mem a (a + 128 * n), rowMeta := d.rowMeta.cut (a / 128) (a / 128 + n) }

/- Cores, tiles and slots (R8, R18-R22) -/

/-- Core c's state. -/
def core (d : Dev) (c : Nat) : CoreSt := d.cores.get c {}

/-- Core c's state becomes x. -/
def setCore (d : Dev) (c : Nat) (x : CoreSt) : Dev := { d with cores := d.cores.put c x {} }

/-- Core c's state changed by f. -/
def modCore (d : Dev) (c : Nat) (f : CoreSt → CoreSt) : Dev := setCore d c (f (core d c))

/-- Channel n of core c. -/
def chan (d : Dev) (c n : Nat) : Chan := (core d c).chans.get n {}

/-- Channel n of core c becomes x. -/
def setChan (d : Dev) (c n : Nat) (x : Chan) : Dev := modCore d c (fun k => { k with chans := k.chans.put n x {} })

/-- The physical core number serving slot q of tile t, 7 for none (R22). -/
def slotCoreNo (d : Dev) (t q : Nat) : Nat := bits (getR d (TILE_CORE_MAP t)) (4 * q) 3

/-- The global number of the core serving slot q of tile t (R8, R22). -/
def slotCore (d : Dev) (t q : Nat) : Option Nat :=
  let k := slotCoreNo d t q
  if k < 5 then some (5 * t + k) else none

/-- The slot a core serves, if any (R22). -/
def coreSlot (d : Dev) (c : Nat) : Option Nat := (List.range 4).find? (fun q => slotCoreNo d (c / 5) q == c % 5)

/-- The core is neither absent nor retired, and its base die is not lost (R20, R544). -/
def coreThere (d : Dev) (c : Nat) : Bool :=
  decide (c < 320) && bit (getF d (TILE_FUSE (c / 5)) TILE_FUSE_CORE_PASS) (c % 5) &&
    !bit (getF d (TILE_STATE (c / 5)) TILE_STATE_RETIRED) (c % 5) && !getB d (TILE_STATE (c / 5)) TILE_STATE_BASE_LOST

/-- The tile's bit in MOD_TILE_LOST (R36). -/
def tileLost (d : Dev) (t : Nat) : Bool := getBitAt d MOD_TILE_LOST_0 t

/-- The tile's base die is lost (R544). -/
def baseLost (d : Dev) (t : Nat) : Bool := getB d (TILE_STATE t) TILE_STATE_BASE_LOST

/-- Every global core number that serves a slot, ascending by tile and slot. -/
def allSlotCores (d : Dev) : List Nat := (List.range 64).flatMap (fun t => (List.range 4).filterMap (slotCore d t))

/- Error records (R452, R453) and RERUN causes (R287, R288) -/

/-- The scope of a RERUN cause (R287, R288). -/
inductive Scope where
  | none | step | update
  deriving DecidableEq, Repr

/-- What an event puts into its record; the rest is the module's state at the event (R453). -/
structure Ev where
  cls : Nat
  kind : Nat
  unit : Nat
  sub : Nat := 0
  ctx : Nat := 0
  filler : Bool := false
  other : Option Nat := none
  oper : Nat := 0
  addr : Nat := 0
  scope : Scope := .none
  deriving DecidableEq, Repr

/-- The step number n (R95). -/
def stepNo (d : Dev) : Nat := get64 d STEP_COUNT_LO STEP_COUNT_HI

/-- The tile that holds a unit of the kinds core, tile and Cellar controller (R453). -/
def unitTile (kind unit : Nat) : Option Nat :=
  if kind = 1 then some (unit / 5 % 64) else if kind = 2 then some (unit % 64) else if kind = 3 then some (unit / 2 % 64) else none

/-- Junction temperature of the die holding a unit: the hotter sensor of the compute die for a core, the hottest of the
base die's for a tile or a controller, a free value for a die outside the tiles (R453; log 8). -/
def unitTemp (d : Dev) (kind unit : Nat) : Nat :=
  match unitTile kind unit with
  | some t =>
    if kind = 1 then max (getF d (TILE_TEMP_1 t) TILE_TEMP_1_COMP0) (getF d (TILE_TEMP_1 t) TILE_TEMP_1_COMP1)
    else max (max (getF d (TILE_TEMP_0 t) TILE_TEMP_0_BASE0) (getF d (TILE_TEMP_0 t) TILE_TEMP_0_BASE1))
      (max (getF d (TILE_TEMP_0 t) TILE_TEMP_0_BASE2) (getF d (TILE_TEMP_0 t) TILE_TEMP_0_BASE3))
  | none => (Config.otherDieTemp d.freshN).toNat

/-- Setpoint in mV of a unit's rail (R422): compute for a core, larder for a tile or a controller (log 13). -/
def unitRail (d : Dev) (kind unit : Nat) : Nat :=
  if kind = 1 then getF d (IVR_RAIL (unit / 5 % 64)) IVR_RAIL_VCOMP_MV
  else if kind = 2 ∨ kind = 3 then 800 else if kind = 8 then 1800 else 0

/-- Fault injection is active on the reporting unit (R453, R362). -/
def injectOn (d : Dev) (kind unit : Nat) : Bool :=
  if kind = 4 then getF d (GP_INJ_CTL (unit % 16) (unit / 16 % 2)) GP_INJ_CTL_MODE != 0
  else if kind = 2 then getF d (MSH_INJ_CTL (unit % 64)) MSH_INJ_CTL_MODE != 0
  else false

/-- The record of an event, before the management core assigns LASTING, PERSIST, COUNT, SEQ and CRC (R453). -/
def recordOf (d : Dev) (e : Ev) (rerun : Bool) : BitVec 512 :=
  BitVec.ofNat 512
    (fv 0 8 1 + fv 8 8 e.cls + fv 16 8 e.kind + fv 24 1 (b2n e.filler) + fv 25 1 (b2n rerun) +
      fv 28 1 (b2n e.other.isSome) + fv 29 1 (b2n (injectOn d e.kind e.unit)) + fv 32 16 e.unit + fv 48 16 e.sub +
      fv 64 14 e.ctx + fv 80 16 (e.other.getD 0) + fv 96 32 e.oper +
      fv 128 64 (if e.kind = 1 ∧ e.addr ≠ 0 then e.addr + fv 48 16 (getF d MOD_ID MOD_ID_MODULE_NUMBER) else e.addr) +
      fv 192 64 (get64 d TG_TICK_LO TG_TICK_HI - b2n d.tickOut) + fv 256 32 (d.now - d.originAt) + fv 288 32 (stepNo d) +
      fv 320 8 (unitTemp d e.kind e.unit) +
      fv 328 7 (if (unitTile e.kind e.unit).isSome then getF d FREQ_STATUS FREQ_STATUS_F_JOB else 0) +
      fv 336 16 (unitRail d e.kind e.unit) + fv 352 14 (getF d PWR_IN_V PWR_IN_V_V))

/-- A RERUN cause of the step in progress (R287, R288); outside a step there is no verdict to turn. -/
def raiseRerun (d : Dev) (s : Scope) : Dev :=
  match s with
  | .none => d
  | .step => { d with rerunStep := d.rerunStep || d.inStep }
  | .update => { d with rerunUpd := d.rerunUpd || d.inStep }

/-- An event writes its record and raises its RERUN cause: one record per unit and class in a sentence (R452); an event
of a filler raises no cause (R136, R470). -/
def report (d : Dev) (e : Ev) : Dev :=
  let rerun := e.scope != .none && !e.filler && d.inStep
  let d1 := if d.recSeen.contains (e.kind, e.unit, e.cls) then d
    else { d with recFlight := d.recFlight ++ [recordOf d e rerun], recSeen := (e.kind, e.unit, e.cls) :: d.recSeen,
                  freshN := d.freshN + 1 }
  if e.filler then d1 else raiseRerun d1 e.scope

/-- A fault event of core c: its fault bit, for the foreground only (R136, R200, R234), and its record. -/
def coreFault (d : Dev) (c : Nat) (a : Nat) (f : Fld) (e : Ev) : Dev :=
  report (if e.filler then d else setB d a f true) { e with kind := 1, unit := c }

/-- Field f of context n's descriptor word array (R391). -/
def ctxBits (d : Dev) (n lo w : Nat) : Nat := bits (getWords d (CTX_DESC n 0) 16) lo w

/-- The context a core's half belongs to: its resident foreground or filler (R39). -/
def residentOf (d : Dev) (c : Nat) (fill : Bool) : Option Nat :=
  if fill then (core d c).resFill else (core d c).resFg

/-- No protected context is resident, so injection may act (R363). -/
def injAllowed (d : Dev) : Bool := !((d.res.fg.toList ++ d.res.fillers).any (fun c => ctxBits d c 1 1 == 1))

/-- The module's own number (R35). -/
def myMod (d : Dev) : Nat := getF d MOD_ID MOD_ID_MODULE_NUMBER

end Sys2Proof.Machine
end

