-- ==== Sys2Proof/Machine/Cellar.lean ====
section
/-!
DEFINITION. Machine/Cellar.lean: the cellar controllers (08, R235-R257), the chunk maps (R270-R272) and module-local rows
as the streams, engines and bulk agents reach them.
-/
namespace Sys2Proof.Machine

/-- Who asks a controller for a row (R251): its key tag, whether it is the Update Engine over agent 62 or the management
core, and the context it runs for. -/
structure Src where
  tag : Nat := 0
  ue : Bool := false
  mgmt : Bool := false
  ctx : Nat := 0
  fill : Bool := false
  deriving DecidableEq, Repr

def chunkSize : Nat := 0x400000

/-- Key tag of chunk c of stack n (R251). -/
def chunkTag (d : Dev) (n c : Nat) : Nat := bits (getR d (CC_TAG (n / 2) (n % 2) (c / 4))) (8 * (c % 4)) 8

/-- Chunk c of stack n takes a key tag. -/
def setChunkTag (d : Dev) (n c tag : Nat) : Dev :=
  let a := CC_TAG (n / 2) (n % 2) (c / 4)
  setR d a (insBits (getR d a) (8 * (c % 4)) 8 tag)

/-- Chunk-map entry of chunk c of stack n (R270). -/
def mapEntry (d : Dev) (n c : Nat) : Nat := (d.cmap.get (n * 18432 + c) 0).toNat

def setMapEntry (d : Dev) (n c v : Nat) : Dev :=
  { d with cmap := d.cmap.put (n * 18432 + c) (BitVec.ofNat 128 v) 0 }

def meLive (e : Nat) : Nat := bits e 0 15
def meLoft (e : Nat) : Nat := bits e 15 15
def meKind (e : Nat) : Nat := bits e 30 2
def meEpoch (e : Nat) : Nat := bits e 64 64

/-- A mapped entry's 128 bits (R270). -/
def mkMapEntry (live loft kind epoch : Nat) : Nat := fv 0 15 live + fv 15 15 loft + fv 30 2 kind + fv 64 64 epoch

/-- The committed-step epoch (R276). -/
def epoch (d : Dev) : Nat := get64 d STEP_EPOCH_LO STEP_EPOCH_HI

/-- Stack n is lost (R245). -/
def stackLost (d : Dev) (n : Nat) : Bool := getB d (CC_STATUS (n / 2) (n % 2)) CC_STATUS_STACK_LOST

/-- The physical chunk a read of a mapped entry reaches (R271). -/
def readChunk (d : Dev) (e : Nat) : Nat := if meEpoch e ≤ epoch d then meLoft e else meLive e

/-- The physical chunk an access to byte ofs of stack n reaches, or none where it is refused (R237, R251, R271). -/
def ccChunk (d : Dev) (n ofs : Nat) (src : Src) (write : Bool) : Option Nat :=
  let c := ofs / chunkSize
  let e := mapEntry d n c
  if ofs % 128 ≠ 0 then none
  else if !src.mgmt && src.tag % 256 != chunkTag d n c then none
  else match meKind e with
    | 0 => some c
    | 1 => if write && !src.ue && !src.mgmt then none else some (readChunk d e)
    | _ => none

/-- Rows of a tagged chunk pass through AES-256-XTS under the tag's key; the data unit number is the row's module-local
address divided by 128 (R250). -/
def ccCrypt (d : Dev) (decrypt : Bool) (tag addr v : Nat) : Nat :=
  if tag = 0 then v else xtsRow decrypt (bytesOf 64 ((d.keyTable.get tag 0).toNat)) (addr / 128) v

/-- A row stored at its physical address with its check bits (R240, R242). -/
def ccPut (d : Dev) (phys v : Nat) (poison : Bool) : Dev :=
  setMeta (writeMem d phys 128 v) phys { (rowMetaAt d phys) with chk := BitVec.ofNat 128 (rowCheck v poison) }

/-- A write accepted: it cancels every pending writeback of its row (R244). -/
def ccStore (d : Dev) (phys v : Nat) (poison : Bool) : Dev :=
  let d1 := ccPut d phys v poison
  { d1 with writebacks := d1.writebacks.filter (fun w => w.addr != phys) }

def ccEv (n ofs cls : Nat) (src : Src) (s : Scope) (oper : Nat) : Ev :=
  { cls := cls, kind := 3, unit := n, sub := bits ofs 7 6, ctx := src.ctx, filler := src.fill, oper := oper,
    addr := cellarAddr n ofs, scope := s }

/-- Bits that have flipped in a stored row since its last access: err holds the data's in [1023:0] and the check bits'
in [1151:1024]. -/
def upsetRow (d : Dev) (phys err : Nat) : Dev :=
  if err = 0 then d
  else
    let d1 := writeMem d phys 128 ((readMem d phys 128) ^^^ (err % 2 ^ 1024))
    setMeta d1 phys { (rowMetaAt d phys) with chk := BitVec.ofNat 128 ((rowMetaAt d phys).chk.toNat ^^^ bits err 1024 128) }

/-- The classes of a stored row's four codewords (R241). -/
def rowClasses (v chk : Nat) : List CwClass :=
  (List.range 4).map (fun j => classifySyndrome (eccSyndrome (bits v (256 * j) 256) (bits chk (32 * j) 32)))

/-- The corrected data of a row, codeword by codeword. -/
def correctRow (v : Nat) (cls : List CwClass) : Nat :=
  ((cls.zip (List.range 4)).foldl (fun acc c => acc + correctCw (bits v (256 * c.2) 256) c.1 <<< (256 * c.2)) 0)

def isUncorr : CwClass → Bool
  | .uncorrectable => true
  | _ => false

/-- The symbol a class names, if it is a correction. -/
def symOf : CwClass → Option Nat
  | .checkSym s => some s
  | .dataSym k _ => some k
  | _ => none

/-- One row read from stack n at byte ofs within the stack and handled by its worst class (R243): the stored bits as
delivered, before decryption, and the poison bit. -/
def ccFetch (d : Dev) (n phys : Nat) (src : Src) (scrub : Bool) : (Nat × Bool) × Dev :=
  let t := n / 2; let s := n % 2
  let ofs := phys % stackSize
  let v := readMem d phys 128
  let chk := (rowMetaAt d phys).chk.toNat
  let cls := rowClasses v chk
  if cls.any isUncorr then
    let j := (cls.findIdx isUncorr)
    let d := setF d (CC_UE_CNT t s) CC_UE_CNT_COUNT (satInc 16 (getF d (CC_UE_CNT t s) CC_UE_CNT_COUNT))
    let d := setR (setR d (CC_ERR_ADDR_LO t s) ofs) (CC_ERR_ADDR_HI t s) (fv 0 5 (ofs >>> 32) + fv 5 1 (b2n scrub))
    let d := setR d (CC_ERR_SYN t s) (eccSyndrome (bits v (256 * j) 256) (bits chk (32 * j) 32))
    let d := { d with writebacks := d.writebacks ++ [WriteBack.mk phys (BitVec.ofNat 1024 v) true] }
    ((v, true), report d (ccEv n ofs 0x11 src .none (fv 7 2 j)))
  else if cls.contains .poison then
    ((v, true), setR d (CC_POISON_RD t s) (satInc 32 (getR d (CC_POISON_RD t s))))
  else
    match (cls.zip (List.range 4)).filter (fun c => (symOf c.1).isSome) with
    | [] => ((v, false), d)
    | c :: cs =>
      let last := (c :: cs).getLast (by simp)
      let sym := (symOf last.1).getD 0
      let pc := bits ofs 7 6
      let fixed := correctRow v cls
      let d := setR d (CC_CE_CNT t s) (satInc 32 (getR d (CC_CE_CNT t s)))
      let d := setR d (CC_CE_LAST t s) (fv 0 6 pc + fv 6 7 sym + fv 13 2 last.2)
      let d := { d with writebacks := d.writebacks ++ [WriteBack.mk phys (BitVec.ofNat 1024 fixed) false] }
      -- at most one record per pseudo-channel per second: 2 x 10^9 router cycles
      let due : Bool := match d.ceTime.find (n * 64 + pc) with
        | some tm => decide (tm + 2000000000 ≤ d.now + 1)
        | none => true
      let d := if due then report { d with ceTime := d.ceTime.put (n * 64 + pc) (d.now + 1) 0 }
          (ccEv n ofs 0x10 src .none (fv 0 7 sym + fv 7 2 last.2)) else d
      ((fixed, false), d)

/-- An access to a lost stack (R245): its record and RERUN. -/
def ccLostAccess (d : Dev) (n ofs : Nat) (src : Src) : Dev := report d (ccEv n ofs 0x11 src .step 0)

/-- A row read of byte ofs of stack n by a source: none where the controller refuses it, else the row delivered
(R237, R243, R245, R250, R251, R271). A poisoned row of the readable copy of a mapped chunk, or of a chunk a weight
manifest names, is committed poison (R462). -/
def ccRead (d : Dev) (n ofs : Nat) (src : Src) : Option FRow × Dev :=
  match ccChunk d n ofs src false with
  | none => (none, d)
  | some pc =>
    if stackLost d n then (some { poison := true }, ccLostAccess d n ofs src)
    else
      let phys := cellarAddr n (pc * chunkSize + ofs % chunkSize)
      let r := ccFetch d n phys src false
      let c := ofs / chunkSize
      let committed := r.1.2 && (meKind (mapEntry d n c) == 1 || d.manifestChunks.contains (n * 18432 + c))
      let d1 := if committed then
          let d2 := report r.2 (ccEv n ofs 0x13 src .step 0)
          if d2.committedPoison.contains (n * 18432 + c) then d2
          else { d2 with committedPoison := d2.committedPoison ++ [n * 18432 + c] }
        else r.2
      (some { data := BitVec.ofNat 1024 (ccCrypt d true (chunkTag d n c) (cellarAddr n ofs) r.1.1), poison := r.1.2 }, d1)

/-- The chunk-map entry after an Update Engine write to a mapped chunk (R272). -/
def loftSwap (d : Dev) (n c : Nat) : Dev :=
  let e := mapEntry d n c
  if meEpoch e ≤ epoch d then setMapEntry d n c (mkMapEntry (meLoft e) (meLive e) 1 (epoch d + 1)) else d

/-- A row written at byte ofs of stack n by a source: false where the controller refuses it (R237, R240, R242, R245,
R250, R251, R271, R272). -/
def ccWrite (d : Dev) (n ofs : Nat) (row : FRow) (src : Src) : Bool × Dev :=
  match ccChunk d n ofs src true with
  | none => (false, d)
  | some pc =>
    if stackLost d n then (true, ccLostAccess d n ofs src)
    else
      let c := ofs / chunkSize
      let mapped := meKind (mapEntry d n c) == 1
      let d1 := if mapped && src.ue then loftSwap d n c else d
      let tgt := if mapped && src.ue then meLoft (mapEntry d1 n c) else pc
      let v := ccCrypt d false (chunkTag d n c) (cellarAddr n ofs) row.data.toNat
      (true, ccStore d1 (cellarAddr n (tgt * chunkSize + ofs % chunkSize)) v row.poison)

/-- A 128 B row of the Cellar or a larder as a stream, engine or bulk agent reads it; none where no such memory answers, the
larder of a lost base die among them (R17, R32, R33). -/
def unitRead (d : Dev) (a : Nat) (src : Src) : Option FRow × Dev :=
  match regionOf a with
  | .cellar n ofs => ccRead d n ofs src
  | .larder t ofs =>
    if ofs % 128 = 0 ∧ !baseLost d t then (some { data := rowData d a, poison := (rowMetaAt d a).poison }, d) else (none, d)
  | _ => (none, d)

/-- A 128 B row of the Cellar or a larder written; false where no such memory answers. -/
def unitWrite (d : Dev) (a : Nat) (row : FRow) (src : Src) : Bool × Dev :=
  match regionOf a with
  | .cellar n ofs => ccWrite d n ofs row src
  | .larder t ofs => if ofs % 128 = 0 ∧ !baseLost d t then (true, putRow d a row.data row.poison 0) else (false, d)
  | _ => (false, d)

/-- The mesh unit that holds an address: larder t is t, the controller of stack n is 64 + n (R176). -/
def unitOf (a : Nat) : Option Nat :=
  match regionOf a with
  | .cellar n _ => some (64 + n)
  | .larder t _ => some t
  | _ => none

/-- The tile a mesh unit stands in. -/
def unitTileNo (u : Nat) : Nat := if u < 64 then u else (u - 64) / 2

/-- Every row of a stack wiped: data 0 under tag 0, poison clear (R248). -/
def wipeStack (d : Dev) (n : Nat) : Dev :=
  let d1 := wipeRows d (cellarAddr n 0) (stackSize / 128)
  let d2 := { d1 with regs := d1.regs.cut (CC_TAG (n / 2) (n % 2) 0) (CC_TAG (n / 2) (n % 2) 4608),
                      writebacks := d1.writebacks.filter (fun w => decide (w.addr / stackSize ≠ n)) }
  setB d2 (CC_STATUS (n / 2) (n % 2)) CC_STATUS_WIPED true

/-- A chunk given a new tag and written with data 0 under it (R252); the writes cancel its pending writebacks (R244), and on a lost
stack are dropped (R245). -/
def retagChunk (d : Dev) (n c tag : Nat) : Dev :=
  let d1 := setChunkTag d n c tag
  let base := cellarAddr n (c * chunkSize)
  if stackLost d n then (List.range (chunkSize / 128)).foldl (fun d i => ccLostAccess d n (c * chunkSize + 128 * i) { mgmt := true }) d1
  else if tag = 0 then
    let d2 := wipeRows d1 base (chunkSize / 128)
    { d2 with writebacks := d2.writebacks.filter (fun w => !(decide (base ≤ w.addr) && decide (w.addr < base + chunkSize))) }
  else (List.range (chunkSize / 128)).foldl (fun d i => ccStore d (base + 128 * i) (ccCrypt d false tag (base + 128 * i) 0) false) d1

/- The controllers' own steps -/

/-- CELLAR_READ (R243): the controller of stack n reads the row at byte ofs for a request carrying a key tag, err being
the bits that have flipped in the stored row; the row delivered stands in ccLast. -/
def cellarRead (n ofs tag err : Nat) (d : Dev) : Dev :=
  if 128 ≤ n ∨ stackSize ≤ ofs then d
  else
    let src : Src := { tag := tag }
    let d0 := match ccChunk d n ofs src false with
      | some pc => upsetRow d (cellarAddr n (pc * chunkSize + ofs % chunkSize)) err
      | none => d
    let r := ccRead d0 n ofs src
    match r.1 with
    | some row => { r.2 with ccLast := r.2.ccLast.put n row {} }
    | none => r.2

/-- CELLAR_WRITE (R242): the controller of stack n writes a row at byte ofs for a request carrying a key tag, from the
Update Engine's side port where ue is set. -/
def cellarWrite (n ofs tag : Nat) (ue : Bool) (row : FRow) (d : Dev) : Dev :=
  if 128 ≤ n ∨ stackSize ≤ ofs then d else (ccWrite d n ofs row { tag := tag, ue := ue }).2

/-- CELLAR_WRITEBACK (R244): the oldest pending writeback of stack n is made. -/
def cellarWriteback (n : Nat) (d : Dev) : Dev :=
  match d.writebacks.find? (fun w => decide (w.addr / stackSize = n)) with
  | some w => ccPut { d with writebacks := d.writebacks.erase w } w.addr w.data.toNat w.poison
  | none => d

/-- REFRESH (R246): refresh keeps the stack's rows; its rate is CC_STATUS.HOT, which the temperature readout sets. -/
def refresh (n : Nat) (d : Dev) : Dev :=
  if 128 ≤ n then d
  else setB d (CC_STATUS (n / 2) (n % 2)) CC_STATUS_HOT (decide (85 < getF d (CC_TEMP (n / 2) (n % 2)) CC_TEMP_TEMP_C))

/-- SCRUB_READ (R247): the next row of the stack, read without decryption, err being the bits that have flipped in it. -/
def scrubRead (n err : Nat) (d : Dev) : Dev :=
  let t := n / 2; let s := n % 2
  if 128 ≤ n ∨ !getB d (CC_SCRUB_CTL t s) CC_SCRUB_CTL_EN ∨ getB d (CC_STATUS t s) CC_STATUS_SELF_REFRESH ∨ stackLost d n then d
  else
    let row := getF d (CC_SCRUB_POS t s) CC_SCRUB_POS_ROW
    let phys := cellarAddr n (row * 128)
    let d1 := (ccFetch (upsetRow d phys err) n phys {} true).2
    if (row + 1) * 128 < stackSize then setR d1 (CC_SCRUB_POS t s) (row + 1)
    else addF (setR d1 (CC_SCRUB_POS t s) 0) (CC_SCRUB_PASS t s) CC_SCRUB_PASS_PASSES 1

end Sys2Proof.Machine
end

