-- ==== Sys2Proof/Machine/ExecCellar.lean ====
section
/-!
DEFINITION. Machine/ExecCellar.lean: the Cellar controllers (R236-R257). One meaning for each command, over the operations of its chapter.
-/
namespace Sys2Proof.Machine

/-- CELLAR_READ (R243): A controller reads a row, classifies its codewords, corrects or poisons, and schedules any writeback. -/
def execCellarRead (n ofs tag err : Nat) (s : State) : Answer := act s (cellarRead n ofs tag err)

/-- CELLAR_WRITE (R242): A controller writes a row with check symbols, applying key tag and chunk-map checks. -/
def execCellarWrite (n ofs tag : Nat) (ue : Bool) (row : FRow) (s : State) : Answer := act s (cellarWrite n ofs tag ue row)

/-- CELLAR_WRITEBACK (R244): A pending corrected or poisoned writeback is made unless a later write cancelled it. -/
def execCellarWriteback (n : Nat) (s : State) : Answer := act s (cellarWriteback n)

/-- REFRESH (R246): A controller refreshes its stack at the base or doubled rate. -/
def execRefresh (n : Nat) (s : State) : Answer := act s (refresh n)

/-- SCRUB_READ (R247): Patrol scrub reads the next row in a free slot and handles it as a read. -/
def execScrubRead (n err : Nat) (s : State) : Answer := act s (scrubRead n err)

end Sys2Proof.Machine
end

