-- ==== Sys2Proof/Machine/Sdx.lean ====
section
/-!
DEFINITION. Machine/Sdx.lean: the SDX number formats, their rounding, comparison and block scaling (03, R75-R100).

A finite value is held exactly as (sign, m, e) for m x 2^e, computed on exactly, and rounded once at the end.
-/
namespace Sys2Proof.Machine

/-- A value of any format: NaN, a signed infinity, or (-1)^neg x m x 2^e exactly (R76, R77). -/
inductive Num where
  | nan
  | inf (neg : Bool)
  | fin (neg : Bool) (m : Nat) (e : Int)
  deriving DecidableEq, Repr

/-- A binary format: exponent width, fraction width, bias, and whether the all-ones exponent is non-finite (R75, R77). -/
structure Fmt where
  ew : Nat
  fw : Nat
  bias : Nat
  nf : Bool
  deriving DecidableEq, Repr

def fSdx32 : Fmt := ⟨9, 22, 255, true⟩
def fSdx16 : Fmt := ⟨6, 9, 31, true⟩
def fSdx8W : Fmt := ⟨3, 4, 3, false⟩
def fSdx8G : Fmt := ⟨4, 3, 7, false⟩
/-- The 48-bit long sum (R90). -/
def fLong : Fmt := ⟨9, 38, 255, true⟩

/-- Whether F is SDX8G, whose code 0x80 is NaN (R78). -/
def Fmt.isG (F : Fmt) : Bool := F.fw == 3

/-- Bits of a code without its sign. -/
def Fmt.mag (F : Fmt) : Nat := F.ew + F.fw

/-- The canonical NaN of a format (R77, R78). -/
def canonNaN (F : Fmt) : Nat :=
  if F.nf then ((2 ^ F.ew - 1) <<< F.fw) + 2 ^ (F.fw - 1) else 0x80

/-- The value of a code (R76-R78). -/
def decodeNum (F : Fmt) (c : Nat) : Num :=
  let s := bit c F.mag
  let e := bits c F.fw F.ew
  let f := bits c 0 F.fw
  if F.isG && c % 256 == 0x80 then .nan
  else if F.nf && e == 2 ^ F.ew - 1 then (if f = 0 then .inf s else .nan)
  else if e = 0 then .fin s f (1 - (F.bias : Int) - F.fw)
  else .fin s (2 ^ F.fw + f) ((e : Int) - F.bias - F.fw)

/-- Round-to-nearest-even (R85) or stochastic rounding with a 16-bit draw (R92). -/
inductive Rnd where
  | rne
  | sr (draw : Nat)
  deriving DecidableEq, Repr

/-- m / 2^k rounded to an integer. -/
def roundShift (r : Rnd) (m k : Nat) : Nat :=
  let lo := m >>> k
  match r with
  | .rne =>
    let rem := m % 2 ^ k
    if 2 * rem > 2 ^ k ∨ (2 * rem = 2 ^ k ∧ k ≠ 0 ∧ lo % 2 = 1) then lo + 1 else lo
  | .sr d =>
    let t := if 16 ≤ k then (m >>> (k - 16)) % 2 ^ 16 else (m <<< (16 - k)) % 2 ^ 16
    if t + d % 2 ^ 16 ≥ 2 ^ 16 then lo + 1 else lo

/-- m x 2^e on the grid of a format with fw fraction bits and smallest normal exponent emin, with no upper limit:
(q, lsb) for q x 2^lsb. -/
def roundGrid (r : Rnd) (fw : Nat) (emin : Int) (m : Nat) (e : Int) : Nat × Int :=
  let lsb := max (e + (Nat.log2 m : Int)) emin - fw
  if lsb ≤ e then (m <<< (e - lsb).toNat, lsb) else (roundShift r m (lsb - e).toNat, lsb)

/-- The code of a value in format F (R77, R84, R85, R92): overflow gives infinity in SDX32, SDX16 and the long sum and
the largest finite value in the SDX8 formats; SDX8G has no -0. -/
def encodeNum (F : Fmt) (r : Rnd) (x : Num) : Nat :=
  let top := 2 ^ F.ew - 1
  match x with
  | .nan => if F.nf || F.isG then canonNaN F else 0
  | .inf s =>
    if F.nf then (b2n s <<< F.mag) + (top <<< F.fw) else if F.isG then 0x80 else 0
  | .fin s m e =>
    let ql := roundGrid r F.fw (1 - (F.bias : Int)) m e
    let mag := if m = 0 then 0 else (((ql.2 + F.fw + F.bias).toNat) <<< F.fw) + ql.1 - 2 ^ F.fw
    let mag := if F.nf then min mag (top <<< F.fw) else min mag 0x7F
    if mag = 0 && F.isG then 0 else (b2n s <<< F.mag) + mag

def isNaN : Num → Bool
  | .nan => true
  | _ => false

def isInf : Num → Bool
  | .inf _ => true
  | _ => false

/-- Whether a value is NaN or an infinity. -/
def isNF (x : Num) : Bool := isNaN x || isInf x

def isZero : Num → Bool
  | .fin _ 0 _ => true
  | _ => false

/-- The sign bit of a value; NaN's is 0 (R77). -/
def signOf : Num → Bool
  | .nan => false
  | .inf s => s
  | .fin s _ _ => s

def negNum : Num → Num
  | .nan => .nan
  | .inf s => .inf (!s)
  | .fin s m e => .fin (!s) m e

def absNum : Num → Num
  | .nan => .nan
  | .inf _ => .inf false
  | .fin _ m e => .fin false m e

def zeroNum : Num := .fin false 0 0
def oneNum : Num := .fin false 1 0
/-- An integer as a value. -/
def intNum (i : Int) : Num := .fin (decide (i < 0)) i.natAbs 0

/-- (-1)^s m as an integer. -/
def sInt (s : Bool) (m : Nat) : Int := if s then -(m : Int) else m

/-- The two significands brought to the smaller exponent. -/
def alignNum (m1 : Nat) (e1 : Int) (m2 : Nat) (e2 : Int) : Nat × Nat × Int :=
  if e1 ≤ e2 then (m1, m2 <<< (e2 - e1).toNat, e1) else (m1 <<< (e1 - e2).toNat, m2, e2)

/-- Exact sum (R86). -/
def addNum (a b : Num) : Num :=
  match a, b with
  | .nan, _ => .nan
  | _, .nan => .nan
  | .inf s, .inf t => if s = t then .inf s else .nan
  | .inf s, _ => .inf s
  | _, .inf t => .inf t
  | .fin s m e, .fin t n f =>
    if m = 0 ∧ n = 0 then .fin (s && t) 0 0
    else if m = 0 then .fin t n f
    else if n = 0 then .fin s m e
    else
      let al := alignNum m e n f
      let v := sInt s al.1 + sInt t al.2.1
      .fin (decide (v < 0)) v.natAbs al.2.2

/-- Exact difference: the sum with the second operand's sign turned (R86). -/
def subNum (a b : Num) : Num := addNum a (negNum b)

/-- Exact product (R86). -/
def mulNum (a b : Num) : Num :=
  match a, b with
  | .nan, _ => .nan
  | _, .nan => .nan
  | .inf s, .inf t => .inf (s != t)
  | .inf s, .fin t n _ => if n = 0 then .nan else .inf (s != t)
  | .fin s m _, .inf t => if m = 0 then .nan else .inf (s != t)
  | .fin s m e, .fin t n f => .fin (s != t) (m * n) (e + f)

/-- x times 2^k. -/
def scaleNum (x : Num) (k : Int) : Num :=
  match x with
  | .fin s m e => .fin s m (e + k)
  | y => y

/-- a < b among finite values and infinities; false with a NaN operand; -0 equals +0 (R87). -/
def ltNum (a b : Num) : Bool :=
  match a, b with
  | .nan, _ => false
  | _, .nan => false
  | .inf s, .inf t => s && !t
  | .inf s, _ => s
  | _, .inf t => !t
  | .fin s m e, .fin t n f =>
    let al := alignNum m e n f
    decide (sInt s al.1 < sInt t al.2.1)

/-- a = b (R87). -/
def eqNum (a b : Num) : Bool := !isNaN a && !isNaN b && !ltNum a b && !ltNum b a

/-- Maximum (R88). -/
def maxNum (a b : Num) : Num :=
  match a, b with
  | .nan, y => y
  | x, .nan => x
  | x, y =>
    if ltNum x y then y else if ltNum y x then x
    else if isZero x then .fin (signOf x && signOf y) 0 0 else x

/-- Minimum (R88). -/
def minNum (a b : Num) : Num :=
  match a, b with
  | .nan, y => y
  | x, .nan => x
  | x, y =>
    if ltNum x y then x else if ltNum y x then y
    else if isZero x then .fin (signOf x || signOf y) 0 0 else x

/-- a / b to `prec` significant bits with a sticky last bit, enough for one later rounding to fewer bits (R86). -/
def divNum (prec : Nat) (a b : Num) : Num :=
  match a, b with
  | .nan, _ => .nan
  | _, .nan => .nan
  | .inf _, .inf _ => .nan
  | .inf s, .fin t _ _ => .inf (s != t)
  | .fin s _ _, .inf t => .fin (s != t) 0 0
  | .fin s m e, .fin t n f =>
    if n = 0 then (if m = 0 then .nan else .inf (s != t))
    else if m = 0 then .fin (s != t) 0 0
    else
      let k := prec + Nat.log2 n + 1 - Nat.log2 m
      let q := (m <<< k) / n
      let st := if (m <<< k) % n = 0 then 0 else 1
      .fin (s != t) (2 * q + st) (e - f - k - 1)

/-- floor of the square root, by `fuel` Newton steps from above. -/
def isqrtFrom (n : Nat) : Nat → Nat → Nat
  | 0, x => x
  | k + 1, x =>
    let y := (x + n / x) / 2
    if x ≤ y then x else isqrtFrom n k y

/-- floor of the square root of n. -/
def isqrt (n : Nat) : Nat :=
  if n = 0 then 0 else isqrtFrom n (Nat.log2 n + 2) (2 ^ (Nat.log2 n / 2 + 1))

/-- Square root to `prec` significant bits with a sticky last bit; -0 of -0, NaN of a negative value. -/
def sqrtNum (prec : Nat) (a : Num) : Num :=
  match a with
  | .nan => .nan
  | .inf s => if s then .nan else .inf false
  | .fin s m e =>
    if m = 0 then .fin s 0 0
    else if s then .nan
    else
      let k := 2 * prec + (if e % 2 = 0 then 0 else 1)
      let r := isqrt (m <<< k)
      let st := if r * r = m <<< k then 0 else 1
      .fin false (2 * r + st) ((e - k) / 2 - 1)

/-- Floor of log2 of a nonzero finite value's magnitude. -/
def expOf : Num → Int
  | .fin _ m e => e + (Nat.log2 m : Int)
  | _ => 0

/- Block scaling -/

/-- A block header's BEXP, NF, FMT and reserved fields (R79). -/
def hdrBexp (h : Nat) : Nat := bits h 0 8
def hdrNF (h : Nat) : Bool := bit h 8
def hdrFmtG (h : Nat) : Bool := bit h 9
def hdrRsvd (h : Nat) : Nat := bits h 10 6
def mkHdr (bexp : Nat) (nf g : Bool) : Nat := bexp % 256 + 256 * b2n nf + 512 * b2n g

/-- Whether a header may decode a block of the named format (R82). -/
def hdrOk (g : Bool) (h : Nat) : Bool := (hdrFmtG h == g) && hdrRsvd h == 0

/-- The value of an SDX8 element under its header (R80). -/
def decode8 (g : Bool) (h c : Nat) : Num :=
  if hdrNF h then .nan else scaleNum (decodeNum (if g then fSdx8G else fSdx8W) c) ((hdrBexp h : Int) - 127)

/-- The largest magnitude among the finite values of a list. -/
def amaxNum (vs : List Num) : Num :=
  vs.foldl (fun a v => if isNF v then a else maxNum a (absNum v)) zeroNum

/-- The header a scan pass writes for one block (R83). -/
def scanHdr (g : Bool) (vs : List Num) : Nat :=
  if !g && vs.any isNF then mkHdr 0xFF true false
  else
    let a := amaxNum vs
    if isZero a then mkHdr 0 false g
    else
      let F := if g then fSdx8G else fSdx8W
      let etop : Int := if g then 8 else 4
      let maxel : Nat := if g then 480 else 31
      let bexp := (min (max (expOf a - etop + 127) 0) 255).toNat
      let past := match scaleNum a (127 - (bexp : Int)) with
        | .fin _ m e =>
          let ql := roundGrid .rne F.fw (1 - (F.bias : Int)) m e
          ltNum (.fin false maxel 0) (.fin false ql.1 ql.2)
        | _ => false
      mkHdr (if bexp < 255 && past then bexp + 1 else bexp) false g

/-- The code of one element under a supplied header (R84). -/
def encode8 (g : Bool) (h : Nat) (r : Rnd) (x : Num) : Nat :=
  encodeNum (if g then fSdx8G else fSdx8W) r (scaleNum x (127 - (hdrBexp h : Int)))

/-- The codes of one block under a supplied header: in SDX8W a block that holds a non-finite value, or whose header has
NF set, has every element code 0x00 (R84). -/
def encodeBlock (g : Bool) (h : Nat) (vs : List (Rnd × Num)) : List Nat :=
  if !g && (hdrNF h || vs.any (fun v => isNF v.2)) then vs.map (fun _ => 0)
  else vs.map (fun v => encode8 g h v.1 v.2)

/- The rounding source -/

def w32 (x : Nat) : Nat := x % 2 ^ 32
def rotl32 (x n : Nat) : Nat := w32 (x <<< n) + x >>> (32 - n)

/-- One round of the generator (R93) on x0..x3 with key k0..k3. -/
def genRound (k : Nat × Nat × Nat × Nat) (x : Nat × Nat × Nat × Nat) (i : Nat) : Nat × Nat × Nat × Nat :=
  let (k0, k1, k2, k3) := k
  let (x0, x1, x2, x3) := x
  let x0 := w32 (x0 + x1); let x3 := rotl32 (x3 ^^^ x0) 13
  let x2 := w32 (x2 + x3); let x1 := rotl32 (x1 ^^^ x2) 11
  let x0 := w32 (x0 + x1); let x3 := rotl32 (x3 ^^^ x0) 9
  let x2 := w32 (x2 + x3); let x1 := rotl32 (x1 ^^^ x2) 5
  let kk := fun j => match (i + j + 1) % 4 with
    | 0 => k0
    | 1 => k1
    | 2 => k2
    | _ => k3
  (w32 (x0 + kk 0) ^^^ (i + 1), w32 (x1 + kk 1), w32 (x2 + kk 2), w32 (x3 + kk 3))

/-- Y = y3:y2:y1:y0 for a key and a counter (R93). -/
def genY (k c : Nat × Nat × Nat × Nat) : Nat :=
  let (k0, k1, k2, k3) := k
  let (c0, c1, c2, c3) := c
  let (x0, x1, x2, x3) := (List.range 10).foldl (genRound k) (c0 ^^^ k0, c1 ^^^ k1, c2 ^^^ k2, c3 ^^^ k3)
  w32 (x0 + c0) + w32 (x1 + c1) <<< 32 + w32 (x2 + c2) <<< 64 + w32 (x3 + c3) <<< 96

/-- What a draw depends on beside its element (R93, R94). -/
structure SrKey where
  seed : Nat
  step : Nat
  use : Nat
  region : Nat
  rpos : Nat
  seq : Nat
  deriving DecidableEq, Repr

/-- The 16-bit draw of element `elem` (R93). -/
def srDraw (k : SrKey) (elem : Nat) : Nat :=
  let y := genY (bits k.seed 0 32, bits k.seed 32 32, bits k.step 0 32, bits k.step 32 32)
    (bits k.use 0 8 + bits k.region 0 8 <<< 8 + bits k.rpos 0 8 <<< 16, w32 k.seq, w32 (elem / 8), 0)
  bits y (16 * (elem % 8)) 16

/-- A result sets the foreground non-finite latch when it is NaN, or an infinity no operand brought (R100). -/
def latches (operands : List Num) (result : Num) : Bool :=
  isNaN result || (isInf result && !operands.any isInf)

end Sys2Proof.Machine
end

