-- ==== Sys2Proof/Machine/Operands.lean ====
section
/-!
DEFINITION. Machine/Operands.lean: handle entries, extent words, index and vector registers, and the reading and writing
of shelf rows (05; 07 R208, R215, R218-R220).
-/
namespace Sys2Proof.Machine

/- Handle entries (R149, R150), as 64-bit numbers -/

def hValid (h : Nat) : Bool := bit h 0
def hWidth (h : Nat) : Nat := bits h 1 2
def hHdr (h : Nat) : Bool := bit h 3
def hWp (h : Nat) : Bool := bit h 4
def hBankBase (h : Nat) : Nat := bits h 5 7
def hBankCount (h : Nat) : Nat := bits h 12 8
def hRowBase (h : Nat) : Nat := bits h 20 5
def hRowCount (h : Nat) : Nat := bits h 25 6
def hLen (h : Nat) : Nat := bits h 32 13

/-- Physical rows of one logical row (R150). -/
def hW (h : Nat) : Nat := 2 ^ hWidth h

/-- Bank and row of physical index i (R150). -/
def hLoc (h i : Nat) : Nat × Nat :=
  let bc := max (hBankCount h) 1
  ((hBankBase h + i % bc) % 128, (hRowBase h + i / bc) % 32)

/-- A logical row that an access through the handle may reach (R152). -/
def hIn (h q : Nat) : Bool := hValid h && decide (q < hLen h)

/-- Headers are read through the handle; a read through an invalid one returns no row and meets no header check (R152, log 75). -/
def hdrRead (h : Nat) : Bool := hHdr h || !hValid h

/-- Entry number h of core c's handle table, in the half of a context (R148). -/
def htEntry (d : Dev) (c : Nat) (fill : Bool) (h : Nat) : Nat :=
  let n := (if fill then 256 else 0) + h % 256
  get64 d (HT_ENTRY_n_LO c n) (HT_ENTRY_n_HI c n)

/-- Entry n of core c's handle table takes v. -/
def setHt (d : Dev) (c n v : Nat) : Dev := set64 d (HT_ENTRY_n_LO c n) (HT_ENTRY_n_HI c n) v

/-- A well-formed entry for a partition of rows lo to hi - 1 (R151). -/
def hWf (h lo hi : Nat) : Bool :=
  !hValid h ||
    (decide (1 ≤ hBankCount h) && decide (hBankBase h + hBankCount h ≤ 128) && decide (1 ≤ hRowCount h) &&
      decide (1 ≤ hLen h) && decide (hLen h ≤ 4096) && decide (hLen h * hW h ≤ hBankCount h * hRowCount h) &&
      hWidth h != 3 && bits h 31 1 == 0 && bits h 45 19 == 0 && decide (lo ≤ hRowBase h) &&
      decide (hRowBase h + hRowCount h ≤ hi))

/-- The shelf rows of each context's partition (R144): [lo, hi). -/
def partRows (d : Dev) (c : Nat) (fill : Bool) : Nat × Nat :=
  let fg := min (getF d (SHF_PART c) SHF_PART_FG_ROWS) 32
  if fill then (fg, 32) else (0, fg)

/- Extent words (R215) -/

def extHandle (x : Nat) : Nat := bits x 0 8
def extRow (x : Nat) : Nat := bits x 8 12
def extN (x : Nat) : Nat := bits x 20 12 + 1

/- Index and vector registers (R208) -/

/-- X(i) of core c. -/
def xreg (d : Dev) (c i : Nat) : Nat := ((core d c).xregs.get (i % 64) 0).toNat

/-- X(i) of core c takes v. -/
def setX (d : Dev) (c i v : Nat) : Dev :=
  modCore d c (fun k => { k with xregs := k.xregs.put (i % 64) (BitVec.ofNat 32 v) 0 })

/-- V(i) of core c: 128 SDX32 codes as one number, and its poison bit. -/
def vreg (d : Dev) (c i : Nat) : Nat × Bool := (((core d c).vregs.get (i % 16) 0).toNat, (core d c).vpois.getLsbD (i % 16))

/-- V(i) of core c takes a value and a poison bit. -/
def setV (d : Dev) (c i v : Nat) (poison : Bool) : Dev :=
  modCore d c (fun k => { k with vregs := k.vregs.put (i % 16) (BitVec.ofNat 4096 v) 0,
                                 vpois := BitVec.ofNat 16 (insBits k.vpois.toNat (i % 16) 1 (b2n poison)) })

/-- Element k of a row of w-bit elements. -/
def elemAt (v w k : Nat) : Nat := bits v (w * k) w

/-- A row of w-bit elements from its codes, first lane lowest (R543). -/
def packElems (w : Nat) (cs : List Nat) : Nat :=
  (cs.foldr (fun c acc => c % 2 ^ w + acc <<< w) 0)

/-- The codes of a row of n elements of w bits. -/
def unpackElems (w n v : Nat) : List Nat := (List.range n).map (elemAt v w)

/- Shelf accesses -/

/-- Who accesses a shelf: the core, whether for its filler, the context, the port code of SHF_LAST_ERR (0 gather, 1
clause, 2 stream, 3 window), and the operation or channel for the record (R453). -/
structure ShfWho where
  c : Nat
  fill : Bool
  ctx : Nat
  port : Nat
  oper : Nat := 0
  deriving DecidableEq, Repr

def shfEv (w : ShfWho) (bank row cls : Nat) (rowFill : Bool) (s : Scope) : Ev :=
  { cls := cls, kind := 1, unit := w.c, sub := fv 0 7 bank + fv 7 5 row + fv 12 2 w.port + fv 14 1 (b2n rowFill),
    ctx := w.ctx, filler := w.fill, oper := w.oper, addr := shelfRowAddr w.c bank row, scope := s }

/-- Whether a row lies in the filler partition (R144). -/
def rowIsFill (d : Dev) (c row : Nat) : Bool := decide (getF d (SHF_PART c) SHF_PART_FG_ROWS ≤ row)

/-- A shelf use fault (R152, R139, R141): its bit, its record of class SHELF_USE, a step-scope RERUN. -/
def shfUseFault (d : Dev) (w : ShfWho) (bank row : Nat) (f : Fld) : Dev :=
  coreFault d w.c (SHF_FAULT w.c) f (shfEv w bank row 0x52 (rowIsFill d w.c row) .step)

/-- A write refused by an asleep or closing group: counted, with its fault (R161). -/
def shfRefused (d : Dev) (w : ShfWho) (bank row : Nat) : Dev :=
  let d := setF d (SHF_REFUSED w.c) SHF_REFUSED_COUNT (satInc 16 (getF d (SHF_REFUSED w.c) SHF_REFUSED_COUNT))
  shfUseFault d w bank row SHF_FAULT_ASLEEP

/-- A parity error found on a read is counted and its place recorded (R164). -/
def countParity (d : Dev) (w : ShfWho) (bank row : Nat) : Dev :=
  let d := setF d (SHF_PARITY_CNT w.c) SHF_PARITY_CNT_COUNT (satInc 16 (getF d (SHF_PARITY_CNT w.c) SHF_PARITY_CNT_COUNT))
  setR d (SHF_LAST_ERR w.c) (fv 0 7 bank + fv 7 5 row + fv 12 2 w.port + fv 14 1 (b2n (rowIsFill d w.c row)))

/-- A parity error found on a read (R164); in the filler partition the filler's results for the sentence are discarded. -/
def shfParity (d : Dev) (w : ShfWho) (bank row : Nat) : Dev :=
  let rf := rowIsFill d w.c row
  let d := countParity d w bank row
  let d := if rf then modCore d w.c (fun k => { k with fillBad := true }) else d
  coreFault d w.c (SHF_FAULT w.c) SHF_FAULT_PARITY (shfEv { w with fill := w.fill || rf } bank row 0x02 rf .step)

/-- One physical row of a shelf as a port reads it (R161, R163, R164): data and poison, and the header side field. -/
def readShelf (d : Dev) (w : ShfWho) (bank row : Nat) : (FRow × BitVec 64) × Dev :=
  let a := shelfRowAddr w.c bank row
  if !bit (getF d (SHF_AWAKE w.c) SHF_AWAKE_AWAKE) (bank / 8) then
    (({ poison := true }, 0), shfUseFault d w bank row SHF_FAULT_ASLEEP)
  else
    let m := rowMetaAt d a
    (({ data := rowData d a, poison := m.poison || m.parErr != 0 }, m.hdr),
      if m.parErr != 0 then shfParity d w bank row else d)

/-- One physical row of a shelf written by a port (R161, R163); a refused stream write poisons the row if it still holds
data. -/
def writeShelf (d : Dev) (w : ShfWho) (bank row : Nat) (v : Row) (poison : Bool) (hdr : BitVec 64) : Dev :=
  let a := shelfRowAddr w.c bank row
  if !bit (getF d (SHF_ACCEPT w.c) SHF_ACCEPT_ACCEPT) (bank / 8) then
    let d1 := shfRefused d w bank row
    if w.port = 2 && bit (getF d (SHF_AWAKE w.c) SHF_AWAKE_AWAKE) (bank / 8) then poisonRow d1 a else d1
  else putRow d a v poison hdr

/-- The side field of a row and its own parity written by a port, its data and their parity kept (R163, R549). -/
def writeSide (d : Dev) (w : ShfWho) (bank row : Nat) (poison : Bool) (hdr : BitVec 64) : Dev :=
  let a := shelfRowAddr w.c bank row
  let m := rowMetaAt d a
  if bit (getF d (SHF_ACCEPT w.c) SHF_ACCEPT_ACCEPT) (bank / 8) then
    setMeta d a { m with poison := m.poison || poison, parErr := m.parErr &&& 0xF, hdr := hdr, born := ticks d + 1 }
  else shfRefused d w bank row

end Sys2Proof.Machine
end

