-- ==== Sys2Proof/Machine/Flags.lean ====
section
/-!
DEFINITION. Machine/Flags.lean: status that operations leave behind: accumulator poison bits (R117, R135), the non-finite
latch (R100), activity and coverage (R227-R230), and the counters of a clause.
-/
namespace Sys2Proof.Machine

/-- Poison bit of accumulator row r of core c; SC_ACC_POISON_0-7 is its home (R117, R135). -/
def accPoison (d : Dev) (c r : Nat) : Bool := getBitAt d (SC_ACC_POISON c 0) (r % 256)

/-- SC_STATUS.ACC_POISON_ANY follows the poison bits (R135). -/
def syncPoisonAny (d : Dev) (c : Nat) : Dev :=
  setB d (SC_STATUS c) SC_STATUS_ACC_POISON_ANY ((List.range 8).any (fun w => getR d (SC_ACC_POISON c w) != 0))

/-- Accumulator rows take a poison bit. -/
def setAccPoison (d : Dev) (c : Nat) (rs : List Nat) (b : Bool) : Dev :=
  syncPoisonAny (rs.foldl (fun d r => setBitAt d (SC_ACC_POISON c 0) (r % 256) b) d) c

/-- Every accumulator row of the core poisoned (R57). -/
def poisonAllAcc (d : Dev) (c : Nat) : Dev :=
  syncPoisonAny ((List.range 8).foldl (fun d w => setR d (SC_ACC_POISON c w) 0xFFFFFFFF) d) c

/-- Accumulator row r of core c: 128 long sums of 48 bits. -/
def accRow (d : Dev) (c r : Nat) : Nat := (d.acc.get (c * 256 + r % 256) 0).toNat

/-- Accumulator row r takes v, with good parity (R117). -/
def setAccRow (d : Dev) (c r v : Nat) : Dev :=
  { d with acc := d.acc.put (c * 256 + r % 256) (BitVec.ofNat 6144 v) 0, accPar := d.accPar.put (c * 256 + r % 256) false false }

/-- Rows cleared: +0 in every lane, poison clear (R119). -/
def clearAcc (d : Dev) (c : Nat) (rs : List Nat) : Dev :=
  setAccPoison (rs.foldl (fun d r => setAccRow d c r 0) d) c rs false

/-- The whole accumulator file and the vector registers cleared (R61, R119, R208). -/
def clearFile (d : Dev) (c : Nat) : Dev :=
  let d := { d with acc := d.acc.cut (c * 256) (c * 256 + 256), accPar := d.accPar.cut (c * 256) (c * 256 + 256) }
  let d := modCore d c (fun k => { k with vregs := [], vpois := 0 })
  syncPoisonAny ((List.range 8).foldl (fun d w => setR d (SC_ACC_POISON c w) 0) d) c

/-- The foreground non-finite latch of core c takes an event (R100). -/
def latchCore (d : Dev) (c : Nat) (fill b : Bool) : Dev :=
  if b && !fill then modCore d c (fun k => { k with latch := true }) else d

/-- The agreed compute frequency in MHz (R51, R439). -/
def fMHz (d : Dev) : Nat := 1000 + 25 * getF d FREQ_STATUS FREQ_STATUS_F_JOB

/-- Issue cycles per group of a pairing (R114). -/
def pairB (p : Nat) : Nat := if p = 0 then 1 else if p = 1 then 2 else 4

/-- Activity units of a gathering group engine (R227). -/
def gatherUnits (b : Nat) : Nat := if b = 1 then 14 else if b = 2 then 10 else 7

/-- The pairing a group-engine operation names (R216). -/
def matPair : MatOp → Nat
  | .msparse _ _ p _ _ => p.toNat
  | .mmask _ _ p _ _ _ => p.toNat
  | .mdense _ _ p _ _ => p.toNat
  | _ => 0

/-- Activity units an operation adds while its engine is busy (R227); a group operation without groups adds none. -/
def opUnits (o : POp) : Nat :=
  match o.op with
  | .vec _ => 4
  | .mat m => if o.total = 0 then 0 else gatherUnits (pairB (matPair m))
  | .mov _ => 0

/-- In compute cycle t the group engine still gathers a group of the operation: the group retires 9 cycles after its D (R124). -/
def gathersAt (t : Nat) (o : POp) : Bool := o.start.isSome && decide (0 < o.done) && decide (t + 9 < o.retire)

/-- In compute cycle t the operation still occupies the vector pipe: it retires 8 cycles after its last occupying cycle (R221). -/
def occupiesAt (t : Nat) (o : POp) : Bool := o.start.isSome && decide (t + 8 ≤ o.retire)

/-- A core's activity level in compute cycle t (R227): a running clause, the vector pipe while occupied, the group engine while
it gathers. -/
def activity (k : CoreSt) (t : Nat) : Nat :=
  (if k.run.isSome then 2 else 0) + (((k.group.filter (gathersAt t)).map opUnits).foldl max 0) +
    (((k.vec.filter (occupiesAt t)).map opUnits).foldl max 0)

/-- Compute cycles in n router cycles at the job frequency. -/
def compCycles (d : Dev) (n : Nat) : Nat := n * fMHz d / 2000

/-- The compute cycle of the running sentence that the module's clock stands in (R207). -/
def clockCycle (d : Dev) : Nat := compCycles d (d.now - d.originAt - 128)

/-- The start of compute cycle t of the running sentence, in thousandths of a router cycle. -/
def cycleAt (d : Dev) (t : Nat) : Nat := 1000 * (d.originAt + 128) + ceilDiv (2000000 * t) (fMHz d)

/-- Ballast ends at time m, in thousandths of a router cycle: its cycles are counted and no coverage fall is pending (R230). -/
def endBallast (d : Dev) (c m : Nat) : Dev :=
  match (core d c).fall with
  | some t => modCore (addF d (CL_BALLAST c) CL_BALLAST_CYCLES (((m - t) * fMHz d + 1000000) / 2000000)) c (fun k => { k with fall := none })
  | none => d

/-- The cycles after `a` up to t in which an engine of a core stops: the group engine 9 cycles before its group retires, the
vector pipe 7 cycles before its operation does (R124, R221). -/
def stopsIn (k : CoreSt) (a t : Nat) : List Nat :=
  let groups : List POp := k.group.filter (fun o => o.start.isSome && decide (0 < o.done))
  let vecs : List POp := k.vec.filter (fun o => o.start.isSome)
  (groups.map (fun (o : POp) => o.retire - 9) ++ vecs.map (fun (o : POp) => o.retire - 7)).filter (fun e => decide (a < e) && decide (e ≤ t))

/-- Core c's engines run on to cycle t: where the first stop that leaves the activity below coverage − 2 starts ballast and its
200 ns (R230). -/
def coast (d : Dev) (c t : Nat) : Dev :=
  let k := core d c
  let low := (stopsIn k k.actCyc t).filter (fun e => decide (activity k e + 2 < getF d (CL_NOTE c) CL_NOTE_COVER))
  match k.fall, low with
  | none, e :: es => modCore d c (fun k => { k with fall := some (cycleAt d (es.foldl min e)) })
  | _, _ => d

/-- The activity level in compute cycle t goes to CL_NOTE.LEVEL. A drop below coverage - 2 starts ballast and a pending
fall of the coverage; a rise to coverage - 2 ends both (R230). -/
def setActivity (d : Dev) (c t : Nat) : Dev :=
  let k := core d c
  let u := max t k.actCyc
  let lv := activity k u
  let d1 := modCore (setF d (CL_NOTE c) CL_NOTE_LEVEL lv) c (fun k => { k with level := lv, actCyc := u })
  if getF d (CL_NOTE c) CL_NOTE_COVER ≤ lv + 2 then endBallast d1 c (cycleAt d u)
  else if lv < k.level ∧ k.fall = none then modCore d1 c (fun k => { k with fall := some (cycleAt d u) })
  else d1

/-- At time m, in thousandths of a router cycle, coverage takes a level while the activity level is `act` (R228, R230). -/
def coverTo (d : Dev) (c lv act m : Nat) : Dev :=
  let d1 := setF d (CL_NOTE c) CL_NOTE_COVER lv
  if lv ≤ act + 2 then endBallast d1 c m else d1

/-- A note takes effect: coverage takes its level; a running clause's events may have led the module's clock (R228). -/
def setCoverage (d : Dev) (c lv : Nat) : Dev :=
  let k := core d c
  let t := if k.run.isSome then max (clockCycle d) k.actCyc else 0
  let d1 := coast d c t
  coverTo d1 c lv (activity (core d1 c) t) (if k.run.isSome then max (1000 * d.now) (cycleAt d t) else 1000 * d.now)

/-- Larger of a saturating or plain counter's register word and n. -/
def maxR (d : Dev) (a n : Nat) : Dev := setR d a (max (getR d a) n)

end Sys2Proof.Machine
end

