-- ==== Sys2Proof/Machine/Streams.lean ====
section
/-!
DEFINITION. Machine/Streams.lean: stream channels, their programs, stages and far agents (06, R168-R201).
-/
namespace Sys2Proof.Machine

/- Program fields (R173, R183) -/

def pf (p : Prog) (lo w : Nat) : Nat := bits p.entry.toNat lo w
def pKind (p : Prog) : Nat := pf p 0 2
def pOut (p : Prog) : Bool := pf p 2 1 == 1
def pMesh (p : Prog) : Bool := pf p 3 1 == 1
def pHdrs (p : Prog) : Bool := pf p 5 1 == 1
def pSpec (p : Prog) : Bool := pf p 6 1 == 1
def pWfmt (p : Prog) : Nat := pf p 2 2
def pCapture (p : Prog) : Bool := pf p 4 1 == 1
def pPacked (p : Prog) : Bool := pf p 5 1 == 1
def pAgent (p : Prog) : Nat := pf p 16 6
def pFarBase (p : Prog) : Nat := pf p 32 64
def pHbase (p : Prog) : Nat := pf p 32 64
def pIbase (p : Prog) : Nat := pf p 96 64
def pWbase (p : Prog) : Nat := pf p 160 64
def pGroups (p : Prog) : Nat := pf p 224 32
def pCapBase (p : Prog) : Nat := pf p 288 64
def pCapStride (p : Prog) : Nat := pf p 352 32
def pCapAgent (p : Prog) : Nat := pf p 397 6
def pHdrBase (p : Prog) : Nat := pf p 416 48
def isPhrase (p : Prog) : Bool := pKind p == 0

/-- Iterations of loop level l of a phrase. -/
def pCount (p : Prog) (l : Nat) : Nat := pf p (160 + 64 * l) 16 + 1

/-- Data rows a phrase moves, or groups an indexed program delivers. -/
def pItems (p : Prog) : Nat :=
  if isPhrase p then pCount p 0 * pCount p 1 * pCount p 2 * pCount p 3 else pGroups p

/-- Rows of one group on the mesh (R184, R185). -/
def groupRows (p : Prog) : Nat :=
  if pKind p = 1 then (if pWfmt p = 2 then 3 else if pWfmt p = 1 then 5 else 4)
  else if pWfmt p = 1 then 2 else 1

/-- Header rows travel ahead of each run of 16 items (R175, R185). -/
def runHdrs (p : Prog) : Bool := if isPhrase p then pHdrs p else pKind p == 2 && pWfmt p == 0

/-- Every row the program moves over the mesh, header rows included (R171, R548). -/
def pTotal (p : Prog) : Nat :=
  let n := pItems p
  if isPhrase p || runHdrs p then n + (if runHdrs p then ceilDiv n 16 else 0) else n * groupRows p

/-- The k-th row on the mesh: none for a header row, else the index of its data row or group (R175). -/
def rowItem (p : Prog) (k : Nat) : Option Nat :=
  if runHdrs p then (if k % 17 = 0 then none else some (k / 17 * 16 + k % 17 - 1)) else some k

/-- x mod n with a non-negative remainder; no wrap for n = 0 (R174). -/
def wrapInt (x : Int) (n : Nat) : Int := if n = 0 then x else x % n

/-- Far row and near index of the n-th data row of a phrase (R174), ROW_OFS and NEAR_BASE included. -/
def phraseAt (p : Prog) (n : Nat) : Int × Int :=
  let i0 := n % pCount p 0
  let i1 := n / pCount p 0 % pCount p 1
  let i2 := n / (pCount p 0 * pCount p 1) % pCount p 2
  let i3 := n / (pCount p 0 * pCount p 1 * pCount p 2)
  let fs := fun l => signed 32 (pf p (160 + 64 * l + 16) 32)
  let ns := fun l => signed 16 (pf p (160 + 64 * l + 48) 16)
  let f := i0 * fs 0 + i1 * fs 1 + i2 * fs 2 + i3 * fs 3
  let q := i0 * ns 0 + i1 * ns 1 + i2 * ns 2 + i3 * ns 3
  (p.ofs + wrapInt f (pf p 96 32), pf p 128 16 + wrapInt q (pf p 144 16))

/-- The module-local part of a global address. -/
def localAddr (g : Nat) : Nat := g % 2 ^ 48
def addrModule (g : Nat) : Nat := bits g 48 16

/-- Cellar or larder (R171). -/
def inMemory (a : Nat) : Bool := (unitOf a).isSome

/-- The address field that locates a program's far agent (R171, R176). -/
def agentAddr (p : Prog) : Nat :=
  if isPhrase p then pFarBase p
  else if pKind p = 2 ∧ pWfmt p = 1 then pWbase p else pHbase p

/-- The program has a memory far end. -/
def hasAgent (p : Prog) : Bool := !(isPhrase p && pMesh p)

/-- Address fields of a program that a start checks (R171). -/
def usedAddrs (p : Prog) : List Nat :=
  if isPhrase p then (if pMesh p then [] else [pFarBase p])
  else
    (if pKind p = 2 ∧ pWfmt p = 1 then [] else [pHbase p]) ++
    (if pKind p = 1 ∧ !pPacked p then [pIbase p] else []) ++
    (if !pPacked p ∧ pWfmt p ≠ 2 then [pWbase p] else []) ++
    (if pCapture p then [pCapBase p] else [])

/-- Reserved fields, encodings and settings of a program (R171, R173, R183-R185). -/
def progReserved (p : Prog) : Bool :=
  if isPhrase p then pf p 4 1 != 0 || pf p 7 1 != 0 || pf p 22 10 != 0 || pf p 464 48 != 0
  else pKind p == 3 || pf p 7 9 != 0 || pf p 22 10 != 0 || pf p 272 16 != 0 || pf p 403 109 != 0 || pWfmt p == 3 ||
    (pPacked p && pWfmt p == 1) || (pKind p == 2 && pWfmt p == 2)

/- Channel registers and faults -/

def chanCode : Option Prog → Nat
  | none => 0
  | some p => if p.discard then 3 else if p.held then 2 else 1

/-- Rows or groups a stage holds: lost ones take no place (R170, R191). -/
def stageFill (p : Prog) : Nat :=
  (p.stage.filter (fun r => !r.lost)).length + (p.gstage.filter (fun g => !g.lost)).length

/-- The channel's registers follow its state (R199). -/
def syncChan (d : Dev) (c n : Nat) : Dev :=
  let x := chan d c n
  let a := STR_CTL c n
  let d := setF (setF d a STR_CTL_CUR (chanCode x.cur)) a STR_CTL_NEXT
    (match x.next with | none => 0 | some p => if p.held then 2 else 1)
  let d := match x.cur with
    | some p =>
      let d := setF d a STR_CTL_CUR_ENTRY p.entryNo
      let d := setR d (STR_LANDED c n) p.landed
      let d := setR d (STR_TOTAL c n) (min (pItems p) 0xFFFFFFFF)
      setR d (STR_ROW_OFS c n) p.ofs
    | none => d
  let d := match x.next with
    | some p => setF d a STR_CTL_NEXT_ENTRY p.entryNo
    | none => d
  setR d (STR_STAGE c n) (fv 0 7 (x.cur.elim 0 stageFill) + fv 8 7 (x.next.elim 0 stageFill))

/-- The channel takes a new state, its registers following. -/
def putChan (d : Dev) (c n : Nat) (x : Chan) : Dev := syncChan (setChan d c n x) c n

/-- A stream fault: STR_FAULT bit for the foreground, record of class STREAM, step-scope RERUN (R200, R470). -/
def strFault (d : Dev) (c n : Nat) (fill : Bool) (ctx : Nat) (f : Fld) (addr : Nat) : Dev :=
  coreFault d c (STR_FAULT c n) f { cls := 0x53, kind := 1, unit := c, sub := n, ctx := ctx, filler := fill, addr := addr, scope := .step }

/-- A foreground stream that carries a poisoned row (R196): the bit and the RERUN each time, the record for its first. -/
def poisonCarried (d : Dev) (c n : Nat) (p : Prog) : Dev :=
  if p.fill then (if p.poisonSeen then d else report d { cls := 0x53, kind := 1, unit := c, sub := n, ctx := p.ctx, filler := true })
  else
    let d1 := raiseRerun (setB d (STR_FAULT c n) STR_FAULT_POISON true) .step
    if p.poisonSeen then d1
    else report d1 { cls := 0x53, kind := 1, unit := c, sub := n, ctx := p.ctx, scope := .step }

def progSrc (d : Dev) (p : Prog) : Src := { tag := ctxBits d p.ctx 8 8, ctx := p.ctx, fill := p.fill }

def strWho (c : Nat) (p : Prog) : ShfWho := { c := c, fill := p.fill, ctx := p.ctx, port := 2 }

/- The shelf side of a phrase -/

/-- One inbound data row written to the shelf through the channel's handle copy (R142, R143, R152, R174, R175, R197). -/
def writeNear (d : Dev) (c : Nat) (p : Prog) (item : Nat) (row : FRow) : Dev :=
  let h := p.handle.toNat
  let q := (phraseAt p item).2
  let hdr := if pHdrs p then bits p.hdrs.data.toNat (64 * (item % 16)) 64 else 0
  let poison := row.poison || (pHdrs p && p.hdrPoison)
  let w := strWho c p
  if q < 0 ∨ !hValid h ∨ hLen h * hW h ≤ q.toNat then shfUseFault d w 0 0 SHF_FAULT_PART
  else
    let l := hLoc h q.toNat
    if hWp h then shfUseFault d w l.1 l.2 SHF_FAULT_WP
    else writeShelf d w l.1 l.2 row.data poison (BitVec.ofNat 64 (if hHdr h then hdr else 0))

/-- One outbound data row read from the shelf (R152, R163). -/
def readNear (d : Dev) (c : Nat) (p : Prog) (item : Nat) : (FRow × BitVec 64) × Dev :=
  let h := p.handle.toNat
  let q := (phraseAt p item).2
  let w := strWho c p
  if q < 0 ∨ !hValid h ∨ hLen h * hW h ≤ q.toNat then (({ poison := true }, 0), shfUseFault d w 0 0 SHF_FAULT_PART)
  else let l := hLoc h q.toNat; readShelf d w l.1 l.2

/-- An inbound row of a running phrase: a header row is kept for its run, a data row is written (R175, R191). A row that
arrives poisoned is one the stream carries (R196); one lost on the way is only written poisoned. DESIGN CHOICE (log 101): a data row
whose write is refused (R197) counts in LANDED. -/
def landRow (d : Dev) (c n : Nat) (p : Prog) (r : SRow) (k : Nat) : Prog × Dev :=
  let bad := r.row.poison && !r.lost
  let d1 := if bad then poisonCarried d c n p else d
  let p1 := { p with poisonSeen := p.poisonSeen || bad }
  match rowItem p k with
  | none => ({ p1 with hdrs := if r.lost then {} else r.row, hdrPoison := r.lost || r.row.poison }, d1)
  | some i => ({ p1 with landed := p.landed + 1 }, writeNear d1 c p i (if r.lost then { poison := true } else r.row))

/-- The stage of an inbound phrase emptied in order (R190, R194): row k of the program is first in it. -/
def landStage (d : Dev) (c n : Nat) (p : Prog) : List SRow → Nat → Prog × Dev
  | [], _ => (p, d)
  | r :: rs, k => let x := landRow d c n p r k; landStage x.2 c n x.1 rs (k + 1)

/-- The mark of the last write of the shelf row behind a data row of an outbound phrase (R68). -/
def nearBorn (d : Dev) (c : Nat) (p : Prog) (item : Nat) : Nat :=
  let l := hLoc p.handle.toNat (phraseAt p item).2.toNat
  (rowMetaAt d (shelfRowAddr c l.1 l.2)).born

/-- The header row of the run that row k of an outbound phrase opens, from the side fields of its data rows (R175), with the
latest mark of those rows. -/
def outHdrRow (d : Dev) (c : Nat) (p : Prog) (k : Nat) : SRow × Dev :=
  let first := k / 17 * 16
  let n := min 16 (pItems p - first)
  (List.range n).foldl (fun (st : SRow × Dev) j =>
    let r := readNear st.2 c p (first + j)
    ({ row := { data := BitVec.ofNat 1024 (st.1.row.data.toNat + r.1.2.toNat <<< (64 * j)), poison := st.1.row.poison || r.1.1.poison },
       born := max st.1.born (nearBorn d c p (first + j)) }, r.2))
    ({}, d)

/-- Rows read from the shelf into an outbound phrase's stage until it is full or the program is read: `fuel` rows at
most (R170, R172). -/
def fillOut (d : Dev) (c n : Nat) (p : Prog) : Nat → Prog × Dev
  | 0 => (p, d)
  | fuel + 1 =>
    if pTotal p ≤ p.fetched ∨ 64 ≤ p.stage.length then (p, d)
    else
      match rowItem p p.fetched with
      | none =>
        let r := outHdrRow d c p p.fetched
        fillOut r.2 c n { p with fetched := p.fetched + 1, stage := p.stage ++ [r.1] } fuel
      | some i =>
        let r := readNear d c p i
        let d1 := if r.1.1.poison then poisonCarried r.2 c n p else r.2
        fillOut d1 c n { p with fetched := p.fetched + 1, landed := p.landed + 1,
                                stage := p.stage ++ [{ row := r.1.1, born := nearBorn d c p i }],
                                poisonSeen := p.poisonSeen || r.1.1.poison } fuel

/-- A program that runs in CUR: an inbound phrase empties its stage to the shelf, an outbound one fills it (R190). -/
def runCur (d : Dev) (c n : Nat) (p : Prog) : Prog × Dev :=
  if !isPhrase p then (p, d)
  else if pOut p then fillOut d c n p 64
  else
    let x := landStage d c n p p.stage (p.recv - p.stage.length)
    ({ x.1 with stage := [] }, x.2)

/- Starting, confirming, cancelling, ending -/

/-- The conditions under which a STREAM_START has no effect (R171). -/
def startRefused (d : Dev) (c n : Nat) (p : Prog) : Bool :=
  let a := STR_CTL c n
  let x := chan d c n
  !getB d a STR_CTL_ASSIGNED || getB d a STR_CTL_OWNER != p.fill ||
  (if n < 12 then pKind p != 0 else pKind p == 0) || (decide (128 ≤ p.entryNo) && pKind p != 0) ||
  progReserved p ||
  (usedAddrs p).any (fun g => g % 128 != 0 || addrModule g != myMod d) ||
  (hasAgent p && !inMemory (localAddr (agentAddr p))) || (!isPhrase p && pCapture p && !inMemory (localAddr (pCapBase p))) ||
  (isPhrase p && pHdrs p && (pHdrBase p % 8 != 0 || !inMemory (pHdrBase p))) ||
  (isPhrase p && (!hValid p.handle.toNat || (pHdrs p && !hHdr p.handle.toNat))) ||
  (x.cur.isSome && x.next.isSome) ||
  (pSpec p && ((isPhrase p && pOut p) || (if isPhrase p then decide (64 < pTotal p) else decide (16 < pGroups p)))) ||
  (pKind p == 2 && pCapture p)

/-- The stream open a started program sends to its far agent (R176). -/
def openMsg (c n : Nat) (p : Prog) : List OpenMsg :=
  if hasAgent p then
    match unitOf (localAddr (agentAddr p)) with
    | some u => [{ core := c, ch := n, unit := u, agent := pAgent p, prog := p }]
    | none => []
  else []

/-- STREAM_START (R170, R171, R176): program entry e of the half, at ROW_OFS, into CUR or NEXT of channel n. -/
def streamStart (d : Dev) (c n e ofs : Nat) (fill : Bool) (ctx : Nat) : Dev :=
  let ei := (if fill then 256 else 0) + e % 256
  let entry := BitVec.ofNat 512 (getWords d (STR_PROG c ei 0) 16)
  let hno := bits entry.toNat 8 8
  let k := core d c
  let p : Prog := { entry := entry, entryNo := e % 256, ofs := ofs, handle := BitVec.ofNat 64 (htEntry d c fill hno),
                    fill := fill, ctx := ctx, sid := k.sidCnt + 1, clauseNo := k.clauseCnt,
                    held := bits entry.toNat 6 1 == 1, gseq := bits entry.toNat 256 16 }
  if startRefused d c n p then strFault d c n fill ctx STR_FAULT_START 0
  else
    let d := modCore d c (fun k => { k with sidCnt := k.sidCnt + 1 })
    let d := { d with opens := d.opens ++ openMsg c n p }
    let x := chan d c n
    match x.cur with
    | none =>
      let d := setR d (STR_PRED_MISS c n) 0
      let r := if p.held then (p, d) else runCur d c n p
      putChan r.2 c n { (chan r.2 c n) with cur := some r.1, quiet := false }
    | some _ =>
      let r := if isPhrase p && pOut p then fillOut d c n p 64 else (p, d)
      putChan r.2 c n { (chan r.2 c n) with next := some r.1 }

/-- Whether a program has moved everything: discarding programs end with their last row, an evicted one at once. -/
def progDone (p : Prog) : Bool :=
  if p.dead then true
  else if p.discard then decide (pTotal p ≤ p.recv)
  else if p.held then false
  else if isPhrase p && pOut p then decide (pTotal p ≤ p.recv)
  else decide (pItems p ≤ p.landed)

/-- A NEXT program promoted to CUR (R190): a running one empties its stage in order. -/
def promote (d : Dev) (c n : Nat) : Dev :=
  let x := chan d c n
  match x.next with
  | none => putChan d c n x
  | some p =>
    let d := setR d (STR_PRED_MISS c n) 0
    let r := if p.held || p.discard then (p, d) else runCur d c n p
    putChan r.2 c n { (chan r.2 c n) with cur := some r.1, next := none }

/-- The far fault of a program: the record of its first far row that reaches no memory (R174). -/
def farRecord (d : Dev) (c n : Nat) (p : Prog) (addr : Nat) : Dev :=
  report d { cls := 0x53, kind := 1, unit := c, sub := n, ctx := p.ctx, filler := p.fill, addr := addr, scope := .step }

/-- A held program becomes ordinary: what its far rows met is recorded now (R193, R194). -/
def releaseFar (d : Dev) (c n : Nat) (p : Prog) : Dev :=
  match p.lateFar with
  | some a => farRecord d c n p a
  | none => d

/-- STREAM_CONFIRM (R194, R225): the held program, in CUR if CUR is held and otherwise in NEXT, becomes ordinary. -/
def streamConfirm (d : Dev) (c n : Nat) : Dev :=
  let x := chan d c n
  let free := fun (q : Prog) => releaseFar (putChan d c n { x with next := some { q with held := false, lateFar := none } }) c n q
  match x.cur, x.next with
  | some p, nx =>
    if p.held && !p.discard then
      let r := runCur (releaseFar d c n p) c n { p with held := false, lateFar := none }
      putChan r.2 c n { (chan r.2 c n) with cur := some r.1 }
    else match nx with
      | some q => if q.held then free q else d
      | none => d
  | none, some q => if q.held then free q else d
  | none, none => d

/-- A program discarded: its stage is dropped and its rows still to arrive will be (R195). -/
def cancelled (p : Prog) : Prog := { p with held := false, discard := true, stage := [], gstage := [], part := [], lateFar := none }

/-- STREAM_CANCEL (R195, R225). -/
def streamCancel (d : Dev) (c n : Nat) : Dev :=
  let x := chan d c n
  match x.cur, x.next with
  | some p, nx =>
    if p.held && !p.discard then putChan d c n { x with cur := some (cancelled p) }
    else match nx with
      | some q => if q.held then putChan d c n { x with next := some (cancelled q) } else d
      | none => d
  | none, some q => if q.held then putChan d c n { x with next := some (cancelled q) } else d
  | none, none => d

/- Capture (R187-R189) -/

/-- The packed record of a capture lane's entries (R188): header row, two index rows, one weight row. -/
def capRecord (gfmt : Bool) (lane gseq : Nat) (es : List CapEnt) : List FRow :=
  let outs := es.foldl (fun (l : List Nat) e => if l.contains e.outRow then l else l ++ [e.outRow]) []
  let ws := (List.range 128).map (fun i => match es[i]? with | some e => decodeNum fSdx32 e.w.toNat | none => zeroNum)
  let blks := (List.range 4).map (fun k => (ws.drop (32 * k)).take 32)
  let hdrs := blks.map (scanHdr gfmt)
  let codes := (blks.zip hdrs).flatMap (fun b => encodeBlock gfmt b.2 (b.1.map (fun x => (Rnd.rne, x))))
  let head := (2 ^ es.length - 1) + ((outs.zip (List.range 16)).foldl (fun acc o => acc + fv (128 + 7 * o.2) 7 o.1) 0) +
    ((hdrs.zip (List.range 4)).foldl (fun acc h => acc + fv (256 + 16 * h.2) 16 h.1) 0) + fv 320 16 gseq + fv 336 8 lane
  let recs := (es.zip (List.range 128)).foldl (fun acc e =>
    acc + fv (16 * e.2) 16 (e.1.inRow % 4096 + (outs.idxOf e.1.outRow % 16) * 4096)) 0
  [{ data := BitVec.ofNat 1024 head }, { data := BitVec.ofNat 1024 recs }, { data := BitVec.ofNat 1024 (recs >>> 1024) },
   { data := BitVec.ofNat 1024 (packElems 8 codes) }]

/-- The g-th record of a lane is emitted (R188, R189): outside the lane's rows, or a ninth waiting, it is dropped with a capture
fault. -/
def emitRec (d : Dev) (c n : Nat) (p : Prog) (lane g : Nat) (es : List CapEnt) : Dev :=
  let x := chan d c n
  let addr := localAddr (pCapBase p) + 128 * p.ofs + 128 * pCapStride p * lane + 512 * g
  if pCapStride p < 4 * g + 4 ∨ 8 ≤ x.capQ.length then strFault d c n p.fill p.ctx STR_FAULT_CAPTURE addr
  else
    let r : CapRec := { addr := addr, agent := pCapAgent p, rows := capRecord (pf p 396 1 == 1) lane g es }
    setChan d c n { x with capQ := x.capQ ++ [r] }

/-- A full lane emits its record (R188). -/
def emitLane (d : Dev) (c n : Nat) (p : Prog) (lane : Nat) : Dev :=
  let x := chan d c n
  let g := x.laneCnt.get lane 0
  emitRec (setChan d c n { x with lanes := x.lanes.put lane [] [], laneCnt := x.laneCnt.put lane (g + 1) 0 }) c n p lane g (x.lanes.get lane [])

/-- One captured slot (R187). -/
def capSlot (d : Dev) (c n : Nat) (p : Prog) (i o : Nat) (w : Nat) : Dev :=
  let ir := pf p 384 12 + o
  if 4095 < ir then strFault d c n p.fill p.ctx STR_FAULT_CAPTURE 0
  else
    let x := chan d c n
    let lane := i / 16
    let es := x.lanes.get lane [] ++ [{ inRow := ir, outRow := i % 128, w := BitVec.ofNat 32 w }]
    let d1 := setChan d c n { x with lanes := x.lanes.put lane es [] }
    if 128 ≤ es.length then emitLane d1 c n p lane else d1

/-- After a capturing program's end its lanes emit what they hold, in ascending lane order, as waiting room allows
(R188, R189; log 15). -/
def flushLanes (d : Dev) (c n : Nat) : Nat → Dev
  | 0 => d
  | fuel + 1 =>
    let x := chan d c n
    match x.flush with
    | l :: ls =>
      if 8 ≤ x.capQ.length then d
      else flushLanes (emitRec (setChan d c n { x with flush := ls }) c n l.prog l.lane l.cnt l.ents) c n fuel
    | [] => d

/-- The lanes of a capturing program that has ended, each with what it holds (R188). -/
def endedLanes (x : Chan) (p : Prog) : List Flush :=
  x.lanes.map (fun l => { prog := p, lane := l.1, cnt := x.laneCnt.get l.1 0, ents := l.2 })

/-- STREAM_END (R190): a CUR stream that has moved everything ends, awaits on it keep its final count, its capture lanes
emit, and NEXT is promoted in the same cycle unless the layer-end drain holds it (R192). -/
def streamEnd (c n : Nat) (d : Dev) : Dev :=
  if 320 ≤ c ∨ 16 ≤ n then d
  else
    let x := chan d c n
    match x.cur with
    | none => d
    | some p =>
      if !progDone p then d
      else
        let capt := !isPhrase p && pCapture p && !p.discard
        let d := modCore d c (fun k => { k with run := k.run.map (fun r => { r with await := r.await.map (fun a =>
          if a.ch = n ∧ a.sid = some p.sid then { a with fin := some p.landed } else a) }) })
        let d := setChan d c n
          { x with cur := none, lastSid := p.sid, flush := if capt then x.flush ++ endedLanes x p else x.flush,
                   lanes := if capt then [] else x.lanes, laneCnt := if capt then [] else x.laneCnt }
        let d := if capt then flushLanes d c n 300 else d
        if (core d c).drained = some p.fill then putChan d c n (chan d c n) else promote d c n

/- Rows arriving at a channel -/

/-- A complete group from the rows of the mesh (R184, R185). -/
def groupOf (p : Prog) (rows : List FRow) (g : Nat) : GRec :=
  let r := fun i => rows.getD i {}
  if pKind p = 1 then { hdr := r 0, idx0 := r 1, idx1 := r 2, w0 := r 3, w1 := r 4 }
  else { w0 := r 0, w1 := r 1, blk := BitVec.ofNat 64 (bits p.hdrs.data.toNat (64 * (g % 16)) 64), blkPoison := p.hdrPoison }

/-- STAGE_OVERFLOW (R191): nothing is recorded for a held program (R193). -/
def overflowFault (d : Dev) (c n : Nat) (p : Prog) : Dev :=
  if p.held || p.discard then d else strFault d c n p.fill p.ctx STR_FAULT_OVERFLOW 0

/-- A row taken by a program in position CUR (cur = true) or NEXT (R170, R175, R190, R191, R193, R195, R548). -/
def takeRow (d : Dev) (c n : Nat) (cur : Bool) (p : Prog) (row : FRow) : Prog × Dev :=
  let k := p.recv
  let p := { p with recv := k + 1 }
  if p.discard then (p, d)
  else if isPhrase p then
    if cur && !p.held then
      let x := landRow d c n p { row := row } k
      (x.1, x.2)
    else if stageFill p < 64 then ({ p with stage := p.stage ++ [{ row := row }] }, d)
    else ({ p with stage := p.stage ++ [{ row := row, lost := true }] }, overflowFault d c n p)
  else
    match rowItem p k with
    | none => ({ p with hdrs := row, hdrPoison := row.poison }, d)
    | some _ =>
      let part := p.part ++ [row]
      if part.length < groupRows p then ({ p with part := part }, d)
      else
        let g := p.landed + p.gstage.length
        if stageFill p < 16 then ({ p with part := [], gstage := p.gstage ++ [groupOf p part g] }, d)
        else ({ p with part := [], gstage := p.gstage ++ [{ lost := true }] }, overflowFault d c n p)

/-- A program that still expects rows from the mesh (R548). -/
def expects (p : Prog) : Bool := !(isPhrase p && pOut p) && !p.dead && decide (p.recv < pTotal p)

/-- The earliest-started stream of a channel that still expects rows, and whether it is in CUR (R548). -/
def rowTaker (x : Chan) : Option (Bool × Prog) :=
  match x.cur.filter expects, x.next.filter expects with
  | some p, _ => some (true, p)
  | none, some q => some (false, q)
  | none, none => none

/-- A row delivered to channel n of core c: the earliest-started stream that still expects rows takes it; none does where
that is not the stream that took the flit's first row (R178, R179, R548). -/
def chanRow (d : Dev) (c n : Nat) (row : FRow) (sid : Option Nat) : Option (Nat × Dev) :=
  match rowTaker (chan d c n) with
  | some x =>
    if sid.any (fun s => s != x.2.sid) then none
    else
      let r := takeRow d c n x.1 x.2 row
      let ch := chan r.2 c n
      some (x.2.sid, putChan r.2 c n (if x.1 then { ch with cur := some r.1 } else { ch with next := some r.1 }))
  | none => none

/-- A stray flit at a core (R179). -/
def strayCore (d : Dev) (c n : Nat) : Dev :=
  let fill := getB d (STR_CTL c n) STR_CTL_OWNER
  let ctx := (residentOf d c fill).getD 0
  let d1 := coreFault d c (STR_FAULT c n) STR_FAULT_STRAY { cls := 0x54, kind := 1, unit := c, sub := n, ctx := ctx, filler := fill, scope := .step }
  d1

/-- The rows of a flit delivered to a channel, in order, all to one stream; the rows left when it ends are ignored (R178). -/
def chanRows (d : Dev) (c n : Nat) : List FRow → Option Nat → Dev
  | [], _ => d
  | r :: rs, sid =>
    match chanRow d c n r sid with
    | some x => chanRows x.2 c n rs (some x.1)
    | none => if sid.isNone then strayCore d c n else d

/-- The staged rows the mesh may take: the first eight at most that were complete at the opening stop tick (R68, R178). -/
def readyRows (d : Dev) (p : Prog) : List FRow := ((p.stage.take 8).takeWhile (fun r => decide (r.born ≤ ticks d))).map (·.row)

/-- Up to eight rows the router reads from channel n (R68, R178, R179), refilling the stage; none where no row is ready. -/
def chanTake (d : Dev) (c n : Nat) : Option (List FRow) × Dev :=
  let x := chan d c n
  match x.cur with
  | some p =>
    let rows := readyRows d p
    if isPhrase p && pOut p && !p.dead && !rows.isEmpty then
      let r := fillOut d c n { p with stage := p.stage.drop rows.length, recv := p.recv + rows.length } 64
      (some rows, putChan r.2 c n { (chan r.2 c n) with cur := some r.1 })
    else (none, d)
  | none => (none, d)

/-- The oldest waiting capture record of a channel (R189). -/
def capTake (d : Dev) (c n : Nat) : Option CapRec × Dev :=
  let x := chan d c n
  match x.capQ with
  | r :: rs => (some r, flushLanes (setChan d c n { x with capQ := rs }) c n 1)
  | [] => (none, d)

/- Far agents (R174-R177) -/

def agentKey (u ag : Nat) : Nat := u * 64 + ag

/-- An agent's source identity at a controller (R251). -/
def agentSrc (d : Dev) (a : Agent) : Src := progSrc d a.prog

/-- The program of channel n of core c that stream sid runs, if it has not ended. -/
def liveProg (x : Chan) (sid : Nat) : Option Prog :=
  match x.cur.filter (fun p => p.sid == sid) with
  | some p => some p
  | none => x.next.filter (fun p => p.sid == sid)

/-- A held program keeps its first far fault until it is confirmed (R193, R194). -/
def noteFar (sid addr : Nat) (p : Prog) : Prog :=
  if p.sid = sid ∧ p.lateFar = none then { p with lateFar := some addr } else p

/-- A far row outside the unit of FAR_BASE, or refused by its controller (R33, R174): recorded once per stream; of a held program
when it is confirmed, of a cancelled one never (R193-R195). -/
def farFault (d : Dev) (a : Agent) (addr : Nat) : Dev :=
  let x := chan d a.core a.ch
  match liveProg x a.prog.sid with
  | some p =>
    if p.discard then d
    else if p.held then
      setChan d a.core a.ch { x with cur := x.cur.map (noteFar p.sid addr), next := x.next.map (noteFar p.sid addr) }
    else if a.oor then raiseRerun d (if a.prog.fill then .none else .step)
    else farRecord d a.core a.ch a.prog addr
  | none =>
    if a.oor then raiseRerun d (if a.prog.fill then .none else .step) else farRecord d a.core a.ch a.prog addr

/-- One far row read at a module-local address; poisoned where no memory answers. -/
def farRead (d : Dev) (u : Nat) (a : Agent) (addr : Int) : (FRow × Bool) × Dev :=
  let ad := addr.toNat
  if addr < 0 ∨ unitOf ad ≠ some u then (({ poison := true }, true), farFault d a ad)
  else match unitRead d ad (agentSrc d a) with
    | (some r, d1) => ((r, a.oor), d1)
    | (none, d1) => (({ poison := true }, true), farFault d1 a ad)

/-- Bytes of the row that holds a byte address, and its poison; for header arrays and group headers. -/
def farBytes (d : Dev) (u : Nat) (a : Agent) (addr : Int) (n : Nat) : (Nat × Bool × Bool) × Dev :=
  let r := farRead d u a (addr / 128 * 128)
  ((bits r.1.1.data.toNat (8 * (addr % 128).toNat) (8 * n), r.1.1.poison, r.1.2), r.2)

/-- The module-local address of an agent's n-th far data row. -/
def farAddr (a : Agent) (n : Nat) : Int := (localAddr (pFarBase a.prog) : Int) + 128 * (phraseAt a.prog n).1

/-- The next row an agent sends: header rows from the header array, data rows and group parts from memory (R175, R176,
R184, R185). DESIGN CHOICE (log 101): a dense program's PACKED is not read, and index, weight and header rows that lie in another
unit than the agent's are read there. -/
def agentRow (d : Dev) (u : Nat) (a : Agent) : (FRow × Bool) × Dev :=
  let p := a.prog
  let u2 := fun (x : Nat) => (unitOf x).getD u
  if isPhrase p then
    match rowItem p a.k with
    | some i => farRead d u a (farAddr a i)
    | none =>
      let first := a.k / 17 * 16
      (List.range (min 16 (pItems p - first))).foldl (fun (st : (FRow × Bool) × Dev) j =>
        let ad := (pHdrBase p : Int) + 8 * (phraseAt p (first + j)).1
        let r := farBytes st.2 (u2 ad.toNat) a ad 8
        (({ data := BitVec.ofNat 1024 (st.1.1.data.toNat + r.1.1 <<< (64 * j)), poison := st.1.1.poison || r.1.2.1 }, st.1.2 || r.1.2.2), r.2))
        (({}, a.oor), d)
  else
    let o := 128 * p.ofs
    let at128 := fun (b : Nat) => let ad := localAddr b; farRead d (u2 ad) a (ad : Int)
    if pKind p = 1 then
      let n := groupRows p
      let g := a.k / n
      let i := a.k % n
      if pPacked p then at128 (pHbase p + o + 512 * g + 128 * i)
      else if i = 0 then
        let ad := localAddr (pHbase p + o + 64 * g)
        let r := farBytes d (u2 ad) a (ad : Int) 64
        (({ data := BitVec.ofNat 1024 r.1.1, poison := r.1.2.1 }, r.1.2.2), r.2)
      else if i < 3 then at128 (pIbase p + o + 256 * g + 128 * (i - 1))
      else at128 (pWbase p + o + (if pWfmt p = 1 then 256 else 128) * g + 128 * (i - 3))
    else if pWfmt p = 1 then at128 (pWbase p + o + 128 * a.k)
    else match rowItem p a.k with
      | none => at128 (pHbase p + o + 128 * (a.k / 17))
      | some g => at128 (pWbase p + o + 128 * g)

def putAgent (d : Dev) (u ag : Nat) (a : Agent) : Dev :=
  { d with agents := d.agents.put (agentKey u ag) (if pTotal a.prog ≤ a.k then none else some a) none }

/-- Whether an agent's stream carries rows from memory to the core. -/
def agentSends (a : Agent) : Bool := !(isPhrase a.prog && pOut a.prog)

/-- Up to n rows an agent supplies to a slot; none where it has no row to send. -/
def agentTake (d : Dev) (u ag : Nat) : Nat → List FRow → List FRow × Dev
  | 0, acc => (acc, d)
  | n + 1, acc =>
    match d.agents.get (agentKey u ag) none with
    | some a =>
      if agentSends a && decide (a.k < pTotal a.prog) then
        let r := agentRow d u a
        agentTake (putAgent r.2 u ag { a with k := a.k + 1, oor := r.1.2 }) u ag n (acc ++ [r.1.1])
      else (acc, d)
    | none => (acc, d)

/-- The headers of one header row, from data row `first` on, put into the header array (R175); a word that no memory takes is a
far fault, and so is one its controller refuses (R174). -/
def headerPut (d : Dev) (a : Agent) (row : FRow) (first : Nat) : Bool × Dev :=
  (List.range (min 16 (pItems a.prog - first))).foldl (fun (st : Bool × Dev) j =>
    let ad := (pHdrBase a.prog : Int) + 8 * (phraseAt a.prog (first + j)).1
    let base := ad.toNat / 128 * 128
    let miss := fun (d : Dev) => (true, farFault d { a with oor := st.1 } ad.toNat)
    if ad < 0 then miss st.2
    else match unitRead st.2 base (agentSrc st.2 a) with
      | (some r, d2) =>
        let v := insBits r.data.toNat (8 * (ad.toNat % 128)) 64 (bits row.data.toNat (64 * j) 64)
        let w := unitWrite d2 base { data := BitVec.ofNat 1024 v, poison := r.poison || row.poison } (agentSrc d2 a)
        if w.1 then (st.1, w.2) else miss w.2
      | (none, d2) => miss d2) (a.oor, d)

/-- A row delivered to an agent of an outbound phrase: headers go to the header array, data to memory (R174, R175). -/
def agentPut (d : Dev) (u ag : Nat) (row : FRow) : Option Dev :=
  match d.agents.get (agentKey u ag) none with
  | none => none
  | some a =>
    if agentSends a then none
    else
      let p := a.prog
      match rowItem p a.k with
      | some i =>
        let ad := farAddr a i
        if ad < 0 ∨ unitOf ad.toNat ≠ some u then
          some (putAgent (farFault d a ad.toNat) u ag { a with k := a.k + 1, oor := true })
        else
          let r := unitWrite d ad.toNat row (agentSrc d a)
          if r.1 then some (putAgent r.2 u ag { a with k := a.k + 1 })
          else some (putAgent (farFault r.2 a ad.toNat) u ag { a with k := a.k + 1, oor := true })
      | none =>
        let d1 := headerPut d a row (a.k / 17 * 16)
        some (putAgent d1.2 u ag { a with k := a.k + 1, oor := d1.1 })

/-- STREAM_OPEN (R176, R177, R254, R545): the oldest open on its way arrives; a busy agent, or agents 62 and 63, refuse. -/
def streamOpen (d : Dev) : Dev :=
  match d.opens with
  | [] => d
  | o :: os =>
    let d := { d with opens := os }
    let busy := (d.agents.get (agentKey o.unit o.agent) none).isSome
    if busy || o.agent == 63 || (decide (64 ≤ o.unit) && o.agent == 62) then
      coreFault d o.core (STR_FAULT o.core o.ch) STR_FAULT_AGENT
        { cls := 0x54, kind := 1, unit := o.core, sub := o.ch, ctx := o.prog.ctx, filler := o.prog.fill, scope := .step }
    else putAgent d o.unit o.agent { core := o.core, ch := o.ch, prog := o.prog }

/-- STREAM_CLOSE (R198): the oldest close on its way arrives; the agent writes nothing more, an open of the stream still on its
way starts none, and the channel's eviction has one agent less to wait for. -/
def streamClose (d : Dev) : Dev :=
  match d.closes with
  | [] => d
  | m :: ms =>
    let d := { d with closes := ms, opens := d.opens.filter (fun o => !(o.core == m.core && o.ch == m.ch && o.prog.sid == m.sid)) }
    let d := match d.agents.get (agentKey m.unit m.agent) none with
      | some a => if a.core = m.core ∧ a.ch = m.ch ∧ a.prog.sid = m.sid then
          { d with agents := d.agents.put (agentKey m.unit m.agent) none none } else d
      | none => d
    setChan d m.core m.ch { (chan d m.core m.ch) with closing := (chan d m.core m.ch).closing - 1 }

end Sys2Proof.Machine
end

