-- ==== Sys2Proof/Machine/Sync.lean ====
section
/-!
DEFINITION. Machine/Sync.lean: completion records as they are posted (R483, R485, R486) and the sync objects of the CN
nodes (R319-R326).
-/
namespace Sys2Proof.Machine

/- Completion records -/

/-- A record enters the device queue of 256; with the queue full, kinds 0x03 and 0x04 are dropped and counted and every
other kind waits (R485). The record of a request makes one request less active (R490). -/
def postCq (d0 : Dev) (kind status tag value detail vec : Nat) : Dev :=
  let d := if kind = 1 then setF d0 HIF_PAN_ACTIVE HIF_PAN_ACTIVE_COUNT (getF d0 HIF_PAN_ACTIVE HIF_PAN_ACTIVE_COUNT - 1) else d0
  let r : CqRec := { kind := kind, status := status, tag := tag, step := stepNo d, value := value, detail := detail,
                     modNo := getF d MOD_ID MOD_ID_MODULE_NUMBER, vec := vec }
  if d.cqQueue.length < 256 ∧ d.cqHeld = [] then
    setF { d with cqQueue := d.cqQueue ++ [r] } HIF_CQ_PEND HIF_CQ_PEND_COUNT (d.cqQueue.length + 1)
  else if kind = 3 ∨ kind = 4 then setR d HIF_CQ_DROP (getR d HIF_CQ_DROP + 1)
  else { d with cqHeld := d.cqHeld ++ [r] }

/- Sync objects -/

/-- Number of sync objects of the module (R319). -/
def nObjs : Nat := 16384

def objAddr (o : Nat) : Nat := SYNC_OBJ (o / 256) (o % 256) 0
/-- The entry of object o as one 128-bit number. -/
def objEntry (d : Dev) (o : Nat) : Nat := getWords d (objAddr o) 4
def setObj (d : Dev) (o v : Nat) : Dev := setWords d (objAddr o) 4 v

def oCount (e : Nat) : Nat := bits e 0 32
def oTarget (e : Nat) : Nat := bits e 32 32
def oCtx (e : Nat) : Nat := bits e 64 14
def oWake (e : Nat) : Bool := bit e 78
def oHost (e : Nat) : Bool := bit e 79
def oFwd (e : Nat) : Bool := bit e 80
def oStep (e : Nat) : Bool := bit e 81
def oRemoteOk (e : Nat) : Bool := bit e 82
def oVec (e : Nat) : Nat := bits e 84 6
def oRmod (e : Nat) : Nat := bits e 96 16
def oRobj (e : Nat) : Nat := bits e 112 14

/-- One bit of an object's entry set. -/
def setObjBit (d : Dev) (o i : Nat) : Dev := setObj d o (insBits (objEntry d o) i 1 1)

/-- Object o is reached (R321); one of a lost base die never is (R31). -/
def objReached (d : Dev) (o : Nat) : Bool := !baseLost d (o / 256) && decide (oTarget (objEntry d o) ≤ oCount (objEntry d o))

/-- Whether context n is a filler (R391). -/
def ctxFiller (d : Dev) (n : Nat) : Bool := ctxBits d n 2 1 == 1

/-- SYNC_WAITERS follows the wait tables (R322). -/
def syncWaiters (d : Dev) (o : Nat) : Dev :=
  setF d (SYNC_WAITERS (o / 256)) SYNC_WAITERS_COUNT ((d.waits.filter (fun w => w.1 / 256 == o / 256)).length)

/-- A waiter enters the wait table of an object (R322): cores are 0-319, the Update Engine of tile t is 320 + t. -/
def addWaiter (d : Dev) (o who : Nat) : Dev :=
  if d.waits.contains (o, who) then d else syncWaiters { d with waits := d.waits ++ [(o, who)] } o

/-- A waiter leaves the wait table. -/
def dropWaiter (d : Dev) (o who : Nat) : Dev := syncWaiters { d with waits := d.waits.filter (fun w => w != (o, who)) } o

/-- Every waiter of an object released (R322). -/
def releaseWaiters (d : Dev) (o : Nat) : Dev :=
  let who := (d.waits.filter (fun w => w.1 == o)).map (·.2)
  let d1 := syncWaiters { d with waits := d.waits.filter (fun w => w.1 != o) } o
  who.foldl (fun d w => if w < 320 then
    modCore d w (fun k => { k with run := k.run.map (fun r => if r.waitObj = some o then { r with released := true } else r) })
    else d) d1

/-- A sync fault of the node of object o: its bit for the foreground (R136, R327), the object's bit, a record of class
SYNC and a step-scope RERUN for the foreground (R320). -/
def syncFault (d : Dev) (o : Nat) (f : Fld) (objBit : Nat) (ctx : Nat) (fill : Bool) : Dev :=
  let d1 := setObjBit d o objBit
  let d2 := if fill then d1 else setB d1 (SYNC_FAULT (o / 256)) f true
  report d2 { cls := 0x55, kind := 2, unit := o / 256, sub := 14, ctx := ctx, filler := fill, addr := o, scope := .step }

/-- ERR_NACK of a sending object (R324). -/
def syncNack (d : Dev) (o : Nat) : Dev :=
  let c := oCtx (objEntry d o)
  syncFault d o SYNC_FAULT_NACK 91 c (ctxFiller d c)

/-- The actions of an object on being reached, once each (R321, R323, R324). -/
def reachActions (d : Dev) (o : Nat) : Dev :=
  let e := objEntry d o
  let d := if oWake e then releaseWaiters d o else d
  let d := if oHost e then postCq d 3 0 0 (oCount e) o (oVec e) else d
  if oFwd e then
    if oRmod e = getF d MOD_ID MOD_ID_MODULE_NUMBER then
      { d with syncFlight := d.syncFlight ++ [{ obj := oRobj e, ctx := oCtx e, amt := 1, src := 1024 + o / 256,
                                                fill := ctxFiller d (oCtx e), fromObj := some o }] }
    else { d with syncOut := d.syncOut ++ [{ rmod := oRmod e, robj := oRobj e, fromObj := o }] }
  else d

/-- One increment applied at its node (R31, R320, R321). -/
def applyInc (d : Dev) (i : SyncInc) : Dev :=
  if nObjs ≤ i.obj ∨ baseLost d (i.obj / 256) then d
  else
    let e := objEntry d i.obj
    if !i.remote && i.ctx != oCtx e then
      let d1 := syncFault d i.obj SYNC_FAULT_CTX 93 i.ctx i.fill
      match i.fromObj with
      | some s => syncNack d1 s
      | none => d1
    else
      let c := oCount e + i.amt
      let d := setObj d i.obj (insBits e 0 32 (min c 0xFFFFFFFF))
      let d := if 0xFFFFFFFF < c then syncFault d i.obj SYNC_FAULT_OVF 92 (oCtx e) (if i.remote then ctxFiller d (oCtx e) else i.fill) else d
      if objReached d i.obj && !bit e 90 then reachActions (setObjBit d i.obj 90) i.obj else d

/-- An increment leaves a source over the control network (R226, R320). -/
def sendInc (d : Dev) (i : SyncInc) : Dev := { d with syncFlight := d.syncFlight ++ [i] }

/-- SYNC_INCREMENT (R320): the n-th increment on its way arrives at its node. One from the same source to the same object
that was sent earlier must arrive first. -/
def syncIncrement (n : Nat) (d : Dev) : Dev :=
  match d.syncFlight[n]? with
  | none => d
  | some i =>
    if (d.syncFlight.take n).any (fun j => j.src == i.src && j.obj == i.obj) then d
    else applyInc { d with syncFlight := d.syncFlight.eraseIdx n } i

/-- The objects of the tiles that list a word of any: every other object's entry is 0. -/
def listedObjs (d : Dev) : List Nat :=
  ((List.range 64).filter (fun t => d.regs.any (fun c => decide (objAddr (256 * t) ≤ c.1) && decide (c.1 < objAddr (256 * t) + 4096)))).flatMap
    (fun t => (List.range 256).map (fun j => 256 * t + j))

/-- Objects of context n reset as R325 says: COUNT 0, REACHED and the error bits clear, on those with STEP set. -/
def stepResetObjs (d : Dev) (ctx : Nat) : Dev :=
  (listedObjs d).foldl (fun d o =>
    let e := objEntry d o
    if oStep e && oCtx e == ctx then setObj d o (insBits (insBits e 0 32 0) 90 4 0) else d) d

end Sys2Proof.Machine
end

