-- ==== Sys2Proof/Machine/Fun.lean ====
section
/-!
DEFINITION. Machine/Fun.lean: the correctly rounded functions of the vector unit (R129, R130).

exp, exp2, log2, tanh, sigmoid and gelu are enclosed between two dyadic numbers computed in fixed point with p fraction
bits; p grows until both ends round to one code. Reciprocal and the roots are exact to a sticky bit.
-/
namespace Sys2Proof.Machine

/-- ln 2 x 2^p, from 2 atanh(1/3). -/
def ln2Fix (p : Nat) : Nat :=
  ((List.range (p / 3 + 2)).foldl (fun (a : Nat × Nat) i => (a.1 / 9, a.2 + a.1 / (2 * i + 1))) (2 ^ (p + 1) / 3, 0)).2

/-- atan(1/n) x 2^p. -/
def atanInvFix (p n : Nat) : Int :=
  ((List.range (p / 4 + 2)).foldl
    (fun (a : Nat × Int) i => (a.1 / (n * n), a.2 + (if i % 2 = 0 then 1 else -1) * ((a.1 / (2 * i + 1) : Nat) : Int)))
    (2 ^ p / n, 0)).2

/-- pi x 2^p, from 16 atan(1/5) - 4 atan(1/239). -/
def piFix (p : Nat) : Nat := (16 * atanInvFix p 5 - 4 * atanInvFix p 239).toNat

/-- e^(r / 2^p) x 2^p for r below 2^p. -/
def expFrac (p r : Nat) : Nat :=
  ((List.range (p / 3 + 8)).foldl
    (fun (a : Nat × Nat) i => let t := (a.1 * r) >>> p / (i + 1); (t, a.2 + t)) (2 ^ p, 2 ^ p)).2

/-- The error allowed for in every fixed-point result, in units of 2^-p of its scale. -/
def fixErr : Nat := 2 ^ 20

/-- e^(X / 2^p), enclosed. -/
def expIv (p : Nat) (x : Int) : Num × Num :=
  let l := (ln2Fix p : Int)
  let k := x / l
  let v := expFrac p (x - k * l).toNat
  (.fin false (v - fixErr) (k - p), .fin false (v + fixErr) (k - p))

/-- A finite value x 2^p, toward minus infinity. -/
def toFix (p : Nat) (x : Num) : Int :=
  match x with
  | .fin s m e =>
    let q := e + p
    if 0 ≤ q then sInt s (m <<< q.toNat) else (sInt s m) / ((2 ^ (-q).toNat : Nat) : Int)
  | _ => 0

/-- a / b for positive finite values, enclosed to p bits. -/
def divIv (p : Nat) (a b : Num) : Num × Num :=
  match a, b with
  | .fin _ m e, .fin _ n f =>
    let k := p + Nat.log2 n + 1 - Nat.log2 m
    let q := (m <<< k) / max n 1
    (.fin false q (e - f - k), .fin false (q + 1) (e - f - k))
  | x, _ => (x, x)

/-- 1 / (1 + e^-w) for w enclosed between two values of |w| below 2^15, each x 2^p (R129 sigmoid). -/
def sigIv (p : Nat) (wl wh : Int) : Num × Num :=
  let one := oneNum
  let el := (expIv p (-wh)).1
  let eh := (expIv p (-wl)).2
  if wl < 0 then
    -- e^w / (1 + e^w), which keeps small results precise
    let a := (expIv p wl).1
    let b := (expIv p wh).2
    ((divIv p a (addNum one a)).1, (divIv p b (addNum one b)).2)
  else ((divIv p one (addNum one eh)).1, (divIv p one (addNum one el)).2)

/-- The first of the given precisions at which both ends of the enclosure round to one code. -/
def ziv (F : Fmt) (f : Nat → Num × Num) : List Nat → Nat
  | [] => encodeNum F .rne (f 1024).1
  | p :: t =>
    let iv := f p
    let lo := encodeNum F .rne iv.1
    if lo = encodeNum F .rne iv.2 then lo else ziv F f t

def zivSteps : List Nat := [112, 224, 448, 896]

def bigNum (s : Bool) : Num := .fin s 1 4000
def tinyNum (s : Bool) : Num := .fin s 1 (-4000)

/-- |x| of a nonzero finite value is at least 2^k. -/
def atLeast (x : Num) (k : Int) : Bool := decide (k ≤ expOf x)

def expCode (F : Fmt) (x : Num) : Nat :=
  match x with
  | .nan => canonNaN F
  | .inf s => if s then 0 else encodeNum F .rne (.inf false)
  | .fin s m e =>
    if m = 0 then encodeNum F .rne oneNum
    else if atLeast (.fin s m e) 11 then encodeNum F .rne (if s then tinyNum false else bigNum false)
    else ziv F (fun p => expIv p (toFix p (.fin s m e))) zivSteps

def exp2Code (F : Fmt) (x : Num) : Nat :=
  match x with
  | .nan => canonNaN F
  | .inf s => if s then 0 else encodeNum F .rne (.inf false)
  | .fin s m e =>
    if m = 0 then encodeNum F .rne oneNum
    else if atLeast (.fin s m e) 11 then encodeNum F .rne (if s then tinyNum false else bigNum false)
    else if 0 ≤ e then encodeNum F .rne (.fin false 1 (sInt s (m <<< e.toNat)))
    else if m % 2 ^ (-e).toNat = 0 then encodeNum F .rne (.fin false 1 (sInt s (m >>> (-e).toNat)))
    else ziv F (fun p =>
      let X := toFix p (.fin s m e)
      let k := X / ((2 ^ p : Nat) : Int)
      let fr := (X - k * ((2 ^ p : Nat) : Int)).toNat
      let iv := expIv p ((fr * ln2Fix p) >>> p : Nat)
      (scaleNum iv.1 k, scaleNum iv.2 k)) zivSteps

/-- ln(y) x 2^p for y x 2^p in [2^p, 2^(p+1)), from 2 atanh((y-1)/(y+1)). -/
def lnFix (p y : Nat) : Nat :=
  let z := ((y - 2 ^ p) <<< p) / (y + 2 ^ p)
  let z2 := (z * z) >>> p
  ((List.range (p / 3 + 2)).foldl
    (fun (a : Nat × Nat) i => ((a.1 * z2) >>> p, a.2 + a.1 / (2 * i + 1))) (2 * z, 0)).2

def log2Code (F : Fmt) (x : Num) : Nat :=
  match x with
  | .nan => canonNaN F
  | .inf s => if s then canonNaN F else encodeNum F .rne (.inf false)
  | .fin s m e =>
    if m = 0 then encodeNum F .rne (.inf true)
    else if s then canonNaN F
    else
      let g := Nat.log2 m
      if m = 2 ^ g then encodeNum F .rne (intNum (e + g))
      else ziv F (fun p =>
        let y := if g ≤ p then m <<< (p - g) else m >>> (g - p)
        let v := ((e + g) * ((2 ^ p : Nat) : Int)) + ((((lnFix p y) <<< p) / ln2Fix p : Nat) : Int)
        let a := v - fixErr
        let b := v + fixErr
        (.fin (decide (a < 0)) a.natAbs (-(p : Int)), .fin (decide (b < 0)) b.natAbs (-(p : Int)))) zivSteps

def tanhCode (F : Fmt) (x : Num) : Nat :=
  match x with
  | .nan => canonNaN F
  | .inf s => encodeNum F .rne (.fin s 1 0)
  | .fin s m e =>
    if m = 0 then encodeNum F .rne (.fin s 0 0)
    else
      let a := Num.fin false m e
      let pos :=
        if atLeast a 7 then encodeNum F .rne oneNum
        else if !atLeast a (-14) then
          -- x - x^3/3 < tanh x < x - x^3/3 + x^5
          let x3 := mulNum a (mulNum a a)
          let third := divIv 64 x3 (.fin false 3 0)
          ziv F (fun _ => (subNum a third.2, addNum (subNum a third.1) (mulNum x3 (mulNum a a)))) zivSteps
        else ziv F (fun p =>
          let w := toFix p (scaleNum a 1)
          let iv := expIv p w
          let f := fun (y : Num) => divIv p (subNum y oneNum) (addNum y oneNum)
          ((f iv.1).1, (f iv.2).2)) zivSteps
      if s then (if pos = 0 then encodeNum F .rne (.fin true 0 0) else pos + 2 ^ F.mag) else pos

def sigmCode (F : Fmt) (x : Num) : Nat :=
  match x with
  | .nan => canonNaN F
  | .inf s => if s then 0 else encodeNum F .rne oneNum
  | .fin s m e =>
    if m = 0 then encodeNum F .rne (.fin false 1 (-1))
    else if atLeast (.fin s m e) 11 then (if s then encodeNum F .rne (tinyNum false) else encodeNum F .rne oneNum)
    else ziv F (fun p => let w := toFix p (.fin s m e); sigIv p w (w + 1)) zivSteps

/-- gelu(x) = x / (1 + e^-w), w = 2 sqrt(2/pi) (x + 0.044715 x^3), all constants exact reals (R129). -/
def geluCode (F : Fmt) (x : Num) : Nat :=
  match x with
  | .nan => canonNaN F
  | .inf s => if s then encodeNum F .rne (.fin true 0 0) else encodeNum F .rne (.inf false)
  | .fin s m e =>
    if m = 0 then encodeNum F .rne (.fin s 0 0)
    else if atLeast (.fin s m e) 6 then (if s then encodeNum F .rne (tinyNum true) else encodeNum F .rne (.fin s m e))
    else
      let a := Num.fin false m e
      let pos := ziv F (fun p =>
        let c := isqrt ((8 <<< (3 * p)) / piFix p)
        let ax := (toFix p a).toNat
        let x3 := (((ax * ax) >>> p) * ax) >>> p
        let u := ax + x3 * 44715 / 1000000
        let w := ((c * u) >>> p : Nat)
        let err : Int := 2 ^ 18
        let iv := if s then sigIv p (-(w : Int) - err) (-(w : Int) + err) else sigIv p ((w : Int) - err) ((w : Int) + err)
        (mulNum a iv.1, mulNum a iv.2)) zivSteps
      if s then (if pos = 0 then encodeNum F .rne (.fin true 0 0) else pos + 2 ^ F.mag) else pos

/-- Reciprocal: 1 / x (R130). -/
def rcpNum (x : Num) : Num := divNum 80 oneNum x

/-- Reciprocal square root (R130): NaN of a negative value, an infinity with the zero's sign. -/
def rsqrtNum (x : Num) : Num :=
  match x with
  | .nan => .nan
  | .inf s => if s then .nan else zeroNum
  | .fin s m e =>
    if m = 0 then .inf s
    else if s then .nan
    else
      -- 1 / sqrt(m 2^e) = 2^-j sqrt(2^k / m), the square root floored with a sticky bit
      let k0 := 120 + Nat.log2 m
      let k := if ((k0 : Int) + e) % 2 = 0 then k0 else k0 + 1
      let q := (1 <<< k) / m
      let r := isqrt q
      let st := if r * r * m = 1 <<< k then 0 else 1
      .fin false (2 * r + st) (-((e + k) / 2) - 1)

end Sys2Proof.Machine
end

