-- ==== Sys2Proof/Machine/VecCalc.lean ====
section
/-!
DEFINITION. Machine/VecCalc.lean: what the vector unit computes from the rows it has read (R77, R83-R89, R128-R133,
R218, R219, R549). A row of values is the list of its 128 lanes.
-/
namespace Sys2Proof.Machine

/-- One row of lanes and its poison bit. -/
abbrev LaneRow := List Num × Bool

/-- The format a FMT bit names (R218). -/
def fmtOf (f16 : Bool) : Fmt := if f16 then fSdx16 else fSdx32

/-- x rounded to format F and read back. -/
def rd (F : Fmt) (x : Num) : Num := decodeNum F (encodeNum F .rne x)

/-- An element-wise result code (R129, R130, R218). -/
def vecElem (fn : VecFn) (F : Fmt) (a b d : Num) : Nat :=
  match fn with
  | .vadd => encodeNum F .rne (addNum a b)
  | .vsub => encodeNum F .rne (subNum a b)
  | .vmul => encodeNum F .rne (mulNum a b)
  | .vfma => encodeNum F .rne (addNum (mulNum a b) d)
  | .vmax => encodeNum F .rne (maxNum a b)
  | .vmin => encodeNum F .rne (minNum a b)
  | .vrcp => encodeNum F .rne (rcpNum a)
  | .vrsqrt => encodeNum F .rne (rsqrtNum a)
  | .vsqrt => encodeNum F .rne (sqrtNum 80 a)
  | .vexp => expCode F a
  | .vexp2 => exp2Code F a
  | .vlog2 => log2Code F a
  | .vtanh => tanhCode F a
  | .vsigm => sigmCode F a
  | .vgelu => geluCode F a
  | _ => encodeNum F .rne a

/-- Whether B takes part in an element-wise operation (R218). -/
def usesB : VecFn → Bool
  | .vadd | .vsub | .vmul | .vfma | .vmax | .vmin => true
  | _ => false

/-- The operands an element-wise result depends on, for the latch (R100). -/
def vecOperands (fn : VecFn) (a b d : Num) : List Num :=
  if fn = .vfma then [a, b, d] else if usesB fn then [a, b] else [a]

/-- What an operation leaves: rows for D, rows for B (VTOPK's values), and whether it sets the latch. -/
structure VecOut where
  rows : List (List Nat × Bool) := []
  brows : List (List Nat × Bool) := []
  latch : Bool := false
  deriving DecidableEq, Repr

/-- Three rows zipped lane by lane. -/
def zip3 (a b d : List Num) : List (Num × Num × Num) := (a.zip (b.zip d))

/-- An element-wise operation over its rows (R129, R208, R218). -/
def vecElementwise (fn : VecFn) (F : Fmt) (as bs ds : List LaneRow) : VecOut :=
  let rs := (as.zip (bs.zip ds)).map (fun r =>
    let ops := zip3 r.1.1 r.2.1.1 r.2.2.1
    let cs := ops.map (fun t => vecElem fn F t.1 t.2.1 t.2.2)
    let p := r.1.2 || (usesB fn && r.2.1.2) || (fn == .vfma && r.2.2.2)
    let l := (ops.zip cs).any (fun oc => latches (vecOperands fn oc.1.1 oc.1.2.1 oc.1.2.2) (decodeNum F oc.2))
    ((cs, p), l))
  { rows := rs.map (·.1), latch := rs.any (·.2) }

/-- The values of lane t of each row, ascending. -/
def laneOf (rows : List LaneRow) (t : Nat) : List Num := rows.map (fun r => r.1.getD t zeroNum)

/-- Rows from per-lane columns of codes. -/
def rowsOfCols (n : Nat) (cols : List (List Nat)) : List (List Nat) :=
  (List.range n).map (fun r => cols.map (fun c => c.getD r 0))

/-- The poison every row of a whole-operand operation carries (R208). -/
def anyPoison (rows : List LaneRow) : Bool := rows.any (·.2)

/-- VSUM: each lane's sum over A's rows, each addition rounded (R218). -/
def vecSum (F : Fmt) (as : List LaneRow) : VecOut :=
  let cols := (List.range 128).map (fun t =>
    let xs := laneOf as t
    let c := match xs with
      | [] => 0
      | x :: rest => encodeNum F .rne (rest.foldl (fun s y => rd F (addNum s y)) (rd F x))
    (c, latches xs (decodeNum F c)))
  { rows := [(cols.map (·.1), anyPoison as)], latch := cols.any (·.2) }

/-- VMAXR: each lane's fold under R88 (R218). -/
def vecMaxr (F : Fmt) (as : List LaneRow) : VecOut :=
  let cols := (List.range 128).map (fun t =>
    let xs := laneOf as t
    let c := encodeNum F .rne (xs.foldl maxNum .nan)
    (c, latches xs (decodeNum F c)))
  { rows := [(cols.map (·.1), anyPoison as)], latch := cols.any (·.2) }

/-- One lane of SOFTMAX (R131): its result codes, from the elements as each of its three passes read them. -/
def softmaxLane (F : Fmt) (xs ys zs : List Num) : List Nat :=
  let m := xs.foldl maxNum .nan
  if m = .inf true then zs.map (fun _ => 0)
  else
    let ex := fun (x : Num) => decodeNum F (expCode F (rd F (subNum x m)))
    let s := match ys.map ex with
      | [] => zeroNum
      | e :: rest => rest.foldl (fun a y => rd F (addNum a y)) e
    let r := rd F (rcpNum s)
    zs.map (fun z => encodeNum F .rne (mulNum (ex z) r))

/-- VSOFTMAX (R131). -/
def vecSoftmax (F : Fmt) (a1 a2 a3 : List LaneRow) : VecOut :=
  let cols := (List.range 128).map (fun t => let xs := laneOf a1 t; (xs, softmaxLane F xs (laneOf a2 t) (laneOf a3 t)))
  let p := anyPoison a1 || anyPoison a2 || anyPoison a3
  { rows := (rowsOfCols a3.length (cols.map (·.2))).map (fun r => (r, p)),
    latch := cols.any (fun c => c.2.any (fun k => latches c.1 (decodeNum F k))) }

/-- Sum in SDX32 in ascending order, each addition rounded (R132). -/
def sum32 (xs : List Num) : Num :=
  match xs with
  | [] => zeroNum
  | x :: rest => rest.foldl (fun s y => rd fSdx32 (addNum s y)) x

/-- x / n rounded to SDX32. -/
def mean32 (x : Num) (n : Nat) : Num := rd fSdx32 (divNum 80 x (.fin false n 0))

/-- One lane of RMSNORM (R132): epsilon, scale by row, and the elements as each of its two passes read them.
Intermediate values are held in SDX32 (log 14). -/
def rmsLane (F : Fmt) (eps : Num) (scale xs ys : List Num) : List Nat :=
  let ms := mean32 (sum32 (xs.map (fun x => rd fSdx32 (mulNum x x)))) xs.length
  let r := rd fSdx32 (rsqrtNum (rd fSdx32 (addNum ms eps)))
  (ys.zip scale).map (fun p => encodeNum F .rne (mulNum (rd fSdx32 (mulNum p.1 r)) p.2))

/-- One lane of LAYERNORM (R132): epsilon, scale and shift by row, and the elements of its three passes (log 14). -/
def lnLane (F : Fmt) (eps : Num) (scale shift xs ys zs : List Num) : List Nat :=
  let mu := mean32 (sum32 xs) xs.length
  let dev := fun (x : Num) => rd fSdx32 (subNum x mu)
  let vr := mean32 (sum32 (ys.map (fun x => rd fSdx32 (mulNum (dev x) (dev x))))) ys.length
  let r := rd fSdx32 (rsqrtNum (rd fSdx32 (addNum vr eps)))
  (zs.zip (scale.zip shift)).map (fun p =>
    encodeNum F .rne (addNum (rd fSdx32 (mulNum (rd fSdx32 (mulNum (dev p.1) r)) p.2.1)) p.2.2))

/-- VRMSNORM (two passes) and VLNORM (three) from A's rows and the per-row scale and shift (R132). -/
def vecNorm (F : Fmt) (ln : Bool) (eps : Num) (a1 a2 a3 : List LaneRow) (scale shift : List Num) (bPoison : Bool) : VecOut :=
  let cols := (List.range 128).map (fun t =>
    let xs := laneOf a1 t
    (xs, if ln then lnLane F eps scale shift xs (laneOf a2 t) (laneOf a3 t) else rmsLane F eps scale xs (laneOf a2 t)))
  let p := anyPoison a1 || anyPoison a2 || anyPoison a3 || bPoison
  { rows := (rowsOfCols a1.length (cols.map (·.2))).map (fun r => (r, p)),
    latch := cols.any (fun c => c.2.any (fun k => latches (eps :: (c.1 ++ scale ++ shift)) (decodeNum F k))) }

/-- Whether key a ranks strictly before key b: larger first, NaN below minus infinity (R89). -/
def rankBefore (a b : Num) : Bool := (isNaN b && !isNaN a) || ltNum b a

/-- The index of the best key of a list, lowest index first among equals (R89); entries already taken are none. -/
def bestKey (xs : List (Option Num)) : Nat :=
  ((xs.zip (List.range xs.length)).foldl (fun (acc : Option (Num × Nat)) x =>
    match x.1, acc with
    | none, a => a
    | some v, none => some (v, x.2)
    | some v, some (w, i) => if rankBefore v w then some (v, x.2) else some (w, i)) none).elim 0 (·.2)

/-- The k best indices of a lane, in rank order (R133). -/
def topkLane : Nat → List (Option Num) → List Nat
  | 0, _ => []
  | k + 1, xs => let i := bestKey xs; i :: topkLane k (xs.set i none)

/-- VTOPK: index rows for D and value rows for B (R133). -/
def vecTopk (F : Fmt) (k : Nat) (as : List LaneRow) : VecOut :=
  let cols := (List.range 128).map (fun t =>
    let xs := laneOf as t
    let is := topkLane k (xs.map some)
    (is, is.map (fun i => encodeNum F .rne (xs.getD i .nan))))
  let p := anyPoison as
  { rows := (rowsOfCols k (cols.map (·.1))).map (fun r => (r, p)),
    brows := (rowsOfCols k (cols.map (·.2))).map (fun r => (r, p)),
    latch := cols.any (fun c => c.2.any (fun v => isNaN (decodeNum F v))) }

/-- The four blocks of 32 lanes of a row (R81). -/
def blocksOf {α : Type} (xs : List α) : List (List α) := (List.range 4).map (fun k => (xs.drop (32 * k)).take 32)

/-- The headers of a row of an 8-bit logical row's side field. -/
def hdrAt (h k : Nat) : Nat := bits h (16 * k) 16

/-- VSCAN's side field for one row (R83). -/
def scanRow (g : Bool) (xs : List Num) : Nat :=
  (blocksOf xs).zip (List.range 4) |>.foldl (fun acc b => acc + (scanHdr g b.1) <<< (16 * b.2)) 0

/-- The values of an 8-bit row under its side field: each block in the format its header names (R80, R115). -/
def decodeRow8 (codes : List Nat) (hdr : Nat) : List Num :=
  ((blocksOf codes).zip (List.range 4)).flatMap (fun b =>
    let h := hdrAt hdr b.2
    b.1.map (decode8 (hdrFmtG h) h))

/-- The codes of one row converted to SDX8 with the headers of a side field (R84, R549). -/
def encodeRow8 (g : Bool) (hdr : Nat) (xs : List (Rnd × Num)) : List Nat :=
  ((blocksOf xs).zip (List.range 4)).flatMap (fun b => encodeBlock g (hdrAt hdr b.2) b.1)

/-- Some block of a side field fails the check of R82 for the target format. -/
def hdrRowBad (g : Bool) (hdr : Nat) : Bool := (List.range 4).any (fun k => !hdrOk g (hdrAt hdr k))

/-- Some block of a side field has a nonzero reserved field (R82). -/
def hdrRowRsvd (hdr : Nat) : Bool := (List.range 4).any (fun k => hdrRsvd (hdrAt hdr k) != 0)

end Sys2Proof.Machine
end

