-- ==== Sys2Proof/Machine/Pipes.lean ====
section
/-!
DEFINITION. Machine/Pipes.lean: the operations of the matrix, vector and move pipes: the rows each touches and when
(R120, R123, R157, R218-R222, R546, R547), what each computes from the rows it read, the clause port's conflicts (R139),
and how results land.
-/
namespace Sys2Proof.Machine

/- Names of operations (R453) -/

def slotNo : SlotOp → Nat
  | .mat _ => 0
  | .vec _ => 1
  | .mov _ => 2

def slotWord : SlotOp → Nat
  | .mat o => o.toWord.toNat
  | .vec o => o.toWord.toNat
  | .mov o => o.toWord.toNat

/-- OPER of a core's record: bundle index, opcode, slot (R453). -/
def operOf (bundle slot word : Nat) : Nat := fv 0 13 bundle + fv 13 6 word + fv 19 2 slot

/-- Whether the running clause of core c is a filler's, and its context. -/
def runWho (d : Dev) (c : Nat) : Bool × Nat :=
  match (core d c).run with
  | some r => (r.fill, r.ctx)
  | none => (false, 0)

/-- An operation as the shelf's clause port sees it. -/
def opWho (d : Dev) (c : Nat) (o : POp) : ShfWho :=
  { c := c, fill := (runWho d c).1, ctx := (runWho d c).2, port := 1, oper := operOf o.bundle (slotNo o.op) (slotWord o.op) }

/-- A fault of an operation beside the shelf's: its bit, its record, a step-scope RERUN. -/
def opFault (d : Dev) (c : Nat) (o : POp) (a : Nat) (f : Fld) (cls : Nat) : Dev :=
  let w := opWho d c o
  coreFault d c a f { cls := cls, kind := 1, unit := c, ctx := w.ctx, filler := w.fill, oper := w.oper, scope := .step }

/- Operand rows -/

def POp.x (o : POp) (i : Nat) : Nat := o.xs.getD i 0
def POp.h (o : POp) (i : Nat) : Nat := o.hs.getD i 0

/-- The accesses of n logical rows from `row` through handle entry h, in physical-index order; the k-th physical row in
the cycle cycOf k (R150, R152). -/
def rowAccs (h row n opnd pass : Nat) (wr : Bool) (cycOf : Nat → Nat) : List PortAcc :=
  (List.range (n * hW h)).map (fun k =>
    let l := hLoc h (hW h * row + k)
    { opnd := opnd, pass := pass, idx := hW h * row + k, cyc := cycOf k, bank := l.1, row := l.2, wr := wr,
      drop := !hIn h (row + k / hW h) || (wr && hWp h) })

/-- The four parts of vector register i. -/
def vregAccs (i opnd pass : Nat) (wr : Bool) (cyc : Nat) : List PortAcc :=
  (List.range 4).map (fun j => { opnd := opnd, pass := pass, idx := j, cyc := cyc, bank := 128 + i, row := j, wr := wr })

/-- The accesses of a vector operand field: the extent in X for 0 to 47 (its n rows; row q in cycle cycOf q), or a vector
register (R218). -/
def operandAccs (f x h n opnd pass : Nat) (wr : Bool) (cycOf : Nat → Nat) : List PortAcc :=
  if 48 ≤ f then vregAccs (f - 48) opnd pass wr (cycOf 0)
  else rowAccs h (extRow x) n opnd pass wr (fun k => cycOf (k / hW h))

/-- A plan: whether the operation has a shape error (R220), the cycles it occupies its pipe, and its accesses. -/
structure Plan where
  shape : Bool := false
  occ : Nat := 1
  accs : List PortAcc := []
  deriving DecidableEq, Repr

/- Vector operations -/

/-- Rows a row operand of N elements needs (R219). -/
def perRow (n : Nat) : Nat := ceilDiv n 128

/-- Source or target width of an operand: a vector register is SDX32 (R549). -/
def opWidth (f h : Nat) : Nat := if 48 ≤ f then 2 else hWidth h

/-- The row count N of an operation: A's, or D's where A is a vector register (R218). -/
def vecRows (fn : VecFn) (a d xa xd : Nat) : Nat :=
  if a < 48 then extN xa
  else if fn = .vsum ∨ fn = .vmaxr then 1
  else if d < 48 then extN xd else 1

/-- Rows per group (R221). DESIGN CHOICE (log 101): r is 8 where neither source nor target of a VCVT or VSCAN is wider than SDX8. -/
def vecR (fn : VecFn) (f16 : Bool) (aw dw : Nat) : Nat :=
  match fn with
  | .vcvt => if aw = 2 ∨ dw = 2 then 4 else 8
  | .vscan => if aw = 2 then 4 else 8
  | _ => if f16 then 8 else 4

/-- Shape errors (R220, R549). DESIGN CHOICE (log 101): R133 leaves open a VTOPK with fewer key rows than ranks; it is one here. -/
def vecShapeBad (fn : VecFn) (f16 : Bool) (a b d md xa xb xd ha hb hd n : Nat) : Bool :=
  let want := if f16 then 1 else 2
  let wa := a < 48 && hWidth ha != want
  let wb := b < 48 && hWidth hb != want
  let wd := d < 48 && hWidth hd != want
  let nd := fun (k : Nat) => if d < 48 then extN xd != k else k != 1
  let na := a < 48 && extN xa != n
  let perB := if b < 48 then extN xb != perRow n else decide (128 < n)
  match fn with
  | .vcvt =>
    let sw := opWidth a ha
    let tw := hWidth hd
    d ≥ 48 || sw == 3 || tw == 3 || (sw == tw && sw != 0) || (tw == 0 && !hHdr hd) || nd n || na
  | .vscan => d ≥ 48 || !hHdr hd || hWidth hd != 0 || opWidth a ha == 3 || nd n || na
  | .vsum | .vmaxr => wa || wd || nd 1
  | .vsoftmax => wa || wd || nd n || na || decide (1024 < n)
  | .vrmsnorm => wa || wb || wd || nd n || na || perB
  | .vlnorm => wa || wb || wd || nd n || na || decide (48 ≤ b) || perB
  | .vtopk =>
    let k := bits md 0 3 + 1
    wa || wb || decide (48 ≤ d) || hWidth hd != 1 || nd k || (if b < 48 then extN xb != k else k != 1) ||
      decide (n < 2) || decide (1024 < n) || decide (n < k)
  | _ =>
    wa || wd || nd n || na ||
      (usesB fn && (wb || (if bit md 0 then perB else b < 48 && extN xb != n)))

/-- Cycles the vector pipe is occupied (R133, R221). -/
def vecOcc (fn : VecFn) (n r k : Nat) : Nat :=
  let g := ceilDiv n r
  match fn with
  | .vmax | .vmin | .vmov | .vcvt | .vscan | .vsum | .vmaxr => g
  | .vsoftmax => 5 * g + 16
  | .vrmsnorm => 3 * g + 24
  | .vlnorm => 4 * g + 24
  | .vtopk => ceilDiv n 4 + 4 * k + 32
  | _ => 2 * g

/-- The plan of a vector operation (R546). -/
def vecPlan (o : VecOp) (p : POp) : Plan :=
  match o with
  | .nop => {}
  | .op fn fmt a b d m =>
    let f16 := fmt == 1
    let a := a.toNat; let b := b.toNat; let dd := d.toNat; let md := m.toNat
    let xa := p.x 0; let xb := p.x 1; let xd := p.x 2
    let ha := p.h 0; let hb := p.h 1; let hd := p.h 2
    let n := vecRows fn a dd xa xd
    let r := vecR fn f16 (opWidth a ha) (opWidth dd hd)
    let k := bits md 0 3 + 1
    let occ := vecOcc fn n r k
    let g := ceilDiv n r
    if vecShapeBad fn f16 a b dd md xa xb xd ha hb hd n then { shape := true, occ := occ }
    else
      let rdA := fun (pass : Nat) (cy : Nat → Nat) => operandAccs a xa ha n 0 pass false (fun q => cy (q / r))
      let rdD := fun (cy : Nat → Nat) => operandAccs dd xd hd n 2 0 false (fun q => cy (q / r))
      let wrD := fun (rows : Nat) (cy : Nat → Nat) => operandAccs dd xd hd rows 2 0 true (fun q => cy (q / r))
      -- a per-row operand is read with the first group that uses each of its rows (R219, R546)
      let rdRow := fun (first pass : Nat) (cy : Nat → Nat) =>
        if 48 ≤ b then vregAccs (b - 48) 1 pass false (cy 0)
        else rowAccs hb first (perRow n) 1 pass false (fun i => cy (128 * (i / hW hb) / r))
      let full := fun (g : Nat) => g
      let half := fun (g : Nat) => 2 * g
      match fn with
      | .vcvt => { occ := occ, accs := rdA 0 full ++ (if hWidth hd = 0 then rdD full else []) ++ wrD n (fun g => g + 8) }
      | .vscan => { occ := occ, accs := rdA 0 full ++ wrD n (fun g => g + 8) }
      | .vsum | .vmaxr => { occ := occ, accs := rdA 0 full ++ operandAccs dd xd hd 1 2 0 true (fun _ => g + 7) }
      | .vsoftmax =>
        { occ := occ, accs := rdA 0 full ++ rdA 1 (fun i => g + 2 * i) ++ rdA 2 (fun i => 3 * g + 16 + 2 * i) ++
            wrD n (fun i => 3 * g + 16 + 2 * i + 9) }
      | .vrmsnorm =>
        let c2 := fun (i : Nat) => g + 24 + 2 * i
        { occ := occ, accs := rdA 0 full ++ rdA 1 c2 ++ rdRow (extRow xb) 0 c2 ++ wrD n (fun i => c2 i + 9) }
      | .vlnorm =>
        let c3 := fun (i : Nat) => 2 * g + 24 + 2 * i
        { occ := occ, accs := rdA 0 full ++ rdA 1 (fun i => g + i) ++ rdA 2 c3 ++ rdRow (extRow xb) 0 c3 ++
            rdRow (extRow xb + perRow n) 1 c3 ++ wrD n (fun i => c3 i + 9) }
      | .vtopk =>
        let w := fun (j : Nat) => ceilDiv n 4 + 4 * j + 43
        { occ := occ, accs := operandAccs a xa ha n 0 0 false (fun q => q / 4) ++
            operandAccs b xb hb k 1 0 true w ++ operandAccs dd xd hd k 2 0 true w }
      | _ =>
        let isFull := fn == .vmax || fn == .vmin || fn == .vmov
        let cy := if isFull then full else half
        { occ := occ,
          accs := rdA 0 cy ++
            (if usesB fn then (if bit md 0 then rdRow (extRow xb) 0 cy
               else operandAccs b xb hb n 1 0 false (fun q => cy (q / r))) else []) ++
            (if fn = .vfma then rdD cy else []) ++ wrD n (fun i => cy i + (if isFull then 8 else 9)) }

/- Reading operands back -/

/-- A list cut into pieces of w. -/
def pieces {α : Type} (w : Nat) : Nat → List α → List (List α)
  | 0, _ => []
  | k + 1, l => if l = [] then [] else l.take w :: pieces w k (l.drop w)

/-- The reads of an operand in one pass, in order. -/
def opndReads (accs : List PortAcc) (opnd pass : Nat) : List PortAcc :=
  accs.filter (fun a => !a.wr && a.opnd == opnd && a.pass == pass)

/-- One logical row from its physical rows. -/
def joinRow (l : List PortAcc) : Nat := l.foldr (fun a acc => a.data.toNat + acc <<< 1024) 0

/-- The lanes of one logical row of element width w (R149): its values, its poison, and for an 8-bit row whether its
headers fail the check that names no format (R82, R143). -/
def laneRow (w : Nat) (hdrOn : Bool) (l : List PortAcc) : LaneRow × Bool :=
  let v := joinRow l
  let p := l.any (·.poison)
  if w = 2 then (((unpackElems 32 128 v).map (decodeNum fSdx32), p), false)
  else if w = 1 then (((unpackElems 16 128 v).map (decodeNum fSdx16), p), false)
  else
    let h := if hdrOn then (l.headD { opnd := 0, idx := 0, cyc := 0, bank := 0, row := 0, wr := false }).hdr.toNat else 0
    ((decodeRow8 (unpackElems 8 128 v) h, p), !hdrOn || hdrRowRsvd h)

/-- The rows of operand field f in one pass, each with its header check; a vector register stands for n rows and is
rounded for an SDX16 operation (R218, R220). -/
def opndRows (accs : List PortAcc) (f h opnd pass n : Nat) (f16 : Bool) : List (LaneRow × Bool) :=
  let as := opndReads accs opnd pass
  if 48 ≤ f then
    let r := (laneRow 2 false as).1
    let r := if f16 then (r.1.map (rd fSdx16), r.2) else r
    List.replicate n (r, false)
  else (pieces (hW h) as.length as).map (laneRow (hWidth h) (hdrRead h))

/-- The elements of a per-row operand: element j at lane j mod 128 of row j div 128 (R219). -/
def perRowElems (rows : List LaneRow) (n : Nat) : List Num :=
  (List.range n).map (fun j => ((rows.getD (j / 128) ([], false)).1).getD (j % 128) zeroNum)

/- What operations compute -/

/-- What one write of an operation leaves in its physical row. -/
structure WVal where
  data : Row := 0
  poison : Bool := false
  hdr : BitVec 64 := 0
  deriving DecidableEq, Repr

/-- An operation's results, in the order of its writes, and what else it sets: the latch (R100), a header that failed
its check (R82, R549), and a program entry (R169). -/
structure OpOut where
  vals : List WVal := []
  latch : Bool := false
  badHdr : Bool := false
  deriving DecidableEq, Repr

/-- Codes of one logical row of w-bit elements as physical rows (R150). -/
def rowVals (w : Nat) (cs : List Nat) (poison : Bool) (hdr : Nat) : List WVal :=
  let v := packElems w cs
  (List.range (ceilDiv (w * 128) 1024)).map (fun j =>
    { data := BitVec.ofNat 1024 (v >>> (1024 * j)), poison := poison, hdr := if j = 0 then BitVec.ofNat 64 hdr else 0 })

/-- Result codes of format F into an operand field: a vector register holds SDX32 (R208). -/
def fieldVals (f : Nat) (F : Fmt) (r : List Nat × Bool) : List WVal :=
  if 48 ≤ f then rowVals 32 (r.1.map (fun c => encodeNum fSdx32 .rne (decodeNum F c))) r.2 0
  else rowVals (1 + F.mag) r.1 r.2 0

/-- The rounding key of a clause's draws (R94, R98, R121, R122). -/
def srKeyOf (d : Dev) (c use seq : Nat) : SrKey :=
  { seed := ctxBits d (runWho d c).2 64 64, step := stepNo d, use := use, region := getF d (SC_SLICE c) SC_SLICE_REGION,
    rpos := getF d (SC_SLICE c) SC_SLICE_RPOS, seq := seq }

/-- Whether a VCVT rounds stochastically (R84, R98): W1 rounding on, GRAD set, and an SDX32 value converted to a 16- or 8-bit
target, which an SDX8 value is on its way to SDX8 (log 91). -/
def cvtSr (d : Dev) (ctx md aw tw : Nat) : Bool :=
  ctxBits d ctx 3 1 == 1 && bit md 1 && ((aw == 2 && tw != 2) || (aw == 0 && tw == 0))

/-- Some block of a side field has NF set, so that what is encoded under it is the canonical NaN (R80, R100). -/
def nanHdr (h : Nat) : Bool := (List.range 4).any (fun k => hdrNF (hdrAt h k))

/-- A vector register operand of an SDX16 operation overflows as it is rounded (R100, R218). -/
def roundLatch (accs : List PortAcc) (f opnd : Nat) : Bool :=
  decide (48 ≤ f) && ((laneRow 2 false (opndReads accs opnd 0)).1.1).any (fun x => latches [x] (rd fSdx16 x))

/-- The result of a vector operation from the rows it has read. An SDX8 source that decodes to NaN sets the latch (R100),
and so does a NaN written. -/
def vecResult (d : Dev) (c : Nat) (o : VecOp) (p : POp) : OpOut :=
  match o with
  | .nop => {}
  | .op fn fmt a b dd m =>
    let f16 := fmt == 1
    let F := fmtOf f16
    let a := a.toNat; let b := b.toNat; let dd := dd.toNat; let md := m.toNat
    let n := vecRows fn a dd (p.x 0) (p.x 2)
    let rl := f16 && fn != .vcvt && fn != .vscan && (roundLatch p.accs a 0 || roundLatch p.accs b 1 || roundLatch p.accs dd 2)
    let as := fun (pass : Nat) => opndRows p.accs a (p.h 0) 0 pass n f16
    let av := fun (pass : Nat) => (as pass).map (·.1)
    match fn with
    | .vcvt =>
      let tw := hWidth (p.h 2)
      let rows := opndRows p.accs a (p.h 0) 0 0 n false
      let key := srKeyOf d c 3 p.seq
      let rnd := fun (e : Nat) => if cvtSr d (runWho d c).2 md (opWidth a (p.h 0)) tw then Rnd.sr (srDraw key e) else Rnd.rne
      let ds := opndReads p.accs 2 0
      let hs := ds.map (·.hdr.toNat)
      let g := bit md 0
      let aNan := fun (r : LaneRow × Bool) => opWidth a (p.h 0) == 0 && r.1.1.any isNaN
      let one := fun (i : Nat) (r : LaneRow × Bool) =>
        let xs := (r.1.1.zip (List.range 128)).map (fun x => (rnd (128 * i + x.2), x.1))
        if tw = 0 then
          let h := hs.getD i 0
          let bad := hdrRowBad g h || r.2
          let lt := (g && r.1.1.any isNF) || nanHdr h || aNan r
          ({ vals := rowVals 8 (encodeRow8 g h xs) (r.1.2 || bad || (ds.map (·.poison)).getD i false) h, badHdr := bad, latch := lt } : OpOut)
        else
          let T := if tw = 1 then fSdx16 else fSdx32
          let cs := xs.map (fun x => (x.2, encodeNum T x.1 x.2))
          { vals := rowVals (1 + T.mag) (cs.map (·.2)) (r.1.2 || r.2) 0, badHdr := r.2,
            latch := cs.any (fun x => latches [x.1] (decodeNum T x.2)) }
      let outs := (rows.zip (List.range rows.length)).map (fun r => one r.2 r.1)
      { vals := outs.flatMap (·.vals), badHdr := outs.any (·.badHdr), latch := outs.any (·.latch) }
    | .vscan =>
      let rows := opndRows p.accs a (p.h 0) 0 0 n false
      { vals := rows.map (fun r => { hdr := BitVec.ofNat 64 (scanRow (bit md 0) r.1.1), poison := r.1.2 || r.2 }),
        badHdr := rows.any (·.2), latch := opWidth a (p.h 0) == 0 && rows.any (fun r => r.1.1.any isNaN) }
    | .vsum => let r := vecSum F (av 0); { vals := r.rows.flatMap (fieldVals dd F), latch := r.latch || rl }
    | .vmaxr => let r := vecMaxr F (av 0); { vals := r.rows.flatMap (fieldVals dd F), latch := r.latch || rl }
    | .vsoftmax => let r := vecSoftmax F (av 0) (av 1) (av 2); { vals := r.rows.flatMap (fieldVals dd F), latch := r.latch || rl }
    | .vrmsnorm | .vlnorm =>
      let sc := (opndRows p.accs b (p.h 1) 1 0 1 f16).map (·.1)
      let sh := (opndRows p.accs b (p.h 1) 1 1 1 f16).map (·.1)
      let eps := decodeNum fSdx32 (p.x 3)
      let r := vecNorm F (fn == .vlnorm) eps (av 0) (av 1) (av 2) (perRowElems sc n) (perRowElems sh n) (anyPoison sc || anyPoison sh)
      { vals := r.rows.flatMap (fieldVals dd F), latch := r.latch || rl }
    | .vtopk =>
      let r := vecTopk F (bits md 0 3 + 1) (av 0)
      { vals := r.brows.flatMap (fieldVals b F) ++ r.rows.flatMap (fun x => rowVals 16 x.1 x.2 0), latch := r.latch || rl }
    | _ =>
      let rowsA := av 0
      let rowsB := if !usesB fn then List.replicate n (List.replicate 128 zeroNum, false)
        else if bit md 0 then
          let bs := (opndRows p.accs b (p.h 1) 1 0 1 f16).map (·.1)
          let es := perRowElems bs n
          (es.zip (List.range n)).map (fun e => (List.replicate 128 e.1, (bs.getD (e.2 / 128) ([], false)).2))
        else (opndRows p.accs b (p.h 1) 1 0 n f16).map (·.1)
      let rowsD := if fn = .vfma then (opndRows p.accs dd (p.h 2) 2 0 n f16).map (·.1)
        else List.replicate n (List.replicate 128 zeroNum, false)
      let r := vecElementwise fn F rowsA rowsB rowsD
      { vals := r.rows.flatMap (fieldVals dd F), latch := r.latch || rl }

/- Move operations -/

/-- Element width code of a CNC type (R155, R222). -/
def cncWidth (ty : Nat) : Nat := if ty = 0 ∨ ty = 3 then 2 else 1

/-- The plan of a move operation (R157, R222, R547). -/
def movPlan (o : MovOp) (p : POp) : Plan :=
  match o with
  | .mcopy _ _ =>
    let n := min (extN (p.x 0)) (extN (p.x 1))
    if hWidth (p.h 0) ≠ hWidth (p.h 1) then { shape := true, occ := ceilDiv (n * hW (p.h 1)) 16 }
    else { occ := ceilDiv (n * hW (p.h 1)) 16,
           accs := rowAccs (p.h 0) (extRow (p.x 0)) n 0 0 false (fun k => k / 16) ++
                   rowAccs (p.h 1) (extRow (p.x 1)) n 2 0 true (fun k => k / 16 + 1) }
  | .mfill _ _ =>
    let n := extN (p.x 0)
    { occ := ceilDiv (n * hW (p.h 0)) 16, accs := rowAccs (p.h 0) (extRow (p.x 0)) n 2 0 true (fun k => k / 16) }
  | .cnc _ _ _ _ ty _ =>
    let n := extN (p.x 0)
    let w := cncWidth ty.toNat
    let occ := ceilDiv (n * 2 ^ w) 16
    let src := rowAccs (p.h 0) (extRow (p.x 0)) n 0 0 false (fun k => k / 16)
    let src := if hWidth (p.h 0) = w then src else src.map (fun a => { a with drop := true })
    { occ := occ, accs := src ++ (rowAccs (p.h 1) (extRow (p.x 1)) 1 2 0 true (fun _ => occ + 3)).take 1 }
  | .sput _ _ => { occ := 1, accs := (rowAccs (p.h 0) (extRow (p.x 0)) 1 0 0 false (fun _ => 0)).take 1 }
  | _ => {}

/-- Whether an element meets a CNC predicate (R87, R89, R155, R156). -/
def cncHit (pred ty : Nat) (x v : Nat) : Bool :=
  let num := fun (k : Nat) => if ty = 0 then decodeNum fSdx32 k else if ty = 1 then decodeNum fSdx16 k else intNum k
  let a := num x
  let b := num v
  match pred with
  | 0 => eqNum a b
  | 1 => eqNum a b || ltNum b a
  | 2 => ltNum b a
  | 3 => eqNum a b || ltNum a b
  | _ => ltNum a b

/-- The result of a CNC (R155, R156): counts, 16 of them for EQ; bytes 64 to 127 are 0. -/
def cncResult (d : Dev) (c : Nat) (pred ty : Nat) (acc : Bool) (p : POp) : WVal :=
  let w := if cncWidth ty = 2 then 32 else 16
  let src := opndReads p.accs 0 0
  let v := p.x 2 % 2 ^ w
  -- a source of another WIDTH gives its 128 n elements as +0 (R152, R155)
  let es := if hWidth (p.h 0) = cncWidth ty then src.flatMap (fun a => unpackElems w (1024 / w) a.data.toNat)
    else List.replicate (128 * extN (p.x 0)) 0
  let nc := if pred = 0 then 16 else 1
  let dst := (p.accs.filter (·.wr)).headD { opnd := 2, idx := 0, cyc := 0, bank := 0, row := 0, wr := true }
  let a := shelfRowAddr c dst.bank dst.row
  let old := (rowData d a).toNat
  let m := rowMetaAt d a
  let words := (List.range 16).map (fun j =>
    let o := bits old (32 * j) 32
    if j < nc then (es.filter (fun x => cncHit pred ty x (v + j))).length + (if acc then o else 0) else o)
  { data := BitVec.ofNat 1024 (packElems 32 words), poison := src.any (·.poison) || (acc && (m.poison || m.parErr != 0)) }

/-- The result of a move operation (R156, R222). -/
def movResult (d : Dev) (c : Nat) (o : MovOp) (p : POp) : OpOut :=
  match o with
  | .mcopy _ _ =>
    let keep := hHdr (p.h 0) && hHdr (p.h 1)
    { vals := (opndReads p.accs 0 0).map (fun a => { data := a.data, poison := a.poison, hdr := if keep then a.hdr else 0 }) }
  | .mfill _ _ =>
    let v := packElems 32 (List.replicate 32 (p.x 1))
    { vals := (p.accs.filter (·.wr)).map (fun _ => { data := BitVec.ofNat 1024 v }) }
  | .cnc _ _ _ pred ty acc => { vals := [cncResult d c pred.toNat ty.toNat (acc == 1) p] }
  | _ => {}

/- Matrix-port operations -/

/-- Rows FIRST to FIRST + NM1 of a half, by absolute number (R120). -/
def halfRows (half first nm1 : Nat) : List Nat := (List.range (nm1 + 1)).map (fun i => 128 * half + first + i)

/-- The plan of a matrix-port operation (R119, R120, R123, R139, R217). -/
def matPlan (o : MatOp) (p : POp) : Plan :=
  match o with
  | .spill _ _ nm1 _ _ _ =>
    let n := nm1.toNat + 1
    let accs := rowAccs (p.h 0) (extRow (p.x 0)) n 2 0 true (fun k => k / (16 * hW (p.h 0)))
    { occ := ceilDiv n 16, accs := if hWidth (p.h 0) = 2 then accs else accs.map (fun a => { a with drop := true }) }
  | .accld _ _ nm1 _ =>
    let n := nm1.toNat + 1
    { occ := ceilDiv n 16, accs := rowAccs (p.h 0) (extRow (p.x 0)) n 0 0 false (fun k => k / (16 * hW (p.h 0))) }
  | _ => {}

/-- The rows a SPILL writes, as the half holds them (R91, R120, R121). -/
def spillResult (d : Dev) (c : Nat) (half first nm1 : Nat) (rne : Bool) (p : POp) : OpOut :=
  let key := srKeyOf d c 1 p.seq
  let rows := (halfRows half first nm1).map (fun r =>
    let v := accRow d c r
    let xs := (List.range 128).map (fun t => (t, decodeNum fLong (elemAt v 48 t)))
    let cs := xs.map (fun x => (x.2, encodeNum fSdx32 (if rne then .rne else .sr (srDraw key (128 * r + x.1))) x.2))
    (rowVals 32 (cs.map (·.2)) (accPoison d c r || d.accPar.get (c * 256 + r) false) 0,
      cs.any (fun x => latches [x.1] (decodeNum fSdx32 x.2))))
  { vals := rows.flatMap (·.1), latch := rows.any (·.2) }

/-- An operation's results from what it has read; a SPILL's stand in its reads (data kept at its start). One that reads and
writes nothing, as after a shape error, has none (R220). -/
def opResult (d : Dev) (c : Nat) (p : POp) : OpOut :=
  if p.accs.isEmpty then {}
  else match p.op with
  | .vec o => vecResult d c o p
  | .mov o => movResult d c o p
  | .mat _ => { vals := (opndReads p.accs 3 0).map (fun a => { data := a.data, poison := a.poison, hdr := a.hdr }) }

/- Landing -/

/-- A VSCAN. -/
def isScan (o : SlotOp) : Bool :=
  match o with
  | .vec (.op .vscan _ _ _ _ _) => true
  | _ => false

/-- A CNC that adds to the counts its destination holds (R156). -/
def isCncAcc (o : SlotOp) : Bool :=
  match o with
  | .mov (.cnc _ _ _ _ _ acc) => acc == 1
  | _ => false

/-- One result row lands: in a vector register, or in the shelf (R143, R161); a VSCAN writes the side field alone and
keeps the data and the old poison (R549), and a CNC with ACC has read the row it replaces (R156, R164). A row that a stream writes in
the same cycle keeps this data, poisoned (R141). -/
def landVal (d : Dev) (c : Nat) (w : ShfWho) (op : SlotOp) (a : PortAcc) (v : WVal) : Dev :=
  if 128 ≤ a.bank then
    let old := vreg d c (a.bank - 128)
    setV d c (a.bank - 128) (insBits old.1 (1024 * a.row) 1024 v.data.toNat) v.poison
  else
    let d1 := if isScan op then writeSide d w a.bank a.row (v.poison || a.clash) v.hdr
      else writeShelf (if isCncAcc op then (readShelf d w a.bank a.row).2 else d) w a.bank a.row v.data (v.poison || a.clash) v.hdr
    if a.clash then shfUseFault d1 w a.bank a.row SHF_FAULT_COLLIDE else d1

/-- A write about to land: its cycle of the clause, its operation, its access and its value. -/
structure Landing where
  cyc : Nat
  op : POp
  acc : PortAcc
  val : WVal
  deriving DecidableEq, Repr

/-- The writes of a running operation that fall before cycle t, with the values the operation gives them. -/
def landings (d : Dev) (c t : Nat) (p : POp) : List Landing :=
  match p.start with
  | none => []
  | some s =>
    if !p.accs.any (fun a => a.wr && !a.drop && decide (s + a.cyc < t)) then []
    else (((p.accs.filter (·.wr)).zip (opResult d c p).vals).filter (fun x => !x.1.drop && decide (s + x.1.cyc < t))).map
      (fun x => { cyc := s + x.1.cyc, op := p, acc := x.1, val := x.2 })

/-- The operation with its writes before cycle t over (R213). -/
def landedOp (t : Nat) (p : POp) : POp :=
  match p.start with
  | none => p
  | some s => { p with accs := p.accs.map (fun a => if a.wr && !a.drop && decide (s + a.cyc < t) then { a with drop := true } else a) }

/-- A write put behind those of its cycle and earlier ones. -/
def putLanding (x : Landing) : List Landing → List Landing
  | [] => [x]
  | y :: ys => if x.cyc < y.cyc then x :: y :: ys else y :: putLanding x ys

/-- Writes land in the order of their cycles (R213); a CNC with ACC counts on what its row holds then (R156). -/
def landAll (d : Dev) (c : Nat) (xs : List Landing) : Dev :=
  (xs.foldl (fun l x => putLanding x l) []).foldl (fun d x =>
    landVal d c (opWho d c x.op) x.op.op x.acc (if isCncAcc x.op.op then (opResult d c x.op).vals.headD x.val else x.val)) d

/-- Every write of core c's running operations that falls before cycle t lands, in the order of the writes' cycles (R213). -/
def landBefore (d : Dev) (c t : Nat) : Dev :=
  let k := core d c
  let d1 := landAll d c ((k.half0 ++ k.half1 ++ k.vec ++ k.mov).flatMap (landings d c t))
  modCore d1 c (fun k => { k with half0 := k.half0.map (landedOp t), half1 := k.half1.map (landedOp t), vec := k.vec.map (landedOp t),
                                  mov := k.mov.map (landedOp t) })

/-- The running operations of core c that use the clause port. -/
def portOps (k : CoreSt) : List POp := (k.half0 ++ k.half1 ++ k.vec ++ k.mov).filter (fun p => p.start.isSome)

/-- A live access of a running operation, in cycles of the clause. -/
structure Live where
  slot : Nat
  no : Nat
  cyc : Nat
  acc : PortAcc
  deriving DecidableEq, Repr

/-- Accesses of an operation still to be made at or after cycle t, on banks. -/
def livePorts (p : POp) (t : Nat) : List Live :=
  match p.start with
  | none => []
  | some s => (p.accs.filter (fun a => !a.drop && decide (a.bank < 128) && decide (a.opnd < 3) && decide (t ≤ s + a.cyc))).map
      (fun a => { slot := slotNo p.op, no := p.no, cyc := s + a.cyc, acc := a })

/-- Whether access a is served before access b in one cycle and bank (R139); between operations of one slot, the one
issued first (log 16). -/
def served (a b : Live) : Bool :=
  if a.no ≠ b.no then decide (a.slot < b.slot) || (a.slot == b.slot && decide (a.no < b.no))
  else decide (a.acc.opnd < b.acc.opnd) || (a.acc.opnd == b.acc.opnd && decide (a.acc.idx < b.acc.idx))

/-- The accesses that lose their port to another of the list, cycle by cycle. -/
def losers (ls : List Live) : List Live :=
  let cycs := (ls.map (·.cyc)).foldl (fun (acc : List Nat) x => if acc.contains x then acc else x :: acc) []
  cycs.flatMap (fun t =>
    let here := ls.filter (fun l => l.cyc == t)
    here.filter (fun l => here.any (fun m => m.acc.bank == l.acc.bank && served m l)))

/-- Accesses of an operation that lost their port are over: a read returns +0 poisoned, a write is dropped (R139). -/
def dropLost (ls : List Live) (p : POp) : POp :=
  { p with accs := p.accs.map (fun a =>
      if ls.any (fun l => l.no == p.no && l.acc == a) then { a with drop := true, data := 0, hdr := 0, poison := true } else a) }

/-- The writes that running operations make before cycle t to a bank and row, latest last (R213). -/
def pendingVal (d : Dev) (c : Nat) (ops : List POp) (bank row t : Nat) : Option WVal :=
  (ops.foldl (fun (best : Option (Nat × WVal)) p =>
    match p.start with
    | none => best
    | some s =>
      if p.accs.any (fun a => a.wr && !a.drop && a.bank == bank && a.row == row && decide (s + a.cyc < t)) then
        ((p.accs.filter (·.wr)).zip (opResult d c p).vals).foldl (fun best x =>
          let a := x.1
          if a.wr && !a.drop && a.bank == bank && a.row == row && decide (s + a.cyc < t) && decide ((best.elim 0 (·.1)) ≤ s + a.cyc)
          then some (s + a.cyc, { x.2 with poison := x.2.poison || a.clash }) else best) best
      else best) none).map (·.2)

/-- The data of one read access at its cycle: what the shelf or vector register holds then, running operations' earlier
writes included; a read that returns nothing gives +0, poisoned (R152, R161, R163, R213). -/
def readAcc (d : Dev) (c : Nat) (w : ShfWho) (ops : List POp) (s : Nat) (a : PortAcc) : PortAcc × Dev :=
  if a.wr then (a, d)
  else if a.drop then ({ a with data := 0, hdr := 0, poison := true }, d)
  else
    match pendingVal d c ops a.bank a.row (s + a.cyc) with
    | some v => ({ a with data := v.data, hdr := v.hdr, poison := v.poison }, d)
    | none =>
      if 128 ≤ a.bank then
        let v := vreg d c (a.bank - 128)
        ({ a with data := BitVec.ofNat 1024 (v.1 >>> (1024 * a.row)), poison := v.2 }, d)
      else
        let r := readShelf d w a.bank a.row
        ({ a with data := r.1.1.data, hdr := r.1.2, poison := r.1.1.poison }, r.2)

/-- readAcc over a plan. -/
def readAccs (c : Nat) (w : ShfWho) (ops : List POp) (s : Nat) : List PortAcc → Dev → List PortAcc × Dev
  | [], d => ([], d)
  | a :: as, d =>
    let x := readAcc d c w ops s a
    let y := readAccs c w ops s as x.2
    (x.1 :: y.1, y.2)

/-- Later reads of a running operation see the writes of one that has just started, each read the latest of the running operations'
writes before it (R213). -/
def seeWrites (d : Dev) (c : Nat) (ops : List POp) (newOp : POp) (p : POp) : POp :=
  match newOp.start, p.start with
  | some s, some t =>
    let ws := newOp.accs.filter (fun a => a.wr && !a.drop)
    { p with accs := p.accs.map (fun a =>
        if a.wr || a.drop || !(ws.any (fun w => w.bank == a.bank && w.row == a.row && decide (s + w.cyc < t + a.cyc))) then a
        else match pendingVal d c ops a.bank a.row (t + a.cyc) with
          | some v => { a with data := v.data, hdr := v.hdr, poison := v.poison }
          | none => a) }
  | _, _ => p

/-- Rows whose parity has just gone bad (R163, R117): shelf rows by their module-local address, plus the number of the parity bit
(0 to 3 for the row's 32 B blocks, 4 for its side field), accumulator rows as c × 256 + row. -/
def upset (d : Dev) (shelf accs : List Nat) : Dev :=
  let d1 := shelf.foldl (fun d a => if shelfBase ≤ a ∧ a < shelfBase + 320 * shelfSize then
    setMeta d a { (rowMetaAt d a) with parErr := (rowMetaAt d a).parErr ||| BitVec.ofNat 5 (2 ^ (a % 128 % 5)) } else d) d
  { d1 with accPar := accs.foldl (fun t i => if i < 81920 then t.put i true false else t) d1.accPar }

/-- An accumulator row read by an operation or group: a parity error poisons it and is recorded (R117). -/
def readAccRow (d : Dev) (c r : Nat) (oper : Nat) : Dev :=
  if d.accPar.get (c * 256 + r) false then
    let w := runWho d c
    let d := { d with accPar := d.accPar.put (c * 256 + r) false false }
    coreFault (setAccPoison d c [r] true) c (SC_FAULT c) SC_FAULT_ACC_PARITY
      { cls := 0x01, kind := 1, unit := c, ctx := w.2, filler := w.1, oper := oper, scope := .step }
  else d

end Sys2Proof.Machine
end

