-- ==== Sys2Proof/Machine/Gather.lean ====
section
/-!
DEFINITION. Machine/Gather.lean: the gather front, the product array and the scatter accumulator: one group (R101-R118,
R125-R127, R180-R187).
-/
namespace Sys2Proof.Machine

/-- One valid slot of a group (R102): its number, rows, weight, and whether its weight block's header failed the check
(R115) or its weight row was poisoned (R116). -/
structure GSlot where
  s : Nat
  inRow : Nat
  outRow : Nat
  w : Num
  wHdrBad : Bool
  wPoison : Bool
  deriving DecidableEq, Repr

/-- Weight of slot s under the stream's WFMT, with its header check and poison (R103, R115, R116, R181). -/
def slotWeight (wfmt : Nat) (g : GRec) (hdrs : Nat) (hdrPoison : Bool) (s : Nat) : Num × Bool × Bool :=
  if wfmt = 0 then
    let h := hdrAt hdrs (s / 32)
    (decode8 (hdrFmtG h) h (elemAt g.w0.data.toNat 8 s), hdrRsvd h != 0, g.w0.poison || hdrPoison)
  else if wfmt = 1 then
    let r := if s < 64 then g.w0 else g.w1
    (decodeNum fSdx16 (elemAt r.data.toNat 16 (s % 64)), false, r.poison)
  else (zeroNum, false, false)

/-- Whether a group is bad (R182): lost, poisoned header or index rows, a nonzero reserved field, or the wrong GSEQ. -/
def badGroup (g : GRec) (gseq : Nat) : Bool :=
  let h := g.hdr.data.toNat
  g.lost || g.hdr.poison || g.idx0.poison || g.idx1.poison || bits h 253 3 != 0 || bits h 344 168 != 0 ||
    bits h 320 16 != gseq % 65536

/-- The valid slots of a group of a gloss stream (R180, R181). -/
def glossSlots (wfmt : Nat) (g : GRec) : List GSlot :=
  let h := g.hdr.data.toNat
  ((List.range 128).filter (fun s => bit h s)).map (fun s =>
    let r := if s < 64 then elemAt g.idx0.data.toNat 16 s else elemAt g.idx1.data.toNat 16 (s - 64)
    let w := slotWeight wfmt g (bits h 256 64) false s
    { s := s, inRow := bits r 0 12, outRow := bits h (128 + 7 * bits r 12 4) 7, w := w.1, wHdrBad := w.2.1, wPoison := w.2.2 })

/-- The slots of group j of an MDENSE with a shape word (R127, R216). -/
def denseSlots (wfmt : Nat) (shape j : Nat) (g : GRec) : List GSlot :=
  let ib := bits shape 0 12
  let kb := bits shape 12 8 + 1
  let ob := bits shape 20 7
  (List.range 128).map (fun s =>
    let w := slotWeight wfmt g g.blk.toNat g.blkPoison s
    { s := s, inRow := ib + 16 * (j % kb) + s % 16, outRow := ob + 8 * (j / kb) + s / 16,
      w := w.1, wHdrBad := w.2.1, wPoison := w.2.2 })

/-- What a group-engine operation is: its channel, pairing, input handle, the half it adds into, and for masked mode the
operand half and the sum row of its next group (R125, R126, R216). -/
structure GOp where
  ch : Nat
  pair : Nat
  half : Nat
  masked : Bool := false
  sumRow : Nat := 0
  dense : Bool := false
  deriving DecidableEq, Repr

def gopOf (m : MatOp) (j : Nat) : Option GOp :=
  match m with
  | .msparse ch h p _ _ => some { ch := 12 + ch.toNat, pair := p.toNat, half := h.toNat }
  | .mmask ch oh p _ rb _ => some { ch := 12 + ch.toNat, pair := p.toNat, half := oh.toNat, masked := true, sumRow := rb.toNat + j }
  | .mdense ch h p _ _ => some { ch := 12 + ch.toNat, pair := p.toNat, half := h.toNat, dense := true }
  | _ => none

/-- The physical rows the valid slots need, each once, in the order of the lowest slot that needs it (R107-R109, R111). -/
def needRows (h : Nat) (ss : List GSlot) : List (Nat × Nat) :=
  ss.foldl (fun acc s =>
    if hIn h s.inRow then
      (List.range (hW h)).foldl (fun acc j => let l := hLoc h (hW h * s.inRow + j); if acc.contains l then acc else acc ++ [l]) acc
    else acc) []

/-- D of R110: the larger of B and the most rows any bank must yield. -/
def groupD (b : Nat) (rows : List (Nat × Nat)) : Nat :=
  (rows.map (fun r => (rows.filter (fun q => q.1 == r.1)).length)).foldl max b

/-- A row the gather front has read. -/
structure GRow where
  loc : Nat × Nat
  acc : PortAcc
  deriving DecidableEq, Repr

/-- The gather front reads its rows over the group's cycles (R111, R113). -/
def gatherRows (d : Dev) (c : Nat) (w : ShfWho) (cyc : Nat) (rows : List (Nat × Nat)) : List GRow × Dev :=
  let ops := portOps (core d c)
  (rows.zip (List.range rows.length)).foldl (fun (st : List GRow × Dev) r =>
    let k := ((rows.take r.2).filter (fun q => q.1 == r.1.1)).length
    let x := readAcc st.2 c w ops 0 { opnd := 0, idx := r.2, cyc := cyc + k, bank := r.1.1, row := r.1.2, wr := false }
    (st.1 ++ [{ loc := r.1, acc := x.1 }], x.2)) ([], d)

/-- A slot's input row as the product array sees it: its lanes, its poison, whether a block header failed its check
(R107, R113, R115). Out of range it is +0 in every lane. -/
def inputRow (h : Nat) (rows : List GRow) (wBad : Bool) (q : Nat) : LaneRow × Bool :=
  if wBad || !hIn h q then ((List.replicate 128 zeroNum, true), false)
  else
    let as := (List.range (hW h)).filterMap (fun j => (rows.find? (fun r => r.loc == hLoc h (hW h * q + j))).map (·.acc))
    laneRow (hWidth h) (hHdr h) as

/-- One product in the long sum (R90, R115). -/
def longMul (a b : Num) : Num := rd fLong (mulNum a b)

/-- One addition into a long-sum entry, as a value (R90, R118). -/
def longAdd (x y : Num) : Num := rd fLong (addNum x y)

/-- The products of the slots that name one output row added to its 128 entries, lane by lane, in ascending slot order
(R118); the latch's view of each entry (R100). -/
def addRow (old : Nat) (terms : List (Num × List Num)) : Nat × Bool :=
  let cells := (List.range 128).map (fun t =>
    let e := decodeNum fLong (elemAt old 48 t)
    let xs := terms.map (fun w => (w.1, w.2.getD t zeroNum))
    let r := xs.foldl (fun s x => longAdd s (longMul x.1 x.2)) e
    (encodeNum fLong .rne r, latches (e :: xs.flatMap (fun x => [x.1, x.2])) r))
  (packElems 48 (cells.map (·.1)), cells.any (·.2))

/-- One masked-mode sum entry (R126): entry + p0 + ... + p127. -/
def addMasked (e : Num) (inp opr : List Num) : Num :=
  (inp.zip opr).foldl (fun s x => longAdd s (longMul x.1 x.2)) e

/-- A matrix fault: bit, record of class MATRIX, step-scope RERUN. -/
def gfFault (d : Dev) (c : Nat) (p : POp) (f : Fld) : Dev := opFault d c p (SC_FAULT c) f 0x51

/-- Input width a pairing names (R108, R216). -/
def pairActWidth (pair : Nat) : Nat := if pair = 2 then 1 else 0

/-- Weight format a pairing names (R114, R181). -/
def pairWfmt (pair : Nat) : Nat := if pair = 0 then 0 else 1

/-- The products of a group added into the accumulator file, and the poison they carry (R106, R107, R115-R118, R126). -/
def applyGroup (d : Dev) (c : Nat) (p : POp) (g : GOp) (ss : List GSlot) (rows : List GRow) (wBad : Bool) : Dev :=
  let h := p.h 0
  let fill := (runWho d c).1
  let oper := operOf p.bundle 0 (slotWord p.op)
  let ins := ss.map (fun s => (s, inputRow h rows wBad s.inRow))
  let hdrBad := ins.any (fun x => x.1.wHdrBad && !g.masked || x.2.2)
  let d := if hdrBad then gfFault d c p SC_FAULT_HDR else d
  if g.masked then
    let sr := (if g.half = 0 then 128 else 0) + g.sumRow
    let outs := (ss.map (fun s => 128 * g.half + s.outRow)).foldl (fun (l : List Nat) r => if l.contains r then l else l ++ [r]) []
    let d := (sr :: outs).foldl (fun d r => readAccRow d c r oper) d
    let old := accRow d c sr
    let cells := (List.range 128).map (fun s =>
      let e := decodeNum fLong (elemAt old 48 s)
      match ins.find? (fun x => x.1.s == s) with
      | none => (elemAt old 48 s, false)
      | some x =>
        let op := (unpackElems 48 128 (accRow d c (128 * g.half + x.1.outRow))).map (decodeNum fLong)
        let r := addMasked e x.2.1.1 op
        (encodeNum fLong .rne r, latches (e :: (x.2.1.1 ++ op)) r))
    let poison := ins.any (fun x => x.2.1.2 || x.2.2 || accPoison d c (128 * g.half + x.1.outRow))
    let d := if ss.isEmpty then d else setAccRow d c sr (packElems 48 (cells.map (·.1)))
    latchCore (if poison then setAccPoison d c [sr] true else d) c fill (cells.any (·.2))
  else
    let outs := (ss.map (·.outRow)).foldl (fun (l : List Nat) r => if l.contains r then l else l ++ [r]) []
    outs.foldl (fun d o =>
      let r := 128 * g.half + o
      let mine := ins.filter (fun x => x.1.outRow == o)
      let d := readAccRow d c r oper
      let n := addRow (accRow d c r) (mine.map (fun x => (x.1.w, x.2.1.1)))
      let poison := mine.any (fun x => x.2.1.2 || x.2.2 || x.1.wHdrBad || x.1.wPoison)
      let d := setAccRow d c r n.1
      latchCore (if poison then setAccPoison d c [r] true else d) c fill n.2) d

/-- The channel hands over its front group: LANDED rises, the next GSEQ is expected, and the faults of what the group
carried are recorded (R172, R182, R191, R196). -/
def takeGroup (d : Dev) (c ch : Nat) (p : Prog) (g : GRec) (gs : List GRec) (bad : Bool) : Dev :=
  let poisoned := [g.hdr, g.idx0, g.idx1, g.w0, g.w1].any (·.poison) || g.blkPoison
  let d := if bad then strFault d c ch p.fill p.ctx STR_FAULT_GROUP 0 else d
  let d := if poisoned then poisonCarried d c ch p else d
  let p1 : Prog := { p with gstage := gs, landed := p.landed + 1, gseq := (p.gseq + 1) % 65536, poisonSeen := p.poisonSeen || poisoned }
  putChan d c ch { (chan d c ch) with cur := some p1 }

/-- The counters a group moves (R109, R110, R135): operand row entries merged, empty slots, stall cycles, groups, missed predictions. -/
def countGroup (d : Dev) (c ch merged empty stall dd pred : Nat) : Dev :=
  let d1 := setR d (SC_MERGED c) (getR d (SC_MERGED c) + merged)
  let d2 := setR d1 (SC_EMPTY c) (getR d1 (SC_EMPTY c) + empty)
  let d3 := setR d2 (SC_STALL_CYC c) (getR d2 (SC_STALL_CYC c) + stall)
  let d4 := set64 d3 (SC_GROUPS_LO c) (SC_GROUPS_HI c) (get64 d3 (SC_GROUPS_LO c) (SC_GROUPS_HI c) + 1)
  if pred != 0 && pred != dd then setR d4 (STR_PRED_MISS c ch) (getR d4 (STR_PRED_MISS c ch) + 1) else d4

/-- The slots of a group captured for their channel (R187). -/
def captureSlots (d : Dev) (c ch : Nat) (p : Prog) (ss : List GSlot) : Dev :=
  ss.foldl (fun d s => capSlot d c ch p s.inRow s.outRow (encodeNum fSdx32 .rne s.w)) d

/-- The scatter of a group: its faults, or its products (R106, R126, R127, R217). DESIGN CHOICE (log 101): a masked group whose channel
runs a dense program poisons its sum row alone, and one that breaks the scatter constraint poisons only the OUT_ROW rows of its operand
half, not its sum row. -/
def scatterGroup (d : Dev) (c : Nat) (q : POp) (go : GOp) (ss : List GSlot) (rows : List GRow) (wBad kindBad : Bool) : Dev :=
  let outs := (ss.map (·.outRow)).foldl (fun (l : List Nat) r => if l.contains r then l else l ++ [r]) []
  if kindBad then
    let named := if go.masked then (if go.sumRow < 128 then [(if go.half = 0 then 128 else 0) + go.sumRow] else [])
      else (outs.filter (· < 128)).map (fun o => 128 * go.half + o)
    setAccPoison (gfFault d c q SC_FAULT_PAIRING) c named true
  else if go.masked && decide (127 < go.sumRow) then gfFault d c q SC_FAULT_SCATTER
  else if decide (16 < outs.length) || outs.any (fun o => decide (127 < o)) then
    setAccPoison (gfFault d c q SC_FAULT_SCATTER) c ((outs.filter (· < 128)).map (fun o => 128 * go.half + o)) true
  else applyGroup d c q go ss rows wBad

/-- The valid slots of a group of an operation (R180, R182, R127, R217). -/
def groupSlots (q : POp) (go : GOp) (wfmt : Nat) (gloss bad : Bool) (g : GRec) : List GSlot :=
  if bad then [] else if go.dense then denseSlots wfmt (q.x 0) q.done g else if gloss then glossSlots wfmt g else []

/-- A valid input handle whose WIDTH is not the pairing's (R108); an invalid one has no extent instead (R107). -/
def pairBad (q : POp) (go : GOp) : Bool := hValid (q.h 0) && hWidth (q.h 0) != pairActWidth go.pair

/-- The rows a group reads; none through a handle of the wrong width (R107-R109). -/
def gatherLocs (q : POp) (go : GOp) (ss : List GSlot) : List (Nat × Nat) := if pairBad q go then [] else needRows (q.h 0) ss

/-- Whether the front group of a stream is delivered as a bad one (R182, R191). -/
def isBad (p : Prog) (g : GRec) : Bool := g.lost || (pKind p == 1 && badGroup g p.gseq)

/-- The slots of the front group of a stream. -/
def frontSlots (q : POp) (go : GOp) (p : Prog) (g : GRec) : List GSlot :=
  groupSlots q go (pWfmt p) (pKind p == 1) (isBad p g) g

/-- The cycles D for which the gather front reads a group (R110). -/
def groupCycles (q : POp) (go : GOp) (p : Prog) (g : GRec) : Nat := groupD (pairB go.pair) (gatherLocs q go (frontSlots q go p g))

/-- The gather front takes a group: conflict count, faults, capture, reads (R104-R113). Its products are added when it retires. -/
def runGroup (d : Dev) (c : Nat) (q : POp) (go : GOp) (p : Prog) (g : GRec) (cyc : Nat) : Dev :=
  let h := q.h 0
  let gloss := pKind p == 1
  let bad := isBad p g
  let ss := frontSlots q go p g
  let rows := gatherLocs q go ss
  let dd := groupCycles q go p g
  let wants := if pairBad q go then 0 else ((ss.filter (fun s => hIn h s.inRow)).length) * hW h
  let pred := if gloss then bits g.hdr.data.toNat 240 9 else 0
  let d1 := countGroup d c go.ch (wants - rows.length) (128 - ss.length) (dd - pairB go.pair) dd pred
  let d2 := if gloss && pCapture p && !bad then captureSlots d1 c go.ch p ss else d1
  let rd := gatherRows d2 c { (opWho d c q) with port := 0 } cyc rows
  let d3 := if pairBad q go && !ss.isEmpty then gfFault rd.2 c q SC_FAULT_PAIRING
    else if ss.any (fun s => !hIn h s.inRow) then gfFault rd.2 c q SC_FAULT_IN_RANGE else rd.2
  let x : GPend := { ret := cyc + dd + 9, op := q, wfmt := pWfmt p, gloss := gloss, bad := bad, grp := g, reads := rd.1.map (·.acc) }
  modCore d3 c (fun k => { k with gpend := k.gpend ++ [x] })

/-- A gathered group retires: its products are added, or its scatter fault stands (R118, R124). DESIGN CHOICE (log 101): a masked
operation whose channel runs a dense program raises the pairing fault. -/
def applyPend (d : Dev) (c : Nat) (x : GPend) : Dev :=
  match x.op.op with
  | .mat m => match gopOf m x.op.done with
    | some go =>
      let kindBad := x.gloss == go.dense || (!go.masked && x.wfmt != pairWfmt go.pair)
      scatterGroup d c x.op go (groupSlots x.op go x.wfmt x.gloss x.bad x.grp)
        (x.reads.map (fun a => { loc := (a.bank, a.row), acc := a })) (pairBad x.op go) kindBad
    | none => d
  | _ => d

/-- The groups that retire before cycle t add their products, in order. -/
def addDue (d : Dev) (c t : Nat) : Dev :=
  let due := (core d c).gpend.filter (fun x => decide (x.ret < t))
  modCore (due.foldl (fun d x => applyPend d c x) d) c (fun k => { k with gpend := k.gpend.filter (fun x => decide (t ≤ x.ret)) })

/-- The rows an ACC_LOAD has read before cycle t, 16 a cycle, enter their half; the first one with a bad header is its fault
(R115, R123). -/
def loadRows (d : Dev) (c t : Nat) (p : POp) : Dev :=
  match p.op, p.start with
  | .mat (.accld half f n _), some s =>
    let as := opndReads p.accs 0 0
    let rows := (pieces (hW (p.h 0)) as.length as).map (laneRow (hWidth (p.h 0)) (hdrRead (p.h 0)))
    let due := rows.take (16 * (t - s))
    let d1 := if (due.drop p.loaded).any (·.2) && !(rows.take p.loaded).any (·.2) then opFault d c p (SC_FAULT c) SC_FAULT_HDR 0x51 else d
    (((halfRows half.toNat f.toNat n.toNat).zip due).drop p.loaded).foldl (fun d x =>
      let v := packElems 48 (x.2.1.1.map (fun y => encodeNum fLong .rne y))
      let d := latchCore (setAccRow d c x.1 v) c (runWho d c).1 (x.2.1.1.any isNaN)
      setAccPoison d c [x.1] (x.2.1.2 || x.2.2)) d1
  | _, _ => d

/-- An operation with the rows it has read before cycle t marked as loaded. -/
def loadedTo (t : Nat) (p : POp) : POp :=
  match p.start with
  | some s => { p with loaded := max p.loaded (16 * (t - s)) }
  | none => p

/-- Both halves' ACC_LOADs load what they have read before cycle t (R123). -/
def loadDue (d : Dev) (c t : Nat) : Dev :=
  let k := core d c
  modCore ((k.half0 ++ k.half1).foldl (fun d p => loadRows d c t p) d) c (fun k =>
    { k with half0 := k.half0.map (loadedTo t), half1 := k.half1.map (loadedTo t) })

/-- Everything that falls before cycle t has happened: rows loaded, products added and rows landed. -/
def catchUp (d : Dev) (c t : Nat) : Dev := landBefore (addDue (loadDue d c t) c t) c t

/-- A pending group sees the writes of an operation that has just started, beside those of the running operations (R213). -/
def seeGroup (d : Dev) (c : Nat) (ops : List POp) (newOp : POp) (x : GPend) : GPend :=
  { x with reads := (seeWrites d c ops newOp { x.op with start := some 0, accs := x.reads }).accs }

/-- The halves a group-engine operation adds into or reads (R124, R212). -/
def groupHalves : SlotOp → List Nat
  | .mat (.msparse _ h _ _ _) => [h.toNat]
  | .mat (.mdense _ h _ _ _) => [h.toNat]
  | .mat (.mmask _ _ _ _ _ _) => [0, 1]
  | _ => []

/-- In cycle t the file ports of a group's halves have done every earlier accumulator operation (R124). -/
def portsFree (k : CoreSt) (q : POp) (t : Nat) : Bool :=
  (groupHalves q.op).all (fun h =>
    (if h = 0 then k.half0 else k.half1).all (fun a => decide (q.no < a.no) || a.start.isSome) &&
      decide ((if h = 0 then k.portFree0 else k.portFree1) ≤ t))

/-- The running group operation of a core: the oldest started one with groups to issue (R212). -/
def gatherOp (k : CoreSt) : Option POp := k.group.find? (fun p => p.start.isSome && decide (p.done < p.total))

end Sys2Proof.Machine
end

