-- ==== Sys2Proof/Machine/Issue.lean ====
section
/-!
DEFINITION. Machine/Issue.lean: the issue of bundles (R202-R226), the starting and retiring of operations (R124, R212,
R227-R229), and the ways a clause ends (R54, R57-R59, R192, R232, R233).
-/
namespace Sys2Proof.Machine

/- The clause store (R202) and the bundle about to issue -/

def storeKey (c : Nat) (fill : Bool) (i : Nat) : Nat := c * 16384 + (if fill then 8192 else 0) + i % 8192

/-- Bundle i of the clause store of a context of core c. -/
def storeBundle (d : Dev) (c : Nat) (fill : Bool) (i : Nat) : BitVec 128 := d.clauseStore.get (storeKey c fill i) 0

/-- Clause sequence entry p (R203). -/
def seqEntry (d : Dev) (c : Nat) (fill : Bool) (p : Nat) : Nat :=
  (d.clauseSeq.get (c * 4096 + (if fill then 2048 else 0) + p % 2048) 0).toNat

/-- First operation bundle of a clause (R205, R207). -/
def firstOp (r : RunSt) : Nat := r.start + 1 + r.nconst

/-- Index of the branch target (R224). -/
def branchTo (r : RunSt) (ofs : BitVec 13) : Int := (r.pc : Int) + ofs.toInt

/-- Where a taken branch of the control slot goes, with the index registers as they stand (R224). -/
def takenBranch (d : Dev) (c : Nat) (r : RunSt) : CtlOp → Option Int
  | .brnz xc o => if xreg d c xc.toNat = 0 then none else some (branchTo r o)
  | .loop xc o => if (xreg d c xc.toNat + 0xFFFFFFFF) % 2 ^ 32 = 0 then none else some (branchTo r o)
  | .br o => some (branchTo r o)
  | _ => none

/-- The index registers a bundle reads or writes (R210, R216-R224). -/
def bundleRegs (b : Bundle) : List Nat :=
  (match b.mat with
   | .msparse _ _ _ _ x => [x.toNat]
   | .mmask _ _ _ _ _ x => [x.toNat]
   | .mdense _ _ _ _ x => [x.toNat]
   | .spill _ _ _ _ _ x => [x.toNat]
   | .accld _ _ _ x => [x.toNat]
   | _ => []) ++
  (match b.vec with
   | .nop => []
   | .op fn _ a b' dd m =>
     (if a.toNat < 48 then [a.toNat] else []) ++ (if dd.toNat < 48 then [dd.toNat] else []) ++
       (if (usesB fn || fn == .vrmsnorm || fn == .vlnorm || fn == .vtopk) && decide (b'.toNat < 48) then [b'.toNat] else []) ++
       (if fn = .vrmsnorm ∨ fn = .vlnorm then [m.toNat % 64] else [])) ++
  (match b.mov with
   | .mcopy x y => [x.toNat, y.toNat]
   | .mfill x y => [x.toNat, y.toNat]
   | .hset _ x y => [x.toNat, y.toNat]
   | .cnc x y z _ _ _ => [x.toNat, y.toNat, z.toNat]
   | .sput x _ => [x.toNat]
   | .xld x y => [x.toNat, y.toNat]
   | .xst x y => [x.toNat, y.toNat]
   | _ => []) ++
  (match b.ctl with
   | .xli x _ => [x.toNat]
   | .xlih x _ => [x.toNat]
   | .xaddi x y _ => [x.toNat, y.toNat]
   | .xadd x y z => [x.toNat, y.toNat, z.toNat]
   | .xmuli x y _ => [x.toNat, y.toNat]
   | .brnz x _ => [x.toNat]
   | .loop x _ => [x.toNat]
   | .strs _ _ x => [x.toNat]
   | .stra _ x _ => [x.toNat]
   | _ => [])

/-- Operations of a pipe that have not started (R212). -/
def pendingCount (l : List POp) : Nat := (l.filter (fun p => p.start.isNone)).length

/-- Unretired operations of the matrix pipe. -/
def matOps (k : CoreSt) : List POp := k.group ++ k.half0 ++ k.half1

/-- Unretired operations of every pipe. -/
def allOps (k : CoreSt) : List POp := matOps k ++ k.vec ++ k.mov

/-- Every operation of a core changed alike. -/
def mapOps (k : CoreSt) (f : POp → POp) : CoreSt :=
  { k with group := k.group.map f, half0 := k.half0.map f, half1 := k.half1.map f, vec := k.vec.map f, mov := k.mov.map f }

/-- The await a STRA would hold if it issued now (R172). -/
def awaitNow (d : Dev) (c ch n : Nat) : Await :=
  let x := chan d c ch
  match x.cur with
  | some p => { ch := ch, sid := some p.sid, n := n }
  | none =>
    if x.lastSid = 0 then { ch := ch, sid := none, n := n, fin := some 0 }
    else { ch := ch, sid := some x.lastSid, n := n, fin := some (getR d (STR_LANDED c ch)) }

/-- Whether an await is over (R172). -/
def awaitDone (d : Dev) (c : Nat) (a : Await) : Bool :=
  match a.fin with
  | some f => a.n == 0 || decide (a.n ≤ f)
  | none =>
    match (chan d c a.ch).cur with
    | some p => a.n != 0 && a.sid == some p.sid && decide (a.n ≤ p.landed)
    | none => false

/-- Why a bundle waits: the code of CL_WAIT.WAIT, 0 where it may issue (R210, R223, R226). -/
def bundleWait (d : Dev) (c : Nat) (r : RunSt) (b : Bundle) : Nat :=
  let k := core d c
  let pipe := (b.mat != .nop && decide (4 ≤ pendingCount (matOps k))) || (b.vec != .nop && decide (4 ≤ pendingCount k.vec)) ||
    (b.mov != .nop && decide (4 ≤ pendingCount k.mov))
  let larder := k.mov.any (fun p => match p.op with
    | .mov (.xld xd _) => (bundleRegs b).contains xd.toNat
    | _ => false)
  if larder then 5
  else if pipe then 1
  else match b.ctl with
    | .fence m v mv keep =>
      let past := fun (on : BitVec 1) (l : List POp) => on == 1 && decide (keep.toNat < l.length)
      if past m (matOps k) || past v k.vec || past mv k.mov then 2 else 0
    | .stra ch xn _ =>
      let a := r.await.getD (awaitNow d c ch.toNat (xreg d c xn.toNat))
      if awaitDone d c a then 0 else 3
    | .syncadd _ _ => if (matOps k).isEmpty && k.vec.isEmpty && k.mov.isEmpty then 0 else 4
    | .syncwait o _ => if (if r.waitObj = some o.toNat then r.released else objReached d o.toNat) then 0 else 4
    | _ => 0

/-- What core c's issue stands at: no bundle, a clause fault, a wait, or a bundle that may issue its next slot. -/
inductive View where
  | idle
  | fault (f : Fld)
  | wait (code : Nat)
  | go (r : RunSt) (b : Bundle)
  deriving DecidableEq, Repr

/-- A SYNCWAIT that names an object of another context is a clause fault (R322). -/
def syncForeign (d : Dev) (r : RunSt) : CtlOp → Bool
  | .syncwait o _ => oCtx (objEntry d o.toNat) != r.ctx
  | _ => false

/-- The issue of core c (R210, R214). -/
def view (d : Dev) (c : Nat) : View :=
  match (core d c).run with
  | none => .idle
  | some r =>
    if r.ended then .idle
    else if r.start + r.len < r.pc then .fault CL_FAULT_FELL_OFF
    else match Bundle.ofBits (storeBundle d c r.fill r.pc) with
      | none => .fault CL_FAULT_ILLEGAL
      | some b =>
        if !b.wf || syncForeign d r b.ctl then .fault CL_FAULT_ILLEGAL
        else if r.slot ≠ 0 then .go r b
        else
          let w := bundleWait d c r b
          if w ≠ 0 then .wait w
          else
            let shapeBad := match b.mat with
              | .mdense _ _ _ _ xs => bit (xreg d c xs.toNat) 31
              | _ => false
            if shapeBad then .fault CL_FAULT_ILLEGAL
            else match takenBranch d c r b.ctl with
              | some t => if t < firstOp r ∨ (r.start + r.len : Int) < t then .fault CL_FAULT_BRANCH else .go r b
              | none => .go r b

def modRun (d : Dev) (c : Nat) (f : RunSt → RunSt) : Dev := modCore d c (fun k => { k with run := k.run.map f })

/-- Whether core c's bundle waits. -/
def isWaiting (d : Dev) (c : Nat) : Bool :=
  match view d c with
  | .wait _ => true
  | _ => false

/-- A bundle that waits at an event of cycle t issues after t (R210). -/
def waitedTo (w : Bool) (t : Nat) (r : RunSt) : RunSt := if w then { r with cyc := max r.cyc (t + 1) } else r

/-- The first attempt of a waiting bundle fixes the stream its await refers to (R172) and enters its sync wait in the
wait table (R322); CL_WAIT follows, and a stream or sync wait that is over ends in the cycle the clock stands in (R210). -/
def attempt (d : Dev) (c : Nat) : Dev :=
  match (core d c).run with
  | none => d
  | some r =>
    if r.ended ∨ r.slot ≠ 0 then d
    else match Bundle.ofBits (storeBundle d c r.fill r.pc) with
      | none => d
      | some b =>
        if !b.wf || syncForeign d r b.ctl then d
        else
          let d := match b.ctl with
            | .stra ch xn _ =>
              if r.await.isNone then modRun d c (fun r => { r with await := some (awaitNow d c ch.toNat (xreg d c xn.toNat)) }) else d
            | .syncwait o _ =>
              if r.waitObj.isNone && !objReached d o.toNat then
                addWaiter (modRun d c (fun r => { r with waitObj := some o.toNat })) o.toNat c
              else d
            | _ => d
          match (core d c).run with
          | some r =>
            let done := bundleWait d c r b == 0 && decide (3 ≤ getF d (CL_WAIT c) CL_WAIT_WAIT) && decide (getF d (CL_WAIT c) CL_WAIT_WAIT ≤ 4)
            setF (if done then modRun d c (fun r => { r with cyc := max r.cyc (clockCycle d) }) else d) (CL_WAIT c) CL_WAIT_WAIT
              (bundleWait d c r b)
          | none => d

/- Issuing the four slots (R211, R216, R218, R222, R224) -/

def pushOp (d : Dev) (c : Nat) (r : RunSt) (op : SlotOp) (xs hs : List Nat) (seq total : Nat) : Dev :=
  modCore d c (fun k =>
    let p : POp := { op := op, no := k.opCnt, bundle := r.pc, iss := r.cyc, xs := xs, hs := hs, seq := seq, total := total }
    let k := { k with opCnt := k.opCnt + 1 }
    match op with
    | .vec _ => { k with vec := k.vec ++ [p] }
    | .mov _ => { k with mov := k.mov ++ [p] }
    | .mat m =>
      let toHalf := fun (h : BitVec 1) => if h = 0 then { k with half0 := k.half0 ++ [p] } else { k with half1 := k.half1 ++ [p] }
      match m with
      | .spill h _ _ _ _ _ => toHalf h
      | .accld h _ _ _ => toHalf h
      | .accclr h _ _ => toHalf h
      | _ => { k with group := k.group ++ [p] })

/-- The matrix slot issues (R216, R217, R121). -/
def issueMat (d : Dev) (c : Nat) (r : RunSt) (o : MatOp) : Dev :=
  let X := fun (i : BitVec 6) => xreg d c i.toNat
  let H := fun (n : Nat) => htEntry d c r.fill n
  match o with
  | .nop => d
  | .msparse _ _ _ ih xg => pushOp d c r (.mat o) [X xg] [H ih.toNat] 0 (X xg)
  | .mmask _ _ _ ih _ xg => pushOp d c r (.mat o) [X xg] [H ih.toNat] 0 (X xg)
  | .mdense _ _ _ ih xs => pushOp d c r (.mat o) [X xs] [H ih.toNat] 0 ((bits (X xs) 12 8 + 1) * (bits (X xs) 27 4 + 1))
  | .spill _ _ _ _ _ xd =>
    let seq := getR d (SC_SPILL_SEQ c)
    pushOp (setR d (SC_SPILL_SEQ c) (seq + 1)) c r (.mat o) [X xd] [H (extHandle (X xd))] seq 0
  | .accld _ _ _ xs => pushOp d c r (.mat o) [X xs] [H (extHandle (X xs))] 0 0
  | .accclr _ _ _ => pushOp d c r (.mat o) [] [] 0 0

/-- The vector slot issues (R218, R122). -/
def issueVec (d : Dev) (c : Nat) (r : RunSt) (o : VecOp) : Dev :=
  match o with
  | .nop => d
  | .op fn _ a b dd m =>
    let fx := fun (f : BitVec 6) => if f.toNat < 48 then xreg d c f.toNat else 0
    let fh := fun (f : BitVec 6) => if f.toNat < 48 then htEntry d c r.fill (extHandle (xreg d c f.toNat)) else 0
    let xe := if fn = .vrmsnorm ∨ fn = .vlnorm then xreg d c (m.toNat % 64) else 0
    let w1 := fn == .vcvt && cvtSr d r.ctx m.toNat (opWidth a.toNat (fh a)) (hWidth (fh dd)) &&
      !vecShapeBad fn false a.toNat b.toNat dd.toNat m.toNat (fx a) (fx b) (fx dd) (fh a) (fh b) (fh dd)
        (vecRows fn a.toNat dd.toNat (fx a) (fx dd))
    let seq := getR d (SC_W1_SEQ c)
    let d1 := if w1 then setR d (SC_W1_SEQ c) (seq + 1) else d
    pushOp d1 c r (.vec o) [fx a, fx b, fx dd, xe] [fh a, fh b, fh dd] seq 0

/-- SHF_SLEEP issues (R159, R160): writes of earlier cycles land and the windows of the named groups close; refused while a filler
partition exists, ignored from a filler. -/
def issueSleep (d : Dev) (c : Nat) (r : RunSt) (o : MovOp) (groups : BitVec 16) : Dev :=
  let w : ShfWho := { c := c, fill := r.fill, ctx := r.ctx, port := 1, oper := operOf r.pc 2 o.toWord.toNat }
  if r.fill then report d (shfEv w 0 0 0x52 true .none)
  else if getF d (SHF_PART c) SHF_PART_FG_ROWS < 32 then
    coreFault d c (SHF_FAULT c) SHF_FAULT_SLEEP_REFUSED (shfEv w 0 0 0x52 false .none)
  else
    let acc := getF d (SHF_ACCEPT c) SHF_ACCEPT_ACCEPT
    pushOp (setF (catchUp d c r.cyc) (SHF_ACCEPT c) SHF_ACCEPT_ACCEPT (acc &&& (0xFFFF ^^^ groups.toNat))) c r (.mov o) [] [] 0 0

/-- The move slot issues (R222). -/
def issueMov (d : Dev) (c : Nat) (r : RunSt) (o : MovOp) : Dev :=
  let X := fun (i : BitVec 6) => xreg d c i.toNat
  let H := fun (x : Nat) => htEntry d c r.fill (extHandle x)
  match o with
  | .nop => d
  | .mcopy xa xd => pushOp d c r (.mov o) [X xa, X xd] [H (X xa), H (X xd)] 0 0
  | .mfill xd xv => pushOp d c r (.mov o) [X xd, X xv] [H (X xd)] 0 0
  | .hset _ xl xh => pushOp d c r (.mov o) [X xl, X xh] [] 0 0
  | .cnc xs xd xv _ _ _ => pushOp d c r (.mov o) [X xs, X xd, X xv] [H (X xs), H (X xd)] 0 0
  | .sleep g => issueSleep d c r o g
  | .wake _ =>
    if r.fill then
      report d (shfEv { c := c, fill := true, ctx := r.ctx, port := 1, oper := operOf r.pc 2 o.toWord.toNat } 0 0 0x52 true .none)
    else pushOp d c r (.mov o) [] [] 0 0
  | .sput xs _ => pushOp d c r (.mov o) [X xs] [H (X xs)] 0 0
  | .xld _ xa => pushOp d c r (.mov o) [X xa] [] 0 0
  | .xst xs xa => pushOp d c r (.mov o) [X xa, X xs] [] 0 0

/-- A handle entry written by HSET (R151, R153). -/
def hsetWrite (d : Dev) (c : Nat) (r : RunSt) (h v : Nat) : Dev :=
  let pr := partRows d c r.fill
  if hWf v pr.1 pr.2 then setHt d c ((if r.fill then 256 else 0) + h) v
  else shfUseFault d { c := c, fill := r.fill, ctx := r.ctx, port := 1, oper := operOf r.pc 2 3 } 0 0 SHF_FAULT_PART

/-- An index register with i in its upper half (XLIH). -/
def withUpper (v : Nat) (i : BitVec 16) : Nat := v % 2 ^ 16 + i.toNat <<< 16

/-- An index register with the signed i added modulo 2^32 (XADDI). -/
def plusImm (v : Nat) (i : BitVec 14) : Nat := (((v : Int) + i.toInt) % (2 ^ 32 : Int)).toNat

/-- An index register less 1 modulo 2^32 (LOOP). -/
def lessOne (v : Nat) : Nat := (v + 0xFFFFFFFF) % 2 ^ 32

/-- ENDC (R232): the clause has ended; the foreground shows it. -/
def endClause (d : Dev) (c : Nat) (fill : Bool) : Dev :=
  let d1 := modRun d c (fun r => { r with ended := true })
  if fill then d1 else setB d1 (CL_STATUS c) CL_STATUS_ENDED true

/-- The rows an operation not yet started would write. -/
def planOf (p : POp) : Plan :=
  match p.op with
  | .mat o => matPlan o p
  | .vec o => vecPlan o p
  | .mov o => movPlan o p

/-- STREAM_PUT takes its row (R169, R222). -/
def sputStart (d : Dev) (c : Nat) (p : POp) (o : MovOp) : Dev :=
  match o with
  | .sput _ e =>
    let h := p.h 0
    if !hIn h (extRow (p.x 0)) then d
    else match opndReads p.accs 0 0 with
      | a :: _ => setWords d (STR_PROG c ((if (runWho d c).1 then 256 else 0) + e.toNat) 0) 16 (bits a.data.toNat 0 512)
      | [] => d
  | _ => d

/-- A start sees the STREAM_PUTs of earlier bundles, though the move pipe has not started them (R169); the row as it stands now.
DEDUCED (log 102). -/
def putEarly (d : Dev) (c : Nat) (r : RunSt) (e : Nat) : Dev :=
  ((core d c).mov.filter (fun p => p.start.isNone && decide (p.iss < r.cyc))).foldl (fun d p =>
    match p.op with
    | .mov (.sput x e1) =>
      if e1.toNat = e then
        let d1 := catchUp d c r.cyc
        let rows := (readAccs c (opWho d1 c p) (portOps (core d1 c)) r.cyc (planOf p).accs d1).1
        sputStart d1 c { p with accs := rows } (.sput x e1)
      else d
    | _ => d) d

/-- The control operation's own effect (R224-R226, R228, R232). -/
def ctlEffect (d : Dev) (c : Nat) (r : RunSt) (o : CtlOp) : Dev :=
  match o with
  | .xli xd i => setX d c xd.toNat i.toNat
  | .xlih xd i => setX d c xd.toNat (withUpper (xreg d c xd.toNat) i)
  | .xaddi xd xa i => setX d c xd.toNat (plusImm (xreg d c xa.toNat) i)
  | .xadd xd xa xb => setX d c xd.toNat (xreg d c xa.toNat + xreg d c xb.toNat)
  | .xmuli xd xa i => setX d c xd.toNat (xreg d c xa.toNat * i.toNat)
  | .loop xc _ => setX d c xc.toNat (lessOne (xreg d c xc.toNat))
  | .endc => endClause d c r.fill
  | .note l => modCore d c (fun k => { k with note := some l.toNat })
  | .strs ch e xo => streamStart (putEarly d c r e.toNat) c ch.toNat e.toNat (xreg d c xo.toNat) r.fill r.ctx
  | .strc ch => streamConfirm d c ch.toNat
  | .strx ch => streamCancel d c ch.toNat
  | .syncadd o i => sendInc d { obj := o.toNat, ctx := r.ctx, amt := i.toNat, src := c, fill := r.fill }
  | .nop => d
  | .brnz _ _ => d
  | .br _ => d
  | .stra _ _ _ => d
  | .fence _ _ _ _ => d
  | .syncwait _ _ => d

/-- The control slot issues and the bundle is done: the move slot's handle write takes effect for later bundles (R153), and
issue goes to the next bundle, or the target of a taken branch two cycles on (R210). -/
def issueCtl (d : Dev) (c : Nat) (r : RunSt) (b : Bundle) : Dev :=
  let hv := match b.mov with
    | .hset h xl xh => some (h.toNat, xreg d c xl.toNat + xreg d c xh.toNat <<< 32)
    | _ => none
  let tgt := takenBranch d c r b.ctl
  let d1 := ctlEffect d c r b.ctl
  let d2 := match hv with
    | some x => hsetWrite d1 c r x.1 x.2
    | none => d1
  let pc := match tgt with
    | some t => t.toNat
    | none => r.pc + 1
  let d3 := modRun d2 c (fun r => { r with pc := pc, slot := 0, cyc := r.cyc + (if tgt.isSome then 2 else 1), await := none,
                                           waitObj := none, released := false })
  let ended := b.ctl == .endc
  setF (setF d3 (CL_WAIT c) CL_WAIT_PC pc) (CL_WAIT c) CL_WAIT_WAIT (if ended then 7 else 0)

/-- The key of the operation in the slot that issues next: slot × 64 + opcode (R209). -/
def slotKey (r : RunSt) (b : Bundle) : Nat :=
  match r.slot with
  | 0 => bits b.mat.toWord.toNat 0 6
  | 1 => 64 + bits b.vec.toWord.toNat 0 6
  | 2 => 128 + bits b.mov.toWord.toNat 0 6
  | _ => 192 + bits b.ctl.toWord.toNat 0 6

/-- The next slot of core c's bundle issues. -/
def issueSlot (d : Dev) (c : Nat) (r : RunSt) (b : Bundle) : Dev :=
  match r.slot with
  | 0 => modRun (issueMat (setF d (CL_WAIT c) CL_WAIT_WAIT 0) c r b.mat) c (fun r => { r with slot := 1 })
  | 1 => modRun (issueVec d c r b.vec) c (fun r => { r with slot := 2 })
  | 2 => modRun (issueMov d c r b.mov) c (fun r => { r with slot := 3 })
  | _ => issueCtl d c r b

/-- A fast-trip hold keeps the tile's cores from issuing; at power-fail the compute clocks stand (R436, R445). -/
def issueHeld (d : Dev) (c : Nat) : Bool := d.pwr.trip.contains (c / 5) || d.pwr.failed

/- Ending a clause -/

/-- Shelf rows poisoned that an operation abandoned in cycle t had still to write, a write that would have lost its port
later included (R57). -/
def poisonWrites (d : Dev) (c t : Nat) (p : POp) : Dev :=
  let accs := if p.start.isSome then p.accs else (planOf p).accs
  let todo := fun (a : PortAcc) => !a.drop || (a.poison && p.start.any (fun s => decide (t ≤ s + a.cyc)))
  (accs.filter (fun a => a.wr && todo a && decide (a.bank < 128))).foldl (fun d a => poisonRow d (shelfRowAddr c a.bank a.row)) d

/-- The running clause of core c ends in compute cycle t with its outstanding operations abandoned; their rows and the
accumulator file are poisoned where `poison` is set (R57, R58, R233). -/
def abandon (d : Dev) (c t : Nat) (poison : Bool) : Dev :=
  let d := coast (catchUp d c t) c t
  let k := core d c
  let d := setR d (CL_GATED c) (getR d (CL_GATED c) + ((allOps k).map (fun p => t - p.gate.getD t)).foldl (· + ·) 0)
  let d := if poison then (allOps k).foldl (fun d p => poisonWrites d c t p) (poisonAllAcc d c) else d
  let d := match k.run.bind (·.waitObj) with
    | some o => dropWaiter d o c
    | none => d
  let d := modCore d c (fun k => { k with run := none, group := [], half0 := [], half1 := [], vec := [], mov := [], gpend := [] })
  let d := setF (setF d (SC_STATUS c) SC_STATUS_RUNNING 0) (SC_STATUS c) SC_STATUS_GF_WAIT 0
  setActivity (setF d (CL_WAIT c) CL_WAIT_WAIT 0) c t

/-- A parity error in the filler partition discards the filler's results for the sentence: its outstanding operations are abandoned,
what it has written stays (R58, R164). -/
def discardFiller (d : Dev) (c t : Nat) : Dev :=
  if (core d c).fillBad && (core d c).run.any (·.fill) then abandon d c t false else d

/-- The record of an event of core c's clause as a whole (R57, R214). -/
def clauseEv (c : Nat) (r : RunSt) : Ev :=
  { cls := 0x50, kind := 1, unit := c, ctx := r.ctx, filler := r.fill, oper := operOf r.pc 0 0, scope := .step }

/-- A slot command: core c issues the operation with this key if it is the next slot of its bundle and the bundle does not
wait (R209-R211). -/
def issueOp (key c : Nat) (d : Dev) : Dev :=
  if 320 ≤ c || issueHeld d c then d
  else
    let d := attempt (discardFiller d c ((core d c).run.elim 0 (·.cyc))) c
    match view d c with
    | .go r b => if slotKey r b = key then issueSlot d c r b else d
    | _ => d

/-- NOP (R209): an empty slot issues. -/
def issueNop (c : Nat) (d : Dev) : Dev :=
  if 320 ≤ c || issueHeld d c then d
  else
    let d := attempt (discardFiller d c ((core d c).run.elim 0 (·.cyc))) c
    match view d c with
    | .go r b => if slotKey r b % 64 = 0 then issueSlot d c r b else d
    | _ => d

/-- ILLEGAL_BUNDLE (R214): in compute cycle t the bundle about to issue on core c raises a clause fault. DESIGN CHOICE (log 101): it counts
neither in SC_OVERRUN nor in SC_MARGIN_MIN, which the spec gives to overruns. -/
def illegalBundle (c t : Nat) (d : Dev) : Dev :=
  if 320 ≤ c || issueHeld d c then d
  else match view d c, (core d c).run with
    | .fault f, some r => abandon (coreFault d c (CL_FAULT c) f (clauseEv c r)) c t true
    | _, _ => d

/-- Compute cycles from clause start to guard start of the running sentence (R51, R53). -/
def guardCycle (d : Dev) : Nat := (getF d TG_SENT_LEN TG_SENT_LEN_CUR_LEN * 100 - 1064) * fMHz d / 1000

/-- Guard start on core c (R57-R59, R233). -/
def guardCore (d : Dev) (c : Nat) : Dev :=
  match (core d c).run with
  | none => if getB d (SC_OVERRUN c) SC_OVERRUN_LAST then setB d (SC_OVERRUN c) SC_OVERRUN_LAST false else d
  | some r =>
    let t := guardCycle d
    let yields := match view d c, Bundle.ofBits (storeBundle d c r.fill r.pc) with
      | .wait w, some b => (match b.ctl with
        | .stra _ _ y => w == 3 && y == 1
        | .syncwait _ y => w == 4 && y == 1
        | _ => false)
      | _, _ => false
    if yields then
      let d := modCore (abandon d c t false) c (fun k => if r.fill then { k with fillYielded := true } else { k with yielded := true })
      let d := setB d (SC_OVERRUN c) SC_OVERRUN_LAST false
      if r.fill then d else setB d (CL_STATUS c) CL_STATUS_YIELDED true
    else
      let d := setR d (SC_MARGIN_MIN c) 0
      let d := if r.fill then setB d (SC_OVERRUN c) SC_OVERRUN_LAST false
        else setB (incF d (SC_OVERRUN c) SC_OVERRUN_COUNT) (SC_OVERRUN c) SC_OVERRUN_LAST true
      let d := if r.fill then d else setB d (CL_STATUS c) CL_STATUS_YIELDED false
      abandon (report d (clauseEv c r)) c t true

/-- The channels of core c that belong to a context's half (R62). -/
def ctxChans (d : Dev) (c : Nat) (fill : Bool) : List Nat :=
  (List.range 16).filter (fun n => getB d (STR_CTL c n) STR_CTL_ASSIGNED && getB d (STR_CTL c n) STR_CTL_OWNER == fill)

/-- The layer-end drain is complete (R192). -/
def drainDone (d : Dev) (c : Nat) (r : RunSt) : Bool :=
  (ctxChans d c r.fill).all (fun n => match (chan d c n).cur with
    | none => true
    | some p => pSpec p && p.clauseNo == (core d c).clauseCnt)

/-- CLAUSE_FINISH (R54, R192, R232): in compute cycle t the ended clause of core c has no operation left. -/
def clauseFinish (c t : Nat) (d : Dev) : Dev :=
  if 320 ≤ c then d
  else
    let k := core d c
    match k.run with
    | none => d
    | some r =>
      if !r.ended || !(matOps k).isEmpty || !k.vec.isEmpty || !k.mov.isEmpty || (r.last && !drainDone d c r) then d
      else
        let cyc := max (r.lastRet + 1) r.cyc
        let d := if r.last then (ctxChans d c r.fill).foldl (fun d n => match (chan d c n).cur with
            | some p => if p.held then putChan d c n { (chan d c n) with cur := some (cancelled p) } else d
            | none => d) d else d
        let d := setR d (SC_CLAUSE_CYC c) cyc
        let d := setR d (SC_MARGIN_MIN c) (min (getR d (SC_MARGIN_MIN c)) (guardCycle d - max cyc t))
        let d := modCore (coast d c cyc) c (fun k => { k with run := none, drained := if r.last then some r.fill else k.drained })
        let d := setF (setF d (SC_STATUS c) SC_STATUS_RUNNING 0) (CL_WAIT c) CL_WAIT_WAIT 0
        let d := if r.fill then d else setB d (CL_STATUS c) CL_STATUS_YIELDED false
        setActivity d c cyc

/- Starting a clause -/

/-- The constant bundles load X0 to X4·NCONST − 1 (R207). -/
def loadConsts (d : Dev) (c : Nat) (r : RunSt) : Dev :=
  (List.range r.nconst).foldl (fun d k =>
    let b := (storeBundle d c r.fill (r.start + 1 + k)).toNat
    (List.range 4).foldl (fun d j => setX d c (4 * k + j) (bits b (32 * j) 32)) d) d

/-- CLAUSE_START (R54, R207): core c, selected at the origin, starts its clause. -/
def clauseStart (c : Nat) (d : Dev) : Dev :=
  if 320 ≤ c then d
  else
    let k := core d c
    match k.run, k.sel, k.startPos with
    | none, some fill, some (start, rep) =>
      let hd := (storeBundle d c fill start).toNat
      let r : RunSt := { fill := fill, ctx := (residentOf d c fill).getD 0, start := start, len := bits hd 0 13,
                         nconst := bits hd 16 4, last := bit hd 13, rep := rep, no := k.clauseCnt + 1,
                         pc := start + 1 + bits hd 16 4, cyc := bits hd 16 4 }
      let d := modCore d c (fun k => { k with run := some r, startPos := none, clauseCnt := k.clauseCnt + 1, lastCtx := some r.ctx,
                                              gfFree := 0, vecFree := 0, movFree := 0, portFree0 := 0, portFree1 := 0, grpRet0 := 0,
                                              grpRet1 := 0, actCyc := 0, opCnt := 0 })
      let d := loadConsts d c r
      let d := setR (setR (setR d (SC_STALL_CYC c) 0) (SC_MERGED c) 0) (SC_EMPTY c) 0
      let d := setF d (SC_STATUS c) SC_STATUS_RUNNING (if fill then 2 else 1)
      let d := if fill then d else setB (setB d (CL_STATUS c) CL_STATUS_ENDED false) (CL_STATUS c) CL_STATUS_YIELDED false
      let d := setF (setF d (CL_WAIT c) CL_WAIT_PC r.pc) (CL_WAIT c) CL_WAIT_WAIT 0
      setActivity d c 0
    | _, _, _ => d

/- Operations start and retire -/

def pipeOps (k : CoreSt) : Pipe → List POp
  | .group => k.group
  | .half0 => k.half0
  | .half1 => k.half1
  | .vector => k.vec
  | .move => k.mov

def setPipe (k : CoreSt) (p : Pipe) (l : List POp) : CoreSt :=
  match p with
  | .group => { k with group := l }
  | .half0 => { k with half0 := l }
  | .half1 => { k with half1 := l }
  | .vector => { k with vec := l }
  | .move => { k with mov := l }

/-- The pipe and the interlocks of R124 and R212 let operation p start in cycle t. -/
def mayStart (k : CoreSt) (pipe : Pipe) (p : POp) (t : Nat) : Bool :=
  let groupsDone := fun (h : Nat) => k.group.all (fun g => decide (p.no < g.no) || !(groupHalves g.op).contains h ||
    (g.start.isSome && g.done == g.total && decide (g.retire < t)))
  decide (p.iss < t) &&
  (match pipe with
   | .group =>
     decide (k.gfFree ≤ t) && k.group.all (fun g => decide (p.no ≤ g.no) || (g.start.isSome && g.done == g.total))
   | .half0 => decide (k.portFree0 ≤ t) && groupsDone 0 && decide (k.grpRet0 < t)
   | .half1 => decide (k.portFree1 ≤ t) && groupsDone 1 && decide (k.grpRet1 < t)
   | .vector => decide (k.vecFree ≤ t)
   | .move => decide (k.movFree ≤ t))

/-- The handle entry an operand of an operation goes through. -/
def opndHandle (p : POp) (opnd : Nat) : Nat :=
  match p.op with
  | .vec _ => p.h opnd
  | .mat _ => p.h 0
  | .mov (.mfill _ _) => p.h 0
  | .mov _ => if opnd = 2 then p.h 1 else p.h 0

/-- A SPILL's destination of another width counts as an invalid handle (R217). -/
def spillBad (p : POp) : Bool :=
  match p.op with
  | .mat (.spill _ _ _ _ _ _) => hWidth (p.h 0) != 2
  | _ => false

/-- The shelf faults of a plan: invalid, out-of-range or mismatched handle use, and write protection (R152, R155, R217). -/
def planFaults (d : Dev) (c : Nat) (p : POp) (accs : List PortAcc) : Dev :=
  let w := opWho d c p
  let isWp := fun (a : PortAcc) => let h := opndHandle p a.opnd; a.wr && !spillBad p && hIn h (a.idx / hW h) && hWp h
  let bad := accs.filter (fun a => a.drop)
  let d := match bad.find? (fun a => !isWp a) with
    | some a => shfUseFault d w a.bank a.row SHF_FAULT_PART
    | none => d
  match bad.find? isWp with
  | some a => shfUseFault d w a.bank a.row SHF_FAULT_WP
  | none => d

/-- A SPILL's source rows taken into its plan as reads of operand 3 (R120), the latch, and the clear option (R119). -/
def spillStart (d : Dev) (c : Nat) (p : POp) (o : MatOp) : List PortAcc × Dev :=
  match o with
  | .spill half f n rf clr _ =>
    let rows := halfRows half.toNat f.toNat n.toNat
    let d := rows.foldl (fun d r => readAccRow d c r (opWho d c p).oper) d
    let out := spillResult d c half.toNat f.toNat n.toNat (rf == 1) p
    let d := latchCore d c (runWho d c).1 out.latch
    let d := if clr = 1 then clearAcc d c rows else d
    ((out.vals.zip (List.range out.vals.length)).map (fun v =>
      { opnd := 3, idx := v.2, cyc := 0, bank := 0, row := 0, wr := false, data := v.1.data, poison := v.1.poison }), d)
  | _ => ([], d)

/-- ACC_CLEAR takes effect on the file (R119); an ACC_LOAD's rows enter it as they are read (R123, loadDue). -/
def clearStart (d : Dev) (c : Nat) (o : MatOp) : Dev :=
  match o with
  | .accclr half f n => clearAcc d c (halfRows half.toNat f.toNat n.toNat)
  | _ => d

/-- The cycle an operation retires in, from its first cycle and the cycles it occupies (R120, R157, R162, R217, R221, R222). -/
def retireCycle (p : POp) (s occ : Nat) : Nat :=
  match p.op with
  | .vec _ => s + occ + 7
  | .mat (.spill _ _ _ _ _ _) => s + occ + 5
  | .mat (.accld _ _ _ _) => s + occ + 5
  | .mat (.accclr _ _ _) => s + occ
  | .mat _ => s + 1
  | .mov (.mcopy _ _) => s + occ + 3
  | .mov (.mfill _ _) => s + occ + 3
  | .mov (.cnc _ _ _ _ _ _) => s + occ + 3
  | .mov (.sput _ _) => s + occ + 3
  | .mov (.wake _) => p.iss + 1200
  | .mov _ => s

/-- Cycles for which a move operation holds its pipe; SLEEP and WAKE hold it until they are done (R222). -/
def pipeOcc (p : POp) (occ : Nat) : Nat :=
  match p.op with
  | .mov (.wake _) => 1200
  | _ => occ

/-- The faults that the shape of an operation and the shelf rows it plans raise (R139, R212). -/
def planned (d : Dev) (c : Nat) (p0 : POp) : Dev :=
  let plan := planOf p0
  let d1 := if plan.shape then (match p0.op with
      | .mov _ => shfUseFault d (opWho d c p0) 0 0 SHF_FAULT_PART
      | _ => opFault d c p0 (CL_FAULT c) CL_FAULT_SHAPE 0x50) else d
  planFaults d1 c p0 plan.accs

/-- Ports that two accesses name in one cycle: the losers' operations lose them (R546, R547). -/
def loseTo (d : Dev) (c : Nat) (p : POp) (los : List Live) : Dev :=
  let d1 := match los with
    | l :: _ => shfUseFault d (opWho d c p) l.acc.bank l.acc.row SHF_FAULT_PORT
    | [] => d
  if los.isEmpty then d1 else modCore d1 c (fun k => mapOps k (dropLost los))

/-- The matrix ports and STREAM_PUT act at an operation's start; of the operations that start in one cycle, those that R139
serves first start first (log 16). -/
def portStarts (d : Dev) (c : Nat) (p : POp) : List PortAcc × Dev :=
  match p.op with
  | .mat o =>
    let sp := spillStart d c p o
    (sp.1, clearStart sp.2 c o)
  | .mov o => ([], sputStart d c p o)
  | .vec _ => ([], d)

/-- Operation p stands started in its pipe, which takes no other before `free`; reads still to be made see its writes (R213). -/
def started (d : Dev) (c : Nat) (pipe : Pipe) (p : POp) (free : Nat) : Dev :=
  modCore d c (fun k =>
    let ops := portOps (mapOps k (fun q => if q.no = p.no then p else q))
    let k1 := mapOps k (fun q => if q.no = p.no then p else seeWrites d c ops p q)
    let k2 := { k1 with gpend := k.gpend.map (seeGroup d c ops p) }
    { k2 with vecFree := if pipe = .vector then free else k.vecFree, movFree := if pipe = .move then free else k.movFree,
              portFree0 := if pipe = .half0 then free else k.portFree0, portFree1 := if pipe = .half1 then free else k.portFree1 })

/-- The writes of a plan, those marked that a stream-port write hits in their cycle (R141): `clash` are their rows. -/
def markClash (c : Nat) (clash : List Nat) (accs : List PortAcc) : List PortAcc :=
  accs.map (fun a => { a with clash := a.wr && decide (a.bank < 128) && clash.contains (shelfRowAddr c a.bank a.row) })

/-- An operation starts in cycle t (R139, R212, R546, R547): its rows are planned, ports that two accesses name in one
cycle are given to one of them, its reads are taken, and the matrix ports and STREAM_PUT act. -/
def startOp (d : Dev) (c t : Nat) (pipe : Pipe) (clash : List Nat) (p0 : POp) : Dev :=
  let plan := planOf p0
  let w := isWaiting d c
  let d1 := planned (catchUp d c t) c p0
  let p := { p0 with start := some t, accs := markClash c clash plan.accs, retire := retireCycle p0 t plan.occ, gate := none }
  let los := losers ((p :: portOps (core d1 c)).flatMap (fun q => livePorts q t))
  let p1 := dropLost los p
  let d2 := loseTo d1 c p los
  let rd := readAccs c (opWho d2 c p1) (portOps (core d2 c)) t p1.accs d2
  let p2 := { p1 with accs := rd.1 }
  let sp := portStarts rd.2 c p2
  let p3 := { p2 with accs := p2.accs ++ sp.1 }
  setActivity (modRun (started sp.2 c pipe p3 (t + pipeOcc p3 plan.occ)) c (waitedTo w t)) c t

/-- OP_START (R212, R229): in compute cycle t the oldest pending operation of a pipe of core c starts, unless its pipe or an
interlock holds it, or the note gate does. `up` is the rows whose parity has gone bad, `clash` the shelf
rows of the operation that a stream-port write hits in the cycle in which it writes them (R141). -/
def opStart (c : Nat) (pipe : Pipe) (t : Nat) (up : Upsets) (clash : List Nat) (d : Dev) : Dev :=
  if 320 ≤ c then d
  else
    let k := core d c
    match (pipeOps k pipe).find? (fun p => p.start.isNone) with
    | none => d
    | some p =>
      -- the pipe still holds a SLEEP or WAKE that is not done
      let asleep := pipe == .move && k.mov.any (fun q => q.start.isSome && (match q.op with
        | .mov (.sleep _) => true
        | .mov (.wake _) => true
        | _ => false))
      if asleep || !mayStart k pipe p t then d
      else
        let gated := decide (getF d (CL_NOTE c) CL_NOTE_COVER + 2 < activity k t + opUnits p) && decide (0 < opUnits p)
        if gated then
          let d := modCore d c (fun k => mapOps k (fun q => if q.no = p.no then { q with gate := some (q.gate.getD t) } else q))
          if getF d (CL_WAIT c) CL_WAIT_WAIT = 0 then setF d (CL_WAIT c) CL_WAIT_WAIT 6 else d
        else
          let d := setR (coast d c t) (CL_GATED c) (getR d (CL_GATED c) + (t - p.gate.getD t))
          let others := (allOps k).any (fun q => q.gate.isSome && q.no != p.no)
          let d := if getF d (CL_WAIT c) CL_WAIT_WAIT = 6 && !others then setF d (CL_WAIT c) CL_WAIT_WAIT 0 else d
          discardFiller (startOp (upset d up.shelf up.acc) c t pipe clash p) c t

/-- An operation leaves its pipe, having retired in cycle t. -/
def leavePipe (d : Dev) (c : Nat) (pipe : Pipe) (no t : Nat) : Dev :=
  discardFiller (setActivity (modRun (modCore (coast d c t) c (fun k => setPipe k pipe ((pipeOps k pipe).filter (fun q => q.no != no)))) c
    (fun r => { (waitedTo (isWaiting d c) t r) with lastRet := max r.lastRet t })) c t) c t

/-- The larder offset XLD and XST name is served (R223). -/
def larderOk (d : Dev) (ctx ofs : Nat) : Bool :=
  let base := ctxBits d ctx 192 17 * 4096
  let len := ctxBits d ctx 209 17 * 4096
  ofs % 4 == 0 && decide (ofs < larderSize) && decide (base ≤ ofs) && decide (ofs + 4 ≤ base + len)

/-- The larder's word port serves an XLD or XST (R223). -/
def larderWord (d : Dev) (c : Nat) (p : POp) (o : MovOp) : Dev :=
  let ofs := p.x 0 % 2 ^ 29
  let ok := larderOk d (runWho d c).2 ofs
  let a := larderAddr (c / 5) ofs
  let fault := fun (d : Dev) => opFault d c p (CL_FAULT c) CL_FAULT_WORD 0x50
  match o with
  | .xld xd _ =>
    if !ok then setX (fault d) c xd.toNat 0
    else
      let d1 := if (rowMetaAt d a).poison then fault d else d
      setX d1 c xd.toNat (readMem d a 4)
  | .xst _ _ => if ok then writeMem d a 4 (p.x 1) else fault d
  | _ => d

/-- An XLD or XST. -/
def isWord (q : POp) : Bool :=
  match q.op with
  | .mov (.xld _ _) => true
  | .mov (.xst _ _) => true
  | _ => false

/-- A matrix or vector operation retires: the rest of its rows land, its latch and header
faults are set (R221). -/
def retireCalc (d : Dev) (c : Nat) (pipe : Pipe) (p : POp) : Dev :=
  let out := opResult d c p
  let d1 := catchUp d c (p.retire + 1)
  let d2 := latchCore d1 c (runWho d1 c).1 out.latch
  let d3 := if out.badHdr then opFault d2 c p (SC_FAULT c) SC_FAULT_HDR 0x51 else d2
  leavePipe d3 c pipe p.no p.retire

/-- Operation p of a pipe of core c retires: its remaining rows land, its latch and header faults are set, an XLD or XST completes in
cycle t (R211, R221, R223). -/
def retireOp (d : Dev) (c : Nat) (pipe : Pipe) (t : Nat) (p : POp) : Dev :=
  match p.op with
  | .mov (.sleep _) => d
  | .mov (.wake _) => d
  | .mov o =>
    if isWord p then
      if (core d c).mov.any (fun q => isWord q && decide (q.no < p.no)) then d
      else leavePipe (larderWord d c p o) c pipe p.no (max t p.retire)
    else leavePipe (catchUp d c (p.retire + 1)) c pipe p.no p.retire
  | _ => retireCalc d c pipe p

/-- OP_RETIRE (R211, R221): operation `no` of a pipe of core c retires. `up` is the rows whose parity goes bad in that cycle (R163, R117). -/
def opRetire (c : Nat) (pipe : Pipe) (no t : Nat) (up : Upsets) (d : Dev) : Dev :=
  if 320 ≤ c then d
  else
    match (pipeOps (core d c) pipe).find? (fun p => p.no == no && p.start.isSome && p.done == p.total) with
    | none => d
    | some p => upset (retireOp d c pipe t p) up.shelf up.acc

/-- Banks of the groups of a mask. -/
def groupBanks (g : Nat) : List Nat := (List.range 128).filter (fun b => bit g (b / 8))

/-- SHF_SLEEP_DONE (R159): every named group is empty: the groups power down, their rows are lost, SHF_SLEEP retires. -/
def shfSleepDone (c t : Nat) (d : Dev) : Dev :=
  if 320 ≤ c then d
  else match (core d c).mov.find? (fun p => p.start.isSome) with
    | some p =>
      match p.op with
      | .mov (.sleep g) =>
        let d := setF d (SHF_AWAKE c) SHF_AWAKE_AWAKE (getF d (SHF_AWAKE c) SHF_AWAKE_AWAKE &&& (0xFFFF ^^^ g.toNat))
        let d := (groupBanks g.toNat).foldl (fun d b => (List.range 32).foldl (fun d r => wipeRows d (shelfRowAddr c b r) 1) d) d
        let t := max t (p.start.getD 0)
        leavePipe (modCore d c (fun k => { k with movFree := t + 1 })) c .move p.no t
      | _ => d
    | none => d

/-- SHF_WAKE_DONE (R162): the named groups are awake: every row +0, its headers 0x0000, poisoned; windows reopen. Clause writes that
fell while they were closed have been refused. DESIGN CHOICE (log 101): a named group that was awake already keeps its rows. -/
def shfWakeDone (c : Nat) (d : Dev) : Dev :=
  if 320 ≤ c then d
  else match (core d c).mov.find? (fun p => p.start.isSome) with
    | some p =>
      match p.op with
      | .mov (.wake g) =>
        let d := catchUp d c p.retire
        let asleep := g.toNat &&& (0xFFFF ^^^ getF d (SHF_AWAKE c) SHF_AWAKE_AWAKE)
        let d := (groupBanks asleep).foldl (fun d b => (List.range 32).foldl (fun d r =>
          let a := shelfRowAddr c b r
          setMeta (wipeRows d a 1) a { poison := true, born := ticks d + 1 }) d) d
        let d := setF d (SHF_AWAKE c) SHF_AWAKE_AWAKE (getF d (SHF_AWAKE c) SHF_AWAKE_AWAKE ||| g.toNat)
        let d := setF d (SHF_ACCEPT c) SHF_ACCEPT_ACCEPT (getF d (SHF_ACCEPT c) SHF_ACCEPT_ACCEPT ||| g.toNat)
        leavePipe (modCore d c (fun k => { k with movFree := p.retire + 1 })) c .move p.no p.retire
      | _ => d
    | none => d

/-- GF_GROUP (R110): in compute cycle cyc the gather front of core c takes the front group of the channel its running
operation names, or waits for one (R112). `us` and `ua` are the shelf and accumulator rows whose parity has gone bad. -/
def gfGroup (c cyc : Nat) (us ua : List Nat) (d : Dev) : Dev :=
  if 320 ≤ c then d
  else
    let k := core d c
    match gatherOp k with
    | none => d
    | some q =>
      if cyc < k.gfFree ∨ cyc < q.start.getD 0 ∨ portsFree k q cyc = false then d
      else match q.op with
        | .mat m =>
          match gopOf m q.done with
          | none => d
          | some go =>
            match (chan d c go.ch).cur with
            | some p =>
              if p.held || p.discard then setB d (SC_STATUS c) SC_STATUS_GF_WAIT true
              else match p.gstage with
                | [] => setB d (SC_STATUS c) SC_STATUS_GF_WAIT true
                | g :: gs =>
                  let d := upset (setB (coast d c cyc) (SC_STATUS c) SC_STATUS_GF_WAIT false) us ua
                  let dd := groupCycles q go p g
                  let d := takeGroup (runGroup (catchUp d c cyc) c q go p g cyc) c go.ch { p with gstage := gs } g gs (isBad p g)
                  let ret := cyc + dd + 9
                  let d := modCore d c (fun k => { k with
                    gfFree := cyc + dd,
                    grpRet0 := if go.half = 0 ∨ go.masked then max k.grpRet0 ret else k.grpRet0,
                    grpRet1 := if go.half = 1 ∨ go.masked then max k.grpRet1 ret else k.grpRet1,
                    group := k.group.map (fun o => if o.no = q.no then { o with done := o.done + 1, retire := ret } else o) })
                  discardFiller (setActivity d c cyc) c cyc
            | none => setB d (SC_STATUS c) SC_STATUS_GF_WAIT true
        | _ => d

/- Load notes (R227-R230) -/

/-- The cycle in which the last engine of a core stops. -/
def lastStop (k : CoreSt) : Nat := ((allOps k).map (·.retire)).foldl max k.actCyc

/-- COVERAGE_FALL (R230): 200 ns after a drop without a note, coverage falls to the activity level of that moment. -/
def coverageFall (c : Nat) (d : Dev) : Dev :=
  if 320 ≤ c then d
  else
    let d1 := coast d c (lastStop (core d c))
    match (core d1 c).fall with
    | some m =>
      let act := activity (core d1 c) (((m + 400000 - 1000 * (d.originAt + 128)) * fMHz d + 1000000) / 2000000)
      coverTo d1 c act act (m + 400000)
    | none => d

end Sys2Proof.Machine
end

