-- ==== Sys2Proof/Machine/ExecClause.lean ====
section
/-!
DEFINITION. Machine/ExecClause.lean: what happens inside a clause beside its slots (R54-R59, R106-R123, R155-R163, R205-R233). One meaning for each command, over the operations of its chapter.
-/
namespace Sys2Proof.Machine

/-- CLAUSE_START (R207): At origin plus 64 ns the selected clause starts, loading SC_SLICE, spill and W1 sequence registers and constant bundles. -/
def execClauseStart (c : Nat) (s : State) : Answer := act s (clauseStart c)

/-- NOP (R209): Opcode 0x00 in a slot performs no operation. -/
def execNop (c : Nat) (s : State) : Answer := act s (issueNop c)

/-- ILLEGAL_BUNDLE (R214): A bundle with an undefined opcode, reserved bits or excluded values causes a clause fault. -/
def execIllegalBundle (c t : Nat) (s : State) : Answer := act s (illegalBundle c t)

/-- GF_GROUP (R110): The gather front takes a ready group, reads its rows over D cycles and passes products to the accumulator. -/
def execGfGroup (c cyc : Nat) (us ua : List Nat) (s : State) : Answer := act s (gfGroup c cyc us ua)

/-- SHF_SLEEP_DONE (R159): A sleeping group's in-flight writes reach zero and it powers down; SLEEP retires when all are asleep. -/
def execShfSleepDone (c t : Nat) (s : State) : Answer := act s (shfSleepDone c t)

/-- SHF_WAKE_DONE (R162): 1,200 cycles after WAKE the groups hold poisoned zero rows and reopen. -/
def execShfWakeDone (c : Nat) (s : State) : Answer := act s (shfWakeDone c)

/-- OP_START (R212): A pending operation starts on its pipe once the pipe and interlocks allow. -/
def execOpStart (c : Nat) (pipe : Pipe) (t : Nat) (up : Upsets) (clash : List Nat) (s : State) : Answer := act s (opStart c pipe t up clash)

/-- OP_RETIRE (R221): An operation retires after its fixed occupancy. -/
def execOpRetire (c : Nat) (pipe : Pipe) (no t : Nat) (up : Upsets) (s : State) : Answer := act s (opRetire c pipe no t up)

/-- CLAUSE_FINISH (R232): After END every operation has retired, and for a last-of-layer clause every stream has drained; the clock is gated. -/
def execClauseFinish (c t : Nat) (s : State) : Answer := act s (clauseFinish c t)

/-- COVERAGE_FALL (R230): 200 ns after activity drops without a note, coverage falls and ballast stops. -/
def execCoverageFall (c : Nat) (s : State) : Answer := act s (coverageFall c)

end Sys2Proof.Machine
end

