-- ==== Sys2Proof/Machine/Mesh.lean ====
section
/-!
DEFINITION. Machine/Mesh.lean: the routers, their slot tables and adders, and what local ports do with flits (R28, R29,
R63-R70, R178, R179, R189, R254, R545, R548).
-/
namespace Sys2Proof.Machine

/-- Entries a router's slot table uses (R64, R74). -/
def slotPeriod (d : Dev) (t : Nat) : Nat :=
  let p := getF d (SLOT_CTL t) SLOT_CTL_PERIOD
  if p = 0 then 8192 else p

/-- Entry i of router t's slot table. -/
def slotEntry (d : Dev) (t i : Nat) : Nat := (d.slotTable.get (t * 8192 + i % 8192) 0).toNat

/-- Router cycles of the schedule window (R65). -/
def windowCycles (d : Dev) : Nat := (getF d TG_SENT_LEN TG_SENT_LEN_LEN - 1) * 2000

/-- The entry index router t applies in cycle c, if it applies one (R65). -/
def entryIndex (d : Dev) (t c : Nat) : Option Nat :=
  if !getB d (SLOT_CTL t) SLOT_CTL_ENABLE || baseLost d t then none
  else if !getB d (SLOT_CTL t) SLOT_CTL_REPEAT && decide (slotPeriod d t ≤ c) then none
  else some (c % slotPeriod d t)

/-- Port-map entry of a unit at a slot-table index (R178): cores are units 0-319, larders 320-383, controllers 384-511. -/
def portEntry (d : Dev) (unit i : Nat) : Nat := (d.portMap.get (unit * 8192 + i % 8192) 0).toNat

/-- The unit behind local port p of router t (R63). -/
def portUnit (d : Dev) (t p : Nat) : Option Nat :=
  if 6 ≤ p ∧ p ≤ 9 then slotCore d t (p - 6)
  else if p = 10 then some (320 + t)
  else if p = 11 then some (384 + 2 * t)
  else if p = 12 then some (384 + 2 * t + 1)
  else none

/-- The mesh unit number (R176) of a larder or controller port unit. -/
def agentUnit (u : Nat) : Nat := if u < 384 then u - 320 else 64 + (u - 384)

/-- Tile beside tile t through mesh port p, and the port the flit arrives at (R63). -/
def neighbour (t p : Nat) : Option (Nat × Nat) :=
  match p with
  | 0 => if t < 56 then some (t + 8, 2) else none
  | 1 => if t % 8 < 7 then some (t + 1, 3) else none
  | 2 => if 8 ≤ t then some (t - 8, 0) else none
  | 3 => if 0 < t % 8 then some (t - 1, 1) else none
  | _ => none

/-- A schedule fault of tile t: its SLOT_STATUS bit, a record of class SCHEDULE, a step-scope RERUN (R66, R69). -/
def slotFault (d : Dev) (t port : Nat) (f : Fld) (fill : Bool) : Dev :=
  report (setB d (SLOT_STATUS t) f true) { cls := 0x54, kind := 2, unit := t, sub := port, filler := fill, scope := .step }

/-- What a local port supplies in a slot: a flit, or none ready; and whether the slot passes as a BULK slot would (R178,
R189, R198, R254, R545). -/
structure Supply where
  flit : Option Flit := none
  quiet : Bool := false
  fill : Bool := false
  deriving DecidableEq, Repr

/-- The flit a core slot port supplies (R178, R189, R198). -/
def coreSupply (d : Dev) (t p c e : Nat) : Supply × Dev :=
  let ch := bits e 8 6
  let fill := getB d (STR_CTL c (ch % 16)) STR_CTL_OWNER
  if !bit e 14 || decide (16 ≤ ch) then ({}, d)
  else
    let q := (chan d c ch).quiet
    match chanTake d c ch with
    | (some rows, d1) => ({ flit := some { tile := t, port := p, cyc := 0, rows := rows, fill := fill }, quiet := q, fill := fill }, d1)
    | (none, d1) =>
      match capTake d1 c ch with
      | (some r, d2) =>
        let ctx := (residentOf d c fill).getD 0
        let fl : Flit := { tile := t, port := p, cyc := 0, rows := r.rows, addrs := (List.range 4).map (fun i => r.addr + 128 * i), tag := ctxBits d ctx 8 8, ctx := ctx, agent := r.agent, fill := fill }
        ({ flit := some fl, quiet := q, fill := fill }, d2)
      | (none, d2) => ({ quiet := q, fill := fill }, d2)

/-- The flit local port p of router t supplies at slot-table index i. -/
def localSupply (d : Dev) (t p i : Nat) : Supply × Dev :=
  match portUnit d t p with
  | none => ({}, d)
  | some u =>
    let e := portEntry d u i
    if u < 320 then coreSupply d t p u e
    else if !bit e 14 then ({}, d)
    else
      let ag := bits e 8 6
      -- agent 62 uses the side port, agent 63 the addresses of bulk requests (R254, R545)
      if ag = 63 ∨ (384 ≤ u ∧ ag = 62) then ({ quiet := true }, d)
      else
        let fill := match d.agents.get (agentKey (agentUnit u) ag) none with
          | some a => a.prog.fill
          | none => false
        match agentTake d (agentUnit u) ag 8 [] with
        | ([], d1) => ({ fill := fill }, d1)
        | (rows, d1) => ({ flit := some { tile := t, port := p, cyc := 0, rows := rows, fill := fill }, fill := fill }, d1)

/-- A flit whose every row is poisoned: what a schedule miss sends (R69). -/
def missFlit (t p : Nat) (fill : Bool) : Flit :=
  { tile := t, port := p, cyc := 0, rows := List.replicate 8 { poison := true }, fill := fill }

/-- Whether the fused spare of tile t serves the core slot behind local port p (R22, R70). -/
def spareServes (d : Dev) (t p : Nat) : Bool :=
  decide (6 ≤ p ∧ p ≤ 9) && getB d (TILE_STATE t) TILE_STATE_SPARE_IN_USE && slotCoreNo d t (p - 6) == getF d (TILE_FUSE t) TILE_FUSE_SPARE_CORE

/-- What local port p gives the entry of cycle c at index i: of a slot that a spare serves what the router read one cycle earlier
(R70), of any other what the port supplies now. -/
def portSupply (d : Dev) (t p c i : Nat) : Supply × Dev :=
  let mine := fun (x : PreRead) => x.tile == t && x.port == p && x.cyc == c
  match d.preReads.find? mine with
  | some x => ({ flit := x.flit, quiet := x.quiet, fill := x.fill }, { d with preReads := d.preReads.filter (fun x => !mine x) })
  | none => localSupply d t p i

/-- The flit input p of router t holds in cycle c at index i: one present on a mesh or edge input or the adder's sum, or
one read from a local port while the window is open; a local source with nothing ready is a schedule miss, but an empty
flit in a BULK slot (R64-R69). -/
def inputFlit (d : Dev) (t p c i : Nat) (bulk window : Bool) : Option Flit × Dev :=
  if p < 6 ∨ p = 15 then (d.flits.find? (fun f => f.tile == t && f.port == p && f.cyc == c), d)
  else if !window then (none, d)
  else
    let s := portSupply d t p c i
    match s.1.flit with
    | some f => (some f, s.2)
    | none => if bulk || s.1.quiet then (none, s.2)
      else (some (missFlit t p s.1.fill), slotFault s.2 t p SLOT_STATUS_MISS s.1.fill)

/-- Every input an entry selects, read once each, ascending. -/
def inputs (t c i : Nat) (bulk window : Bool) : List Nat → Dev → List (Nat × Flit) × Dev
  | [], d => ([], d)
  | p :: ps, d =>
    let x := inputFlit d t p c i bulk window
    let y := inputs t c i bulk window ps x.2
    ((match x.1 with | some f => [(p, f)] | none => []) ++ y.1, y.2)

/-- One output word of the adder and whether it sets the latch (R67, R85, R97, R100). -/
def addWords (x y : Nat) : Nat × Bool :=
  let a := decodeNum fSdx32 x
  let b := decodeNum fSdx32 y
  let r := encodeNum fSdx32 .rne (addNum a b)
  (r, latches [a, b] (decodeNum fSdx32 r))

/-- One row of the adder's sum (R67). -/
def addFRow (x y : FRow) : FRow × Bool :=
  let ws := (List.range 32).map (fun k => addWords (elemAt x.data.toNat 32 k) (elemAt y.data.toNat 32 k))
  ({ data := BitVec.ofNat 1024 (packElems 32 (ws.map (·.1))), poison := x.poison || y.poison }, ws.any (·.2))

/-- The adder's sum of two flits; with one operand it passes through unchanged (R64, R67; log 17). -/
def addFlits (a b : Option Flit) : Option Flit × Bool :=
  match a, b with
  | some x, some y =>
    let n := max x.rows.length y.rows.length
    let rs := (List.range n).map (fun k => addFRow (x.rows.getD k {}) (y.rows.getD k {}))
    (some { x with rows := rs.map (·.1), fill := x.fill && y.fill }, rs.any (·.2) && !(x.fill && y.fill))
  | some x, none => (some x, false)
  | none, y => (y, false)

/-- A flit about to be received on a mesh link, as fault injection at its receiver leaves it (R362, R363). -/
def meshInject (d : Dev) (f : Flit) : Flit × Dev :=
  let mode := getF d (MSH_INJ_CTL f.tile) MSH_INJ_CTL_MODE
  if mode = 0 ∨ 3 < mode ∨ !injAllowed d ∨ !bit (getF d (MSH_INJ_CTL f.tile) MSH_INJ_CTL_LINKS) f.port then (f, d)
  else
    let x := injStep (d.meshInj.gen.get f.tile 1).toNat
    let setX := fun (d : Dev) (x : Nat) => { d with meshInj := { d.meshInj with gen := d.meshInj.gen.put f.tile (BitVec.ofNat 32 x) 1 } }
    if getF d (MSH_INJ_RATE f.tile) MSH_INJ_RATE_RATE ≤ x % 2 ^ 24 then (f, setX d x)
    else
      let d1 := incF d (MSH_INJ_CNT f.tile) MSH_INJ_CNT_COUNT
      match mode with
      | 1 => ({ f with rows := f.rows.map (fun r => { r with poison := true }) }, setX d1 x)
      | 2 =>
        let y := injStep x
        let b := y % (1024 * f.rows.length)
        let rows := (f.rows.zip (List.range f.rows.length)).map (fun r =>
          if r.2 = b / 1024 then { r.1 with data := r.1.data ^^^ BitVec.ofNat 1024 (1 <<< (b % 1024)) } else r.1)
        ({ f with rows := rows }, setX d1 y)
      | _ =>
        let d2 := setX d1 x
        (f, { d2 with meshInj := { d2.meshInj with swap := d2.meshInj.swap.put (16 * f.tile + f.port) (f.cyc + 1) 0 } })

/-- A flit received on a mesh link: one that waits there to be exchanged changes places with it (R362 mode 3, R363; log 28). -/
def receiveFlit (d : Dev) (f : Flit) : Dev :=
  let key := 16 * f.tile + f.port
  let at_ := d.meshInj.swap.get key 0
  let r := meshInject { d with meshInj := { d.meshInj with swap := d.meshInj.swap.put key 0 0 } } f
  let g := r.1
  match if at_ = 0 ∨ !injAllowed d then none else r.2.flits.find? (fun x => x.tile == g.tile && x.port == g.port && x.cyc + 1 == at_) with
  | none => { r.2 with flits := r.2.flits ++ [g] }
  | some old =>
    { r.2 with flits := r.2.flits.map (fun x => if x == old then { g with cyc := old.cyc } else x) ++ [{ old with cyc := g.cyc }] }

/-- A flit sent out of output n of router t in cycle c (R67); a slot that a spare serves is given it one cycle later (R70). No rule
gives a flit sent out of an edge attachment a taker (log 71). -/
def sendOut (d : Dev) (t c n : Nat) (f : Flit) : Dev :=
  if f.rows.isEmpty then d
  else if n < 4 then
    match neighbour t n with
    | some (t2, p2) => receiveFlit d { f with tile := t2, port := p2, cyc := c + 3 }
    | none => d
  else if n < 6 then d
  else if n < 15 then
    let late := if spareServes d t n then 1 else 0
    { d with deliveries := d.deliveries ++ [{ tile := t, port := n, idx := (c + 1) % slotPeriod d t, flit := { f with tile := t, port := n, cyc := c + 1 + late } }] }
  else d

/-- The flits of a router cycle leave their inputs; each one that no output selected, an adder sum too (log 98), is dropped
(R69). -/
def unselected (d : Dev) (t : Nat) (here : Flit → Bool) (used : List Nat) : Dev :=
  (d.flits.filter (fun f => here f && !used.contains f.port)).foldl (fun d f => slotFault d t f.port SLOT_STATUS_DROP f.fill)
    { d with flits := d.flits.filter (fun f => !here f) }

/-- The ADDER of router t in cycle c: operands a and b give a flit at its output two cycles on, or latch an error (R70). -/
def adderAt (d : Dev) (t c : Nat) (a b : Option Flit) : Dev :=
  let s := addFlits a b
  let d3 := if s.2 then { d with meshLatch := d.meshLatch.put t true false } else d
  match s.1 with
  | some f => { d3 with flits := d3.flits ++ [{ f with tile := t, port := 15, cyc := c + 2 }] }
  | none => d3

/-- The input that feeds output n under slot-table entry e (R64). -/
def entrySrc (e n : Nat) : Nat := bits e (4 * n) 4

/-- The inputs that some output or adder operand of slot-table entry e selects, ascending (R64). -/
def entryUsed (e : Nat) : List Nat :=
  let active := (List.range 15).filter (fun n => entrySrc e n != n)
  let addA := if entrySrc e 15 = 15 then [] else [entrySrc e 15]
  let addB := if entrySrc e 15 = 15 ∨ bits e 64 4 = 15 then [] else [bits e 64 4]
  (List.range 16).filter (fun p => active.any (fun n => entrySrc e n == p) || addA.contains p || addB.contains p)

/-- Entry i of router t's slot table is applied in cycle c. -/
def applyEntry (d : Dev) (t c i : Nat) (here : Flit → Bool) : Dev :=
  let e := slotEntry d t i
  let used := entryUsed e
  let rd := inputs t c i (bit e 68) (decide (c < windowCycles d)) used d
  let flit := fun (p : Nat) => (rd.1.find? (fun x => x.1 == p)).map (·.2)
  let d2 := ((List.range 15).filter (fun n => entrySrc e n != n)).foldl (fun d n => match flit (entrySrc e n) with
    | some f => sendOut d t c n f
    | none => d) (unselected rd.2 t here used)
  if entrySrc e 15 = 15 then d2
  else adderAt d2 t c (flit (entrySrc e 15)) (if bits e 64 4 = 15 then none else flit (bits e 64 4))

/-- The local reads of router t for its entry of cycle c from the slots a spare serves, made in the cycle before (R70). -/
def earlyReads (d : Dev) (t c : Nat) : Dev :=
  match if windowCycles d ≤ c then none else entryIndex d t c with
  | none => d
  | some i => ((entryUsed (slotEntry d t i)).filter (spareServes d t)).foldl (fun d p =>
      let s := localSupply d t p i
      { s.2 with preReads := s.2.preReads ++ [{ tile := t, port := p, cyc := c, flit := s.1.flit, quiet := s.1.quiet, fill := s.1.fill }] }) d

/-- The reads for the entries of cycle 0, made in the router cycle before the sentence origin (R70). -/
def originReads (d : Dev) : Dev := (List.range 64).foldl (fun d t => earlyReads d t 0) { d with preReads := [] }

/-- FLIT_HOP (R67, R70): router t applies its slot-table entry for router cycle c of the sentence. -/
def flitHop (t c : Nat) (d : Dev) : Dev :=
  if 64 ≤ t then d
  else
    let here := fun (f : Flit) => f.tile == t && f.cyc == c && (decide (f.port < 6) || f.port == 15)
    let d1 := match entryIndex d t c with
      | none => unselected d t here []
      | some i => if windowCycles d + 256 ≤ c then d else applyEntry d t c i here
    earlyReads d1 t (c + 1)

/-- A stray flit at a larder or controller (R179). -/
def strayUnit (d : Dev) (u port : Nat) (fill : Bool) : Dev :=
  if u < 384 then report d { cls := 0x54, kind := 2, unit := u - 320, sub := port, filler := fill, scope := .step }
  else report d { cls := 0x54, kind := 3, unit := u - 384, filler := fill, scope := .step }

/-- Rows that carry their addresses, written by the agent they name at unit u (R189, R254, R545): a slot given to another agent, or a
row of another unit, finds none that expects it (R179); a refused row is recorded. -/
def addrRows (d : Dev) (u id port : Nat) (f : Flit) : Dev :=
  if f.agent ≠ id then strayUnit d u port f.fill
  else (f.rows.zip f.addrs).foldl (fun d x =>
    if unitOf x.2 ≠ some (agentUnit u) then strayUnit d u port f.fill
    else
      let r := unitWrite d x.2 x.1 { tag := f.tag, ctx := f.ctx, fill := f.fill }
      if r.1 then r.2
      else report r.2 { cls := 0x53, kind := 1, unit := 0, ctx := f.ctx, filler := f.fill, addr := x.2, scope := .step }) d

/-- The rows of a flit delivered to an agent, in order; the rows left when its stream ends are ignored (R178, R179). -/
def agentRows (d : Dev) (u ag port : Nat) (fill : Bool) : List FRow → Bool → Dev
  | [], _ => d
  | r :: rs, first =>
    match agentPut d (agentUnit u) ag r with
    | some d1 => agentRows d1 u ag port fill rs false
    | none => if first then strayUnit d u port fill else d

/-- FLIT_DELIVER (R548): the n-th flit routers have sent to local ports is taken by the channel or agent its port map
names; a unit takes its flits in the order they were sent. A stray flit whose entry names no channel sets the STRAY bit of channel
IN_ID mod 16 (log 98). -/
def flitDeliver (n : Nat) (d : Dev) : Dev :=
  match d.deliveries[n]? with
  | none => d
  | some v =>
    if (d.deliveries.take n).any (fun x => x.tile == v.tile && x.port == v.port) then d else
    let d := { d with deliveries := d.deliveries.eraseIdx n }
    match portUnit d v.tile v.port with
    | none => report d { cls := 0x54, kind := 2, unit := v.tile, sub := v.port, filler := v.flit.fill, scope := .step }
    | some u =>
      let e := portEntry d u v.idx
      let id := bits e 0 6
      if u < 320 then
        if !bit e 6 || decide (16 ≤ id) then strayCore d u (id % 16) else chanRows d u id v.flit.rows none
      else if !bit e 6 then strayUnit d u v.port v.flit.fill
      else if !v.flit.addrs.isEmpty then addrRows d u id v.port v.flit
      else agentRows d u id v.port v.flit.fill v.flit.rows true

/-- DRAIN_SPAN_END (R66): a valid flit still in any router is dropped and logged, and the step ends in RERUN. -/
def drainSpanEnd (d : Dev) : Dev :=
  d.flits.foldl (fun d f => slotFault d f.tile f.port SLOT_STATUS_DROP f.fill) { d with flits := [] }

/-- Router cycles from a node's tick to its sentence origin (R46): TICK_ALIGN of a tile or an edge die; the host-and-management die,
where the tick is emitted, starts 64 ns after it. -/
def tickAlign (d : Dev) (u : Nat) : Nat :=
  if u < 64 then getF d (SLOT_ALIGN u) SLOT_ALIGN_TICK_ALIGN else if u < 80 then d.edgeAlign.get (u - 64) 0 else 128

/-- TICK_ARRIVAL (R46): the tick reaches a CN node (tile t is node t, edge die k node 64 + k, the host-and-management die
node 80), whose unit starts its sentence TICK_ALIGN router cycles later (kept one higher, so that no entry is 0). -/
def tickArrival (u : Nat) (d : Dev) : Dev :=
  if 81 ≤ u ∨ !d.tickOut then d
  else { d with tickAt := d.tickAt.put u (d.now + tickAlign d u + 1) 0 }

/-- TICK_FAULT (R48): a CN node (tile t is node t, edge die k node 64 + k) that has received no tick: its tile, or its edge die
(log 97), is lost from the next stop tick, the step ends in RERUN. -/
def tickFault (u : Nat) (d : Dev) : Dev :=
  if 80 ≤ u then d
  else
    let d := { d with losePend := if d.losePend.contains u then d.losePend else d.losePend ++ [u] }
    if u < 64 then
      report (setB d (SLOT_STATUS u) SLOT_STATUS_TICK_FAULT true) { cls := 0x20, kind := 2, unit := u, scope := .step }
    else report d { cls := 0x20, kind := 5, unit := u - 64, scope := .step }

end Sys2Proof.Machine
end

