-- ==== Sys2Proof/Machine/ExecClock.lean ====
section
/-!
DEFINITION. Machine/ExecClock.lean: the sentence clock's events (R46-R66). One meaning for each command, over the operations of its chapter.
-/
namespace Sys2Proof.Machine

/-- TICK_ARRIVAL (R46): The stop tick wave reaches a CN node, which begins counting TICK_ALIGN router cycles toward its sentence origin. -/
def execTickArrival (u : Nat) (s : State) : Answer := act s (tickArrival u)

/-- DRAIN_SPAN_END (R66): 256 router cycles after the window closes, valid flits still in a router are dropped and logged. -/
def execDrainSpanEnd (s : State) : Answer := act s (drainSpanEnd)

/-- TICK_FAULT (R48): A CN node that sees no tick within twice the sentence length raises a tick fault and its tile becomes lost. -/
def execTickFault (t : Nat) (s : State) : Answer := act s (tickFault t)

end Sys2Proof.Machine
end

