-- ==== Sys2Proof/Machine/Cq.lean ====
section
/-!
DEFINITION. Machine/Cq.lean: the completion ring in host memory and the MSI-X messages that signal it (R483-R486).
-/
namespace Sys2Proof.Machine

/-- Records of the ring: 2^SIZE_LOG2 (R490). -/
def cqSize (d : Dev) : Nat := 2 ^ getF d HIF_CQ_CTL HIF_CQ_CTL_SIZE_LOG2

/-- The host's accesses reach the function, and its requests the host: neither in D3hot, nor while an instruction of the JTAG port holds
the pins and the PCIe link is down (R476, R489; log 51). -/
def linkOpen (d : Dev) : Bool := !getB d HIF_STATUS HIF_STATUS_D3HOT && !getB d SB_JTAG SB_JTAG_PINS

/-- The device may issue bus-master requests: nor between the return to D0 and the next stop tick (R476). -/
def busMaster (d : Dev) : Bool := linkOpen d && !d.boot.d0wait

/-- The ring is enabled and has room for a record (R484). -/
def cqRoom (d : Dev) : Bool :=
  getB d HIF_CQ_CTL HIF_CQ_CTL_EN && busMaster d &&
    (getF d HIF_CQ_TAIL HIF_CQ_TAIL_TAIL + 1) % cqSize d != getF d HIF_CQ_HEAD HIF_CQ_HEAD_HEAD

/-- The 32 bytes of a completion record with a phase (R483). -/
def cqBytes (r : CqRec) (phase : Nat) : Nat :=
  fv 0 1 phase + fv 8 8 r.kind + fv 16 16 r.status + fv 32 32 r.tag + fv 64 64 r.step + fv 128 64 r.value + fv 192 32 r.detail +
    fv 224 16 r.modNo

/-- A record that waited outside the full queue enters it (R485). -/
def cqAdmit (d : Dev) : Dev :=
  match d.cqHeld with
  | r :: rest => if d.cqQueue.length < 256 then { d with cqQueue := d.cqQueue ++ [r], cqHeld := rest } else d
  | [] => d

/-- The oldest record of the queue is written at HIF_CQ_TAIL (R483, R484). -/
def cqWrite (d : Dev) : Dev :=
  match d.cqQueue with
  | [] => d
  | r :: rest =>
    let t := getF d HIF_CQ_TAIL HIF_CQ_TAIL_TAIL
    let n := (t + 1) % cqSize d
    let due := if d.msixDue.contains r.vec then d.msixDue else d.msixDue ++ [r.vec]
    let d1 := cqAdmit { d with
      cqQueue := rest
      msixDue := due
      cqPhase := if n = 0 then 1 - d.cqPhase else d.cqPhase
      out := d.out ++ [.hostWrite (get64 d HIF_CQ_BASE_LO HIF_CQ_BASE_HI + 32 * t) 32 (cqBytes r d.cqPhase)] }
    setF (setF d1 HIF_CQ_TAIL HIF_CQ_TAIL_TAIL n) HIF_CQ_PEND HIF_CQ_PEND_COUNT d1.cqQueue.length

/-- A vector's message; a masked vector becomes pending in the PBA (R486). -/
def msixSend (d : Dev) (v : Nat) : Dev :=
  if bit (getR d (MSIX_TABLE v 3)) 0 then setBitAt d (MSIX_PBA 0) v true
  else { d with out := d.out ++ [.msix (get64 d (MSIX_TABLE v 0) (MSIX_TABLE v 1)) (getR d (MSIX_TABLE v 2))] }

/-- The messages of every vector whose records have been written (R486). -/
def msixFlush (d : Dev) : Dev := d.msixDue.foldl msixSend { d with msixDue := [] }

/-- CQ_RECORD_WRITE (R484-R486): a record is written if the ring has room; the messages due are sent where their 2 µs allow. -/
def cqRecordWrite (msgs : Bool) (d : Dev) : Dev :=
  let d1 := if cqRoom d then cqWrite d else d
  if msgs && busMaster d then msixFlush d1 else d1

/-- CQ_HEAD_WRITE (R484): software returns space. -/
def cqHeadWrite (v : Nat) (d : Dev) : Dev := setF d HIF_CQ_HEAD HIF_CQ_HEAD_HEAD v

/-- A write of HIF_CQ_CTL: SIZE_LOG2 holds while EN is 1 and takes 6 to 16 only; setting EN resets both indices and the phase (R484,
R490). -/
def cqCtlWrite (v : Nat) (d : Dev) : Dev :=
  let en := getB d HIF_CQ_CTL HIF_CQ_CTL_EN
  let n := bits v 1 4
  let d1 := if en ∨ n < 6 then d else setF d HIF_CQ_CTL HIF_CQ_CTL_SIZE_LOG2 n
  let d2 := setB d1 HIF_CQ_CTL HIF_CQ_CTL_EN (bit v 0)
  if bit v 0 && !en then
    setF (setF { d2 with cqPhase := 1 } HIF_CQ_HEAD HIF_CQ_HEAD_HEAD 0) HIF_CQ_TAIL HIF_CQ_TAIL_TAIL 0
  else d2

/-- CQ_ENABLE (R484). -/
def cqEnable (d : Dev) : Dev := cqCtlWrite (insBits (getR d HIF_CQ_CTL) 0 1 1) d

end Sys2Proof.Machine
end

