-- ==== Sys2Proof/Machine/Fec.lean ====
section
/-!
DEFINITION. Machine/Fec.lean: the codewords of a Gorith lane group (R329, R330): RS(544,514) over 10-bit symbols and the spreading of
symbols over the eight lanes. The field, its generator and the symbol order are IEEE 802.3's (PRESUMED, log 108).
-/
namespace Sys2Proof.Machine

/- GF(2^10) with x^10 + x^3 + 1 -/

/-- Product of two field elements. -/
def gfMul (a b : Nat) : Nat :=
  (List.range 10).foldl (fun acc i =>
    let s := if 512 ≤ acc then (2 * acc) ^^^ 0x409 else 2 * acc
    if bit b (9 - i) then s ^^^ a else s) 0

/-- The n-th power of the primitive element. -/
def gfPow (n : Nat) : Nat := (List.range (n % 1023)).foldl (fun x _ => gfMul x 2) 1

/-- Inverse of a nonzero element: its 1,022nd power. -/
def gfInv (a : Nat) : Nat := ((List.range 9).foldl (fun (s : Nat × Nat) _ => let q := gfMul s.1 s.1; (q, gfMul s.2 q)) (a, 1)).2

/- Polynomials as lists of coefficients, lowest first -/

def polyAt (cs : List Nat) (x : Nat) : Nat := cs.foldr (fun c acc => gfMul acc x ^^^ c) 0

/-- Sum of two polynomials. -/
def polyAdd : List Nat → List Nat → List Nat
  | [], bs => bs
  | as, [] => as
  | a :: as, b :: bs => (a ^^^ b) :: polyAdd as bs

def polyScale (k : Nat) (cs : List Nat) : List Nat := cs.map (gfMul k)

/-- The generator: the product of x + a^j for j = 0 to 29. -/
def rsGen : List Nat := (List.range 30).foldl (fun g j => polyAdd (0 :: g) (polyScale (gfPow j) g)) [1]

/-- The generator below its leading term, times each power of 2, packed 10 bits a coefficient. -/
def rsTable : List Nat :=
  (List.range 10).map (fun b => (((rsGen.take 30).map (gfMul (2 ^ b))).foldr (fun c acc => acc <<< 10 + c) 0))

/-- A symbol times the generator below its leading term. -/
def rsFeed (t : List Nat) (s : Nat) : Nat :=
  if s = 0 then 0 else ((t.zip (List.range 10)).filter (fun x => bit s x.2)).foldl (fun acc x => acc ^^^ x.1) 0

/-- The 30 parity symbols of a message of 514 symbols, coefficient i of the remainder at bits 10 i. -/
def rsRemainder (msg : Nat) : Nat :=
  (List.range 514).foldl (fun r i => ((r <<< 10) % 2 ^ 300) ^^^ rsFeed rsTable (bits r 290 10 ^^^ bits msg (10 * i) 10)) 0

/-- The symbols of a packed list of n in the opposite order. -/
def turnSymbols (n v : Nat) : Nat := (List.range n).foldl (fun acc i => acc <<< 10 + bits v (10 * i) 10) 0

/-- The codeword of a message: its 514 symbols, then the parity, highest power first. -/
def rsEncode (msg : BitVec 5140) : BitVec 5440 := BitVec.ofNat 5440 (msg.toNat + turnSymbols 30 (rsRemainder msg.toNat) <<< 5140)

/-- Symbol i of the codeword travels on lane i mod 8 (R330): the eight lanes, 68 symbols each. -/
def toLanes (cw : BitVec 5440) : List (BitVec 680) :=
  (List.range 8).map (fun l => BitVec.ofNat 680 ((List.range 68).foldl (fun acc j => acc + bits cw.toNat (10 * (8 * j + l)) 10 <<< (10 * j)) 0))

/-- The codeword that eight lanes carry. -/
def fromLanes (ls : List (BitVec 680)) : Nat :=
  (List.range 544).foldl (fun acc i => acc + bits (ls.getD (i % 8) 0).toNat (10 * (i / 8)) 10 <<< (10 * i)) 0

/-- The error locator's search (Berlekamp and Massey): the locator, the one before its length last grew with that discrepancy, the
length, and the steps since. -/
structure Locator where
  c : List Nat := [1]
  b : List Nat := [1]
  bd : Nat := 1
  len : Nat := 0
  m : Nat := 1
  deriving DecidableEq, Repr

/-- One step of the search, on syndrome n. -/
def locStep (ss : List Nat) (s : Locator) (n : Nat) : Locator :=
  let δ := (List.range (s.len + 1)).foldl (fun acc i => if n < i then acc else acc ^^^ gfMul (s.c.getD i 0) (ss.getD (n - i) 0)) 0
  let next := polyAdd s.c (List.replicate s.m 0 ++ polyScale (gfMul δ (gfInv s.bd)) s.b)
  if δ = 0 then { s with m := s.m + 1 }
  else if 2 * s.len ≤ n then { c := next, b := s.c, bd := δ, len := n + 1 - s.len, m := 1 }
  else { s with c := next, m := s.m + 1 }

/-- The syndromes of a received remainder. -/
def syndromes (rem : Nat) : List Nat :=
  let cs := (List.range 30).map (fun i => bits rem (10 * i) 10)
  (List.range 30).map (fun j => polyAt cs (gfPow j))

/-- The error at power e of the codeword, none where the locator has no root there (Chien, Forney). -/
def errorAt (loc om der : List Nat) (e : Nat) : Option Nat :=
  let x := gfPow e
  let y := gfPow (1023 - e)
  if polyAt loc y = 0 then some (gfMul x (gfMul (polyAt om y) (gfInv (polyAt der y)))) else none

/-- The errors of a received word with these syndromes by power of the codeword; none where they are more than 15 symbols (R329). -/
def rsErrors (ss : List Nat) : Option (List (Nat × Nat)) :=
  let s := (List.range 30).foldl (locStep ss) {}
  let loc := s.c.take (s.len + 1)
  let om := (List.range 30).map (fun n => (List.range (n + 1)).foldl (fun acc i => acc ^^^ gfMul (loc.getD i 0) (ss.getD (n - i) 0)) 0)
  let der := (List.range 15).flatMap (fun i => [loc.getD (2 * i + 1) 0, 0])
  let es := (List.range 544).filterMap (fun e => (errorAt loc om der e).map (fun v => (e, v)))
  if s.len ≤ 15 ∧ es.length = s.len ∧ loc.getD s.len 0 ≠ 0 then some es else none

/-- A received codeword decoded: its message, and whether symbols were corrected; none where it is uncorrectable (R329, R332). -/
def rsDecode (ls : List (BitVec 680)) : Option (BitVec 5140 × Bool) :=
  let cw := fromLanes ls
  let msg := cw % 2 ^ 5140
  let rem := rsRemainder msg ^^^ turnSymbols 30 (cw >>> 5140)
  if rem = 0 then some (BitVec.ofNat 5140 msg, false)
  else (rsErrors (syndromes rem)).map (fun es =>
    (BitVec.ofNat 5140 (es.foldl (fun m x => if x.1 < 30 then m else m ^^^ x.2 <<< (10 * (543 - x.1))) msg), true))

end Sys2Proof.Machine
end

