-- ==== Sys2Proof/Machine/Link.lean ====
section
/-!
DEFINITION. Machine/Link.lean: Gorith packets and ports: frames, retry, credits, training, sealing and port fault
injection (R329-R341, R362, R363, R412-R414).
-/
namespace Sys2Proof.Machine

/- Packet headers (R337) -/

def hPtype (h : Nat) : Nat := bits h 0 4
def hTc (h : Nat) : Nat := bits h 4 2
def hSealed (h : Nat) : Bool := bit h 7
def hRows (h : Nat) : Nat := bits h 8 6
def hSrc (h : Nat) : Nat := bits h 16 16
def hDst (h : Nat) : Nat := bits h 32 16
def hTag (h : Nat) : Nat := bits h 48 16
def hOfs (h : Nat) : Nat := bits h 64 48
def hWin (h : Nat) : Nat := bits h 128 13
def hWgen (h : Nat) : Nat := bits h 144 16
def hTso (h : Nat) : Nat := bits h 160 14
def hTsoEn (h : Nat) : Bool := bit h 174
def hEpoch (h : Nat) : Nat := bits h 176 32
def hCode (h : Nat) : Nat := bits h 208 8
def hSkey (h : Nat) : Nat := bits h 216 8

/-- HCRC of a header's first 28 bytes (R338). -/
def hcrcOf (h : Nat) : Nat := crc32 (bytesOf 28 h)

/-- A header with its HCRC. -/
def withHcrc (h : Nat) : BitVec 256 := BitVec.ofNat 256 (bits h 0 224 + hcrcOf h <<< 224)

def hcrcOk (h : Nat) : Bool := bits h 224 32 == hcrcOf h

/-- The data bytes of rows. -/
def rowBytes (rs : List Row) : List Nat := rs.flatMap (fun r => bytesOf 128 r.toNat)

/-- Rows of a byte string. -/
def bytesRows (n : Nat) (bs : List Nat) : List Row :=
  (List.range n).map (fun i => BitVec.ofNat 1024 (natOfBytes ((bs.drop (128 * i)).take 128)))

/-- PTYPE values that are packets (R331, R337). -/
def isPacket (t : Nat) : Bool := (decide (1 ≤ t) && decide (t ≤ 12)) || t == 15

/-- 32 B units a packet with n data rows occupies (R337). -/
def pkUnits (n : Nat) : Nat := if n = 0 then 1 else 2 + 4 * n

/- Ports -/

def gport (d : Dev) (p : Nat) : GPort := d.fab.ports.get p {}

def modPort (d : Dev) (p : Nat) (f : GPort → GPort) : Dev :=
  { d with fab := { d.fab with ports := d.fab.ports.put p (f (gport d p)) {} } }

/-- Edge die and half of port p: GP(k) is port A of Ek, GP(k + 16) its port B (R24). -/
def portDie (p : Nat) : Nat := p % 16
def portHalf (p : Nat) : Nat := p / 16 % 2

def edge (d : Dev) (k : Nat) : Edge := d.fab.edges.get k {}

def modEdge (d : Dev) (k : Nat) (f : Edge → Edge) : Dev :=
  { d with fab := { d.fab with edges := d.fab.edges.put k (f (edge d k)) {} } }

def gpStatus (p : Nat) : Nat := GP_STATUS (portDie p) (portHalf p)
def gpState (d : Dev) (p : Nat) : Nat := getF d (gpStatus p) GP_STATUS_STATE
def portUp (d : Dev) (p : Nat) : Bool := decide (p < 32) && gpState d p == 2 && !(edge d (portDie p)).lost
def setGpState (d : Dev) (p s : Nat) : Dev := setF d (gpStatus p) GP_STATUS_STATE s

/-- A fault bit of a port (R364); fault bits are the foreground's (R136). -/
def gpFault (d : Dev) (p : Nat) (f : Fld) : Dev := setB d (GP_FAULT (portDie p) (portHalf p)) f true

/-- A record of a port (R453). -/
def portEv (p cls tc oper addr : Nat) (sc : Scope) : Ev :=
  { cls := cls, kind := 4, unit := p, sub := tc, oper := oper, addr := addr, scope := sc }

/-- A counter field that holds at its largest value. -/
def satF (d : Dev) (a : Nat) (f : Fld) : Dev := setF d a f (satInc f.w (getF d a f))

/-- The record OPER of a packet header (R453). -/
def hOper (h : Nat) : Nat := fv 0 4 (hPtype h) + fv 8 8 (hCode h) + fv 16 16 (hTag h)

/-- A port that holds nothing: its generator, its counters and its senders' windows stay. -/
def emptied (g : GPort) : GPort := { inj := g.inj, sealCtr := g.sealCtr, wins := g.wins }

/- Sending -/

/-- What a frame puts on the eight lanes of a port (R329, R330). -/
def frameOut (p : Nat) (f : Frame) : Out := .frame p (toLanes (rsEncode f.msg)) f.pois

/-- An idle frame of up to 20 units, the rest pad (R330, R331): neither sequenced nor replayed. -/
def idleFrame (us : List (BitVec 256)) : Frame :=
  { msg := BitVec.ofNat 5140 (1 + (if us = [] then fv 14 5 31 else 0) +
      (us.zip (List.range 20)).foldl (fun acc u => acc + u.1.toNat <<< (20 + 256 * u.2)) 0) }

/-- A link packet sent in an idle frame (R331, R339). -/
def linkSend (d : Dev) (p v : Nat) : Dev := { d with out := d.out ++ [frameOut p (idleFrame [withHcrc (bits v 0 224)])] }

/-- The module's LEVEL link packet, sent as a training attempt begins (R339, R340). -/
def levelSend (d : Dev) (p : Nat) : Dev := linkSend d p (0xF + 3 <<< 4 + fv 96 8 (getF d FAB_LEVEL FAB_LEVEL_LINK_LEVEL))

/-- A port goes down (R333): what it holds is discarded, a foreground step ends in RERUN, retraining starts. -/
def portDown (d : Dev) (p : Nat) : Dev :=
  let k := portDie p; let h := portHalf p
  let exp := (gport d p).rxExp
  let d1 := modPort (gpFault (setGpState d p 3) p GP_FAULT_LINK_DOWN) p emptied
  levelSend (report (incF d1 (GP_DOWN k h) GP_DOWN_COUNT) (portEv p 0x30 0 0 exp .step)) p

/-- Units of class c that the module grants a sender (R334). -/
def classGrant (c : Nat) : Nat := if c = 0 then 512 else if c = 1 then 8192 else 4096

/-- The CREDIT link packet of a port (R334, R339). -/
def creditSend (d : Dev) (p : Nat) : Dev :=
  let lim := fun c => fv (32 + 16 * c) 16 (classGrant c + (gport d p).freed.get c 0)
  linkSend d p (0xF + 2 <<< 4 + lim 0 + lim 1 + lim 2 + lim 3)

/-- A packet as its 32 B units with the poison of the rows they belong to (R330, R337; log 24). -/
def packetUnits (p : Packet) : List (BitVec 256 × Bool) :=
  (p.hdr, false) ::
    ((p.rows.zip (List.range p.rows.length)).flatMap (fun r =>
      (List.range 4).map (fun j => (BitVec.ofNat 256 (bits r.1.toNat (256 * j) 256), p.pois.getD r.2 false))) ++
      (if p.rows = [] then [] else [(p.trl, false)]))

/-- A data frame of up to 20 units, the rest pad (R330, R331); its FSEQ is put in as it is sent. -/
def mkFrame (first : Nat) (us : List (BitVec 256 × Bool)) : Frame :=
  { msg := BitVec.ofNat 5140 (fv 14 5 first + (us.zip (List.range 20)).foldl (fun acc u => acc + u.1.1.toNat <<< (20 + 256 * u.2)) 0),
    pois := BitVec.ofNat 20 ((us.zip (List.range 20)).foldl (fun acc u => acc + b2n u.1.2 <<< u.2) 0) }

/-- The units of a packet cut into bodies of 20. -/
def cutUnits : Nat → List (BitVec 256 × Bool) → List (List (BitVec 256 × Bool))
  | 0, _ => []
  | n + 1, us => if us = [] then [] else us.take 20 :: cutUnits n (us.drop 20)

/-- Frames kept unacknowledged at most (R332). -/
def keptMax : Nat := 2048

/-- A port sends the frames that wait, while fewer than 2,048 are unacknowledged; each is kept for replay (R332). -/
def sendFrames (d : Dev) (p : Nat) : Dev :=
  let g := gport d p
  let n := min g.txWait.length (keptMax - g.kept.length)
  let fs := ((g.txWait.take n).zip (List.range n)).map (fun f =>
    { f.1 with msg := f.1.msg ||| BitVec.ofNat 5140 (fv 2 12 (g.txSeq + f.2)) })
  let d1 := modPort d p (fun g => { g with txSeq := (g.txSeq + n) % 4096, kept := g.kept ++ fs, txWait := g.txWait.drop n })
  { d1 with out := d1.out ++ fs.map (frameOut p) }

/-- A packet goes out on a port as data frames of its own (R332; log 25). -/
def emitPacket (d : Dev) (p : Nat) (pk : Packet) : Dev :=
  let bodies := cutUnits 8 (packetUnits pk)
  let fs := (bodies.zip (List.range bodies.length)).map (fun b => mkFrame (if b.2 = 0 then 0 else 31) b.1)
  sendFrames (modPort d p (fun g => { g with txWait := g.txWait ++ fs })) p

/-- The session key of link slot s, if it holds one (R411). -/
def linkKey (d : Dev) (s : Nat) : Option (List Nat) :=
  if s = 0 then none else (d.fab.linkKeys.find s).map (fun k => bytesOf 32 k.toNat)

/-- The nonce of the next sealed packet of a port (R413). -/
def sealNonce (d : Dev) (p s : Nat) : List Nat :=
  bytesOf 2 (getF d MOD_ID MOD_ID_MODULE_NUMBER) ++ [p] ++ bytesOf 9 ((gport d p).sealCtr.get s 1)

/-- The contribution of a CONTRIB or DIGEST packet on its port: TAG and WIN (R337). -/
def contribId (h : Nat) : Nat := 8192 * hTag h + hWin h

/-- A sealed CONTRIB packet sent: the one of highest OFS of its contribution is noted (R413). -/
def noteRow (rs : List LastRow) (h : Nat) (n : List Nat) : List LastRow :=
  if hPtype h ≠ 7 ∨ rs.any (fun x => x.id == contribId h && decide (hOfs h < x.ofs)) then rs
  else { id := contribId h, ofs := hOfs h, nonce := BitVec.ofNat 96 (natOfBytes n) } :: rs.filter (fun x => x.id != contribId h)

/-- The slot of the link key a packet is sealed or masked under, 0 for none (R412, R413). -/
def sealSlot (h : Nat) : Nat := if hSealed h || hPtype h == 8 then hSkey h else 0

/-- The link key a packet needs is there, or it needs none: a sealed packet never leaves in plaintext (R410, R412; log 107). -/
def keyReady (d : Dev) (h : Nat) : Bool := (!hSealed h && sealSlot h == 0) || (linkKey d (sealSlot h)).isSome

/-- A digest as it travels: that of a sealed contribution masked (R413). -/
def maskDigest (d : Dev) (p h : Nat) : Nat :=
  match linkKey d (sealSlot h), (gport d p).lastRows.find? (fun x => x.id == contribId h) with
  | some key, some x =>
    let mask := natOfBytes ((aesEnc (roundKeys key) (bytesOf 12 x.nonce.toNat ++ [255, 255, 255, 255])).take 8)
    insBits (insBits h 64 64 (bits h 64 64 ^^^ mask)) 216 8 0
  | _, _ => insBits h 216 8 0

/-- A queued packet made ready to leave port p: sealed under its key slot, or with its DCRC, and with its HCRC (R337, R338,
R412, R413); none where its key is missing. -/
def finishPacket (d : Dev) (p : Nat) (pk : Packet) : Option (Packet × Dev) :=
  let h := pk.hdr.toNat
  if !keyReady d h then none
  else if pk.rows = [] then
    if hPtype h = 8 then
      some ({ pk with hdr := withHcrc (maskDigest d p h) },
        modPort d p (fun g => { g with lastRows := g.lastRows.filter (fun x => x.id != contribId h) }))
    else some ({ pk with hdr := withHcrc h }, d)
  else if hSealed h then
    (linkKey d (hSkey h)).map (fun key =>
      let n := sealNonce d p (hSkey h)
      let sl := gcmSeal key n (bytesOf 28 h) (rowBytes pk.rows)
      ({ pk with hdr := withHcrc h, rows := bytesRows pk.rows.length sl.1, trl := BitVec.ofNat 256 (natOfBytes (sl.2 ++ n)) },
        modPort d p (fun g => { g with
          sealCtr := g.sealCtr.put (hSkey h) (g.sealCtr.get (hSkey h) 1 + 1) 1
          lastRows := noteRow g.lastRows h n })))
  else some ({ pk with hdr := withHcrc h, trl := BitVec.ofNat 256 (crc32 (rowBytes pk.rows)) }, d)

/-- The module is fenced (R360). -/
def fenced (d : Dev) : Bool := getF d FAB_STATE FAB_STATE_STATE == 3

/-- Packets a fenced module does not send: WRITE, READ, SYNC, CONTRIB (R360). -/
def fencedType (t : Nat) : Bool := t == 1 || t == 2 || t == 6 || t == 7

/-- A queued packet that may leave: a digest follows its contribution's rows, a fenced module holds some back, and a sealed packet
waits for its key. -/
def maySend (d : Dev) (q : List Packet) (pk : Packet) : Bool :=
  let h := pk.hdr.toNat
  !(fenced d && fencedType (hPtype h)) && keyReady d h &&
    !(hPtype h == 8 && q.any (fun x => hPtype x.hdr.toNat == 7 && hTag x.hdr.toNat == hTag h && hWin x.hdr.toNat == hWin h))

/-- Class credit left towards the far side (R334). -/
def creditLeft (d : Dev) (p c : Nat) : Nat :=
  let a := GP_CREDIT (portDie p) (portHalf p) c
  (getF d a GP_CREDIT_LIMIT + 65536 - getF d a GP_CREDIT_USED) % 65536

/-- A port may start a packet: those before it are out, and fewer than 2,048 frames are unacknowledged (R332, R335). -/
def startFree (d : Dev) (p : Nat) : Bool := (gport d p).txWait.isEmpty && decide ((gport d p).kept.length < keptMax)

/-- The first packet of class c a port could send now. -/
def nextToSend (d : Dev) (p c : Nat) : Option Packet :=
  let g := gport d p
  match g.txq.find? (fun x => hTc x.hdr.toNat == c && maySend d g.txq x) with
  | some x => if pkUnits x.rows.length ≤ creditLeft d p c ∧ startFree d p = true then some x else none
  | none => none

/-- The weight of class c = 1, 2 or 3 of port p; 0 is taken as 1 (R335, R364). -/
def classWt (d : Dev) (p c : Nat) : Nat := max 1 (bits (getR d (GP_CLASS_WT (portDie p) (portHalf p))) (4 * (c - 1)) 4)

/-- The service a class has had: units over weight, in 360,360ths (log 106). -/
def servedOf (d : Dev) (p c : Nat) : Nat := (gport d p).served.get c 0

/-- Class c is the one to send next on port p (R335): class 0 before all others, classes 1 to 3 by least service for their weight
(log 106). -/
def classDue (d : Dev) (p c : Nat) : Bool :=
  c == 0 || ((nextToSend d p 0).isNone &&
    [1, 2, 3].all (fun e => e == c || (nextToSend d p e).isNone || decide (servedOf d p c ≤ servedOf d p e)))

/-- u units of class c sent on port p count as its service; a class with nothing to send does not save service up (log 106). -/
def serve (d : Dev) (p c u : Nat) : Dev :=
  if c = 0 then d
  else
    let v := servedOf d p c
    let d1 := modPort d p (fun g => { g with served := [1, 2, 3].foldl (fun t e =>
      if e ≠ c ∧ (nextToSend d p e).isNone then t.put e (max v (t.get e 0)) 0 else t) g.served })
    modPort d1 p (fun g => { g with served := g.served.put c (v + 360360 * u / classWt d p c) 0 })

/-- A packet leaves a port, using its class's credit (R334); one whose key is missing does not. -/
def sendNow (d : Dev) (p : Nat) (pk : Packet) : Dev :=
  match finishPacket d p pk with
  | none => d
  | some (pk1, d1) =>
    let c := hTc pk.hdr.toNat
    let u := pkUnits pk.rows.length
    let a := GP_CREDIT (portDie p) (portHalf p) c
    emitPacket (serve (setF d1 a GP_CREDIT_USED (getF d1 a GP_CREDIT_USED + u)) p c u) p pk1

/-- PACKET_SEND (R332, R334, R335): the oldest packet of class c that may leave port p starts, if the class's credit allows it and
the class is the one due; with 2,048 frames unacknowledged an idle frame goes out. -/
def packetSend (p c : Nat) (d : Dev) : Dev :=
  if !portUp d p then d
  else if keptMax ≤ (gport d p).kept.length then { d with out := d.out ++ [frameOut p (idleFrame [])] }
  else match nextToSend d p c with
    | some pk => if classDue d p c then sendNow (modPort d p (fun g => { g with txq := g.txq.erase pk })) p pk else d
    | none => d

/-- A packet queued on port p. -/
def queueOn (d : Dev) (p : Nat) (pk : Packet) : Dev := modPort d p (fun g => { g with txq := g.txq ++ [pk] })

/-- The position of a module on ring a, if it is on it (R297). -/
def ringPos (d : Dev) (a m : Nat) : Option Nat :=
  let n := match a with
    | 0 => getF d JOB_SIZE_0 JOB_SIZE_0_NX_M1
    | 1 => getF d JOB_SIZE_0 JOB_SIZE_0_NY_M1
    | _ => getF d JOB_SIZE_1 JOB_SIZE_1_NZ_M1
  (List.range (n + 1)).find? (fun i => bits (getR d (JOB_RING a (i / 2))) (16 * (i % 2)) 16 == m)

/-- The port group towards module m: its ring's, else the service group (R341). -/
def groupOf4 (d : Dev) (m : Nat) : Nat :=
  if getF d FAB_STATE FAB_STATE_STATE = 0 then 3
  else if (ringPos d 0 m).isSome then 0 else if (ringPos d 1 m).isSome then 1 else if (ringPos d 2 m).isSome then 2 else 3

/-- The first port of a group that is up, from index DST mod 8 with wrap-around (R341). -/
def groupPort (d : Dev) (g m : Nat) : Option Nat :=
  ((List.range 8).map (fun i => 8 * g + (m + i) % 8)).find? (portUp d)

/-- A packet for port p refused locally: no port of its group is up (R341). -/
def noRoute (d : Dev) (p : Nat) : Dev := raiseRerun (gpFault d p GP_FAULT_NOROUTE) .step

/-- Some port of group g is up (R341). -/
def groupUp (d : Dev) (g : Nat) : Bool := (List.range 8).any (fun i => portUp d (8 * g + i))

/-- A packet that leaves by port p, as a descriptor, R298 or R313 names it (R341); false where no port of its group is up. -/
def sendOn (d : Dev) (p : Nat) (pk : Packet) : Bool × Dev :=
  if groupUp d (p / 8) then (true, queueOn d p pk) else (false, noRoute d p)

/-- Packets that leave by port p; whether all were taken. -/
def sendAllOn (p : Nat) : List Packet → Dev → Bool × Dev
  | [], d => (true, d)
  | pk :: pks, d =>
    let r := sendOn d p pk
    let rs := sendAllOn p pks r.2
    (r.1 && rs.1, rs.2)

/-- A packet the module sends without a descriptor (R341); false where no port is up. -/
def sendByGroup (d : Dev) (pk : Packet) : Bool × Dev :=
  let m := hDst pk.hdr.toNat
  match groupPort d (groupOf4 d m) m with
  | some p => (true, queueOn d p pk)
  | none => (false, noRoute d (8 * groupOf4 d m + m % 8))

/- Receiving -/

/-- The generator of port p steps for a candidate: whether it injects (R362). -/
def portInject (d : Dev) (p : Nat) : Bool × Dev :=
  let x := injStep (gport d p).inj.toNat
  let d1 := modPort d p (fun g => { g with inj := BitVec.ofNat 32 x })
  if x % 2 ^ 24 < getF d (GP_INJ_RATE (portDie p) (portHalf p)) GP_INJ_RATE_RATE then
    (true, incF d1 (GP_INJ_CNT (portDie p) (portHalf p)) GP_INJ_CNT_COUNT)
  else (false, d1)

/-- The next step of the generator, modulo n (R362). -/
def portDraw (d : Dev) (p n : Nat) : Nat × Dev :=
  let x := injStep (gport d p).inj.toNat
  (x % n, modPort d p (fun g => { g with inj := BitVec.ofNat 32 x }))

/-- A data bit of a list of rows flipped. -/
def flipBit (rs : List Row) (i : Nat) : List Row :=
  (rs.zip (List.range rs.length)).map (fun r => if r.2 = i / 1024 then r.1 ^^^ BitVec.ofNat 1024 (1 <<< (i % 1024)) else r.1)

def pushInbox (d : Dev) (p : Nat) (x : RxPkt) : Dev := modPort d p (fun g => { g with inbox := g.inbox ++ [x] })

/-- A packet that mode 5 holds is held no longer once the port does not inject in that mode (R362, R363). -/
def freeHeld (d : Dev) (p : Nat) : Dev :=
  match (gport d p).held with
  | none => d
  | some h =>
    if getF d (GP_INJ_CTL (portDie p) (portHalf p)) GP_INJ_CTL_MODE = 5 ∧ injAllowed d then d
    else pushInbox (modPort d p (fun g => { g with held := none })) p h

/-- A packet of a selected class takes a held one past it (R362 mode 5). -/
def passHeld (d : Dev) (p : Nat) (x : RxPkt) (cand : Bool) : Dev :=
  let d1 := pushInbox d p x
  match cand, (gport d1 p).held with
  | true, some h => pushInbox (modPort d1 p (fun g => { g with held := none })) p h
  | _, _ => d1

/-- The units of a packet that port p holds no longer, granted to the far side again (R334). -/
def giveBack (d : Dev) (p h : Nat) : Dev :=
  creditSend (modPort d p (fun g => { g with
    freed := g.freed.put (hTc h) ((g.freed.get (hTc h) 0 + pkUnits (hRows h)) % 65536) 0 })) p

/-- A header whose HCRC fails (R339): the port's fault, a record, RERUN. -/
def hcrcFault (d : Dev) (p h : Nat) : Dev :=
  report (gpFault d p GP_FAULT_HCRC) (portEv p 0x31 (hTc h) (hOper h) ((gport d p).rxExp) .step)

/-- A whole packet received on port p: its header check, then injection (R339, R362). -/
def acceptPacket (d0 : Dev) (p : Nat) (pk : Packet) : Dev :=
  let d := freeHeld d0 p
  let h := pk.hdr.toNat
  let k := portDie p; let hf := portHalf p
  if !hcrcOk h then hcrcFault (giveBack d p h) p h
  else
    let mode := getF d (GP_INJ_CTL k hf) GP_INJ_CTL_MODE
    let cand := injAllowed d && bit (getF d (GP_INJ_CTL k hf) GP_INJ_CTL_CLASSES) (hTc h) && decide (2 ≤ mode ∧ mode ≤ 5)
    if !cand then passHeld d p { p := pk } false
    else
      let r := portInject d p
      if !r.1 then passHeld r.2 p { p := pk } true
      else match mode with
        | 2 => giveBack r.2 p h
        | 3 =>
          if pk.rows = [] then passHeld r.2 p { p := pk } true
          else
            let b := portDraw r.2 p (1024 * pk.rows.length)
            passHeld b.2 p { p := { pk with rows := flipBit pk.rows b.1 } } true
        | 4 =>
          if pk.rows = [] then passHeld r.2 p { p := pk } true
          else
            let b := portDraw r.2 p (1024 * pk.rows.length)
            passHeld b.2 p { p := pk, flip := some b.1 } true
        | _ =>
          match (gport r.2 p).held with
          | some _ => passHeld r.2 p { p := pk } true
          | none => modPort r.2 p (fun g => { g with held := some { p := pk } })

/-- A packet from its units. -/
def unitsPacket (us : List (BitVec 256)) (po : List Bool) : Packet :=
  let h := us.headD 0
  let n := hRows h.toNat
  { hdr := h,
    rows := (List.range n).map (fun i => BitVec.ofNat 1024 ((List.range 4).foldl (fun acc j =>
      acc + (us.getD (1 + 4 * i + j) 0).toNat <<< (256 * j)) 0)),
    trl := if n = 0 then 0 else us.getD (1 + 4 * n) 0,
    pois := (List.range n).map (fun i => po.getD (1 + 4 * i) false) }

/-- A link packet received; one whose HCRC fails is discarded (R339). -/
def linkUnit (d : Dev) (p : Nat) (u : BitVec 256) : Dev :=
  if hcrcOk u.toNat then modPort d p (fun g => { g with links := g.links ++ [u] }) else hcrcFault d p u.toNat

/-- One 32 B unit of an accepted data frame (R331). -/
def takeUnit (p : Nat) (d : Dev) (u : BitVec 256 × Bool) : Dev :=
  let g := gport d p
  let h := u.1.toNat
  if g.rxUnits = [] then
    if !isPacket (hPtype h) then d
    else if hPtype h = 15 then linkUnit d p u.1
    else if hRows h = 0 then acceptPacket d p (unitsPacket [u.1] [])
    else modPort d p (fun g => { g with rxUnits := [u.1], rxPois := [u.2] })
  else
    let us := g.rxUnits ++ [u.1]
    let po := g.rxPois ++ [u.2]
    if us.length < pkUnits (hRows (us.headD 0).toNat) then modPort d p (fun g => { g with rxUnits := us, rxPois := po })
    else acceptPacket (modPort d p (fun g => { g with rxUnits := [], rxPois := [] })) p (unitsPacket us po)

/-- The units of a frame body with their poison. -/
def frameUnits (f : Frame) : List (BitVec 256 × Bool) :=
  (List.range 20).map (fun j => (BitVec.ofNat 256 (bits f.msg.toNat (20 + 256 * j) 256), f.pois.getLsbD j))

/-- A codeword that does not decode (R329, R332): counted, and the receiver waits for its expected FSEQ. -/
def frameLost (d : Dev) (p : Nat) : Dev :=
  modPort (satF d (GP_FEC_UE (portDie p) (portHalf p)) GP_FEC_UE_COUNT) p (fun g => { g with rxGap := true })

/-- A frame that has decoded (R331, R332): an idle frame's link packets are taken, a data frame in FSEQ order is accepted and its
packets received, anything else is discarded. -/
def takeFrame (d : Dev) (p : Nat) (f : Frame) : Dev :=
  let m := f.msg.toNat
  if bits m 0 2 = 1 then (frameUnits f).foldl (fun d u => if hPtype u.1.toNat = 15 then linkUnit d p u.1 else d) d
  else if bits m 0 2 = 0 ∧ bits m 2 12 = (gport d p).rxExp then
    (frameUnits f).foldl (takeUnit p)
      (modPort d p (fun g => { g with rxExp := (g.rxExp + 1) % 4096, rxGap := false, rxNew := g.rxNew + 1 }))
  else if bits m 0 2 = 0 then modPort d p (fun g => { g with rxGap := true })
  else d

/-- FRAME (R329, R332): a codeword arrives on the eight lanes of port p, with the poison of the rows its frame carries (log 24); mode 1
of injection makes one of a data frame count as undecodable (R362). -/
def frameIn (p : Nat) (lanes : List (BitVec 680)) (pois : BitVec 20) (d : Dev) : Dev :=
  if !portUp d p then d
  else match rsDecode lanes with
    | none => frameLost d p
    | some (msg, ce) =>
      let d1 := if ce then satF d (GP_FEC_CE (portDie p) (portHalf p)) GP_FEC_CE_COUNT else d
      if getF d (GP_INJ_CTL (portDie p) (portHalf p)) GP_INJ_CTL_MODE = 1 ∧ injAllowed d ∧ bits msg.toNat 0 2 = 0 then
        let r := portInject d1 p
        if r.1 then frameLost r.2 p else takeFrame r.2 p { msg := msg, pois := pois }
      else takeFrame d1 p { msg := msg, pois := pois }

/-- The first link packet received on port p with LCODE c, taken. -/
def takeLink (d : Dev) (p c : Nat) : Option Nat × Dev :=
  match (gport d p).links.find? (fun l => bits l.toNat 4 4 == c) with
  | some l => (some l.toNat, modPort d p (fun g => { g with links := g.links.erase l }))
  | none => (none, d)

/-- Frames kept before FSEQ s, or none where s is not among them. -/
def keptBefore (g : GPort) (s : Nat) : Option Nat :=
  let n := (s + 8192 - (g.txSeq + 4096 - g.kept.length)) % 4096
  if n ≤ g.kept.length then some n else none

/-- The n oldest kept frames are acknowledged (R332, R333): they are kept no longer, and the requests for one of them are over. -/
def ackFrames (g : GPort) (n : Nat) : GPort :=
  let here := match keptBefore g g.reqSeq with
    | some r => decide (r < n)
    | none => false
  { g with kept := g.kept.drop n, reqCnt := if here then 0 else g.reqCnt }

/-- LINK_ACK (R332): frames up to the one named are acknowledged, and frames that wait for room go out. -/
def linkAck (p : Nat) (d : Dev) : Dev :=
  if !portUp d p then d
  else match takeLink d p 0 with
    | (some l, d1) => match keptBefore (gport d1 p) ((bits l 8 12 + 1) % 4096) with
      | some n => sendFrames (modPort d1 p (fun g => ackFrames g n)) p
      | none => d1
    | (none, _) => d

/-- LINK_RETRY (R332, R333): replay from the frame named; the eighth request for one FSEQ takes the port down. -/
def linkRetry (p : Nat) (d : Dev) : Dev :=
  if !portUp d p then d
  else match takeLink d p 1 with
    | (some l, d1) =>
      let s := bits l 8 12
      let g := gport d1 p
      let c := if g.reqSeq = s ∧ 0 < g.reqCnt then g.reqCnt + 1 else 1
      let d2 := modPort d1 p (fun g => { g with reqSeq := s, reqCnt := c })
      if 8 ≤ c then portDown d2 p
      else match keptBefore g s with
        | some n =>
          let d3 := satF d2 (GP_RETRY (portDie p) (portHalf p)) GP_RETRY_REPLAYS
          { d3 with out := d3.out ++ (g.kept.drop n).map (frameOut p) }
        | none => d2
    | (none, _) => d

/-- LINK_CREDIT (R334): the far side's LIMIT values. -/
def linkCredit (p : Nat) (d : Dev) : Dev :=
  if !portUp d p then d
  else match takeLink d p 2 with
    | (some l, d1) => (List.range 4).foldl (fun d c =>
        setF d (GP_CREDIT (portDie p) (portHalf p) c) GP_CREDIT_LIMIT (bits l (32 + 16 * c) 16)) d1
    | (none, _) => d

/-- LINK_ACK_SEND (R332): the cumulative acknowledgement of the frames accepted. -/
def linkAckSend (p : Nat) (d : Dev) : Dev :=
  if !portUp d p then d
  else modPort (linkSend d p (0xF + fv 8 12 ((gport d p).rxExp + 4095))) p (fun g => { g with rxNew := 0 })

/-- LINK_RETRY_SEND (R332): a receiver that waits for its expected FSEQ asks for it. -/
def linkRetrySend (p : Nat) (d : Dev) : Dev :=
  if !portUp d p || !(gport d p).rxGap then d
  else satF (linkSend d p (0xF + 1 <<< 4 + fv 8 12 (gport d p).rxExp)) (GP_RETRY (portDie p) (portHalf p)) GP_RETRY_REQUESTS

/-- LINK_ACK_TIMEOUT (R333): no acknowledgement has advanced for 50 us while frames are unacknowledged. -/
def linkAckTimeout (p : Nat) (d : Dev) : Dev := if portUp d p && !(gport d p).kept.isEmpty then portDown d p else d

/-- LANE_LOCK_LOSS (R333): lane lock is lost. -/
def laneLockLoss (p : Nat) (d : Dev) : Dev := if portUp d p then portDown d p else d

/-- LINK_LEVEL (R340): the peer's link protocol level arrives while the port trains: the lower of the two is agreed where
they differ by at most 1, else the link stays down. -/
def linkLevel (p lv : Nat) (d : Dev) : Dev :=
  if 32 ≤ p ∨ !(gpState d p == 1 || gpState d p == 3) then d
  else
    let mine := getF d FAB_LEVEL FAB_LEVEL_LINK_LEVEL
    let d1 := setF d (gpStatus p) GP_STATUS_PEER_LEVEL lv
    let lv := lv % 256
    if lv ≤ mine + 1 ∧ mine ≤ lv + 1 then
      modPort (setF d1 (gpStatus p) GP_STATUS_LINK_LEVEL (min lv mine)) p (fun g => { g with levelOk := true })
    else modPort (gpFault (setGpState d1 p 0) p GP_FAULT_LEVEL) p (fun g => { g with levelOk := false })

/-- A port comes up: its sequence numbers, counts and credits start over and its own credits are granted (log 26); packets queued on it
since it went down leave now. -/
def portStart (d : Dev) (p : Nat) : Dev :=
  let d1 := modPort (setGpState d p 2) p (fun g => { emptied g with levelOk := true, txq := g.txq })
  creditSend ((List.range 4).foldl (fun d c => setR d (GP_CREDIT (portDie p) (portHalf p) c) 0) d1) p

/-- The port that carries a verdict stage: E0's for X and Z, E8's for Y, or that of the lowest working die of the group
(R313). -/
def stagePort (d : Dev) (a : Nat) : Option Nat :=
  let ks := if a = 1 then (List.range 8).map (· + 8) else List.range 8
  (ks.find? (fun k => !(edge d k).lost && gpState d (k + (if a = 2 then 16 else 0)) != 4)).map (fun k => k + (if a = 2 then 16 else 0))

/-- RDX_STATUS shows which die carries each stage of the module's job (R313). -/
def showStages (d : Dev) : Dev :=
  let on := decide (2 ≤ getF d FAB_STATE FAB_STATE_STATE)
  (List.range 16).foldl (fun d k =>
    setB (setB d (RDX_STATUS k) RDX_STATUS_VSTAGE_A (on && (stagePort d (if k < 8 then 0 else 1)) == some k))
      (RDX_STATUS k) RDX_STATUS_VSTAGE_B (on && decide (k < 8) && (stagePort d 2) == some (k + 16))) d

/-- PORT_TRAIN_DONE (R333): a training attempt of port p ends; it brings the port up, or the third failure leaves it lost; none
ends while JTAG drives the pins (R489). -/
def portTrainDone (p : Nat) (ok : Bool) (d : Dev) : Dev :=
  if 32 ≤ p ∨ !(gpState d p == 1 || gpState d p == 3) ∨ (edge d (portDie p)).lost ∨ getB d SB_JTAG SB_JTAG_PINS then d
  else if ok && (gport d p).levelOk then portStart d p
  else
    let n := (gport d p).tries + 1
    let d1 := modPort d p (fun g => { g with tries := n })
    if 3 ≤ n then showStages (setGpState d1 p 4) else levelSend d1 p

/- Packets taken from a port -/

/-- Two WRITE headers that name a row of one window both (R343). -/
def sameRows (h1 h2 : Nat) : Bool :=
  hPtype h1 == 1 && hPtype h2 == 1 && hWin h1 == hWin h2 && decide (hOfs h1 < hOfs h2 + 128 * hRows h2) && decide (hOfs h2 < hOfs h1 + 128 * hRows h1)

/-- The n-th packet received on port p and not yet handled, if its PTYPE is t and no earlier one writes a row it writes (R343): taken,
its units handed back as credit. -/
def takePkt (d : Dev) (p n t : Nat) : Option RxPkt × Dev :=
  match (gport d p).inbox[n]? with
  | some x =>
    let h := x.p.hdr.toNat
    if hPtype h = t ∧ p < 32 ∧ ((gport d p).inbox.take n).any (fun y => sameRows y.p.hdr.toNat h) = false then
      (some x, giveBack (modPort d p (fun g => { g with inbox := g.inbox.eraseIdx n })) p h)
    else (none, d)
  | none => (none, d)

/-- The window of a sender after a sealed counter is accepted, or none where it may not be (R414). -/
def sealAccept (w : SealWin) (c : Nat) : Option SealWin :=
  if w.high < c then
    some { w with high := c, marks := (w.marks <<< (c - w.high)) ||| 1 }
  else if c + 256 ≤ w.high ∨ w.marks.getLsbD (w.high - c) then none
  else some { w with marks := w.marks ||| (1 <<< (w.high - c)) }

/-- The data rows of a packet after its trailer or tag has been checked on port p: none where it fails; a sealed packet that R414 refuses
counts in SEC_REPLAY (R338, R339, R414, R418). -/
def openRows (d : Dev) (p : Nat) (x : RxPkt) : Option (List FRow) × Dev :=
  let h := x.p.hdr.toNat
  let fin := fun (rs : List Row) =>
    let rs := match x.flip with
      | some i => flipBit rs i
      | none => rs
    some ((rs.zip (List.range rs.length)).map (fun r => FRow.mk r.1 (x.p.pois.getD r.2 false)))
  if x.p.rows = [] then (some [], d)
  else if !hSealed h then
    (if x.p.trl.toNat % 2 ^ 128 = crc32 (rowBytes x.p.rows) then fin x.p.rows else none, d)
  else
    let n := bits x.p.trl.toNat 128 96
    let c := bits n 24 72
    let no := (none, setR d SEC_REPLAY (getR d SEC_REPLAY + 1))
    match linkKey d (hSkey h) with
    | none => no
    | some key =>
      if bits n 0 16 ≠ hSrc h ∨ bits n 16 8 ≠ p ∨ bits x.p.trl.toNat 224 32 ≠ 0 then no
      else
        let g := gport d p
        let old := g.wins.find? (fun w => w.sender == hSrc h && w.slot == hSkey h)
        let senders := (g.wins.map (·.sender)).eraseDups
        let w0 : SealWin := old.getD { sender := hSrc h, slot := hSkey h, high := 0, marks := 0 }
        if old.isNone && !senders.contains (hSrc h) && decide (4096 ≤ senders.length) then no
        else match sealAccept w0 c with
          | none => no
          | some w1 =>
            match gcmOpen key (bytesOf 12 n) (bytesOf 28 h) (rowBytes x.p.rows) (bytesOf 16 (x.p.trl.toNat % 2 ^ 128)) with
            | none => (none, d)
            | some pt =>
              (fin (bytesRows x.p.rows.length pt),
                modPort d p (fun g =>
                let ws := g.wins.filter (fun w => !(w.sender == hSrc h && w.slot == hSkey h))
                { g with wins := w1 :: ws }))

/-- A packet whose data check fails (R339): the port's fault, a record, RERUN. -/
def integrityFault (d : Dev) (p h : Nat) : Dev :=
  report (gpFault d p GP_FAULT_INTEGRITY) (portEv p 0x31 (hTc h) (hOper h) ((gport d p).rxExp) .step)

end Sys2Proof.Machine
end

