-- ==== Sys2Proof/Machine/Fabric.lean ====
section
/-!
DEFINITION. Machine/Fabric.lean: windows and remote requests, responses, sync messages (R324, R344-R348), the bulk path of
the edge dies (R71, R72, R545) and the shelf-window path (R146, R147).
-/
namespace Sys2Proof.Machine

/- The bulk path -/

/-- The tile behind attachment a of edge die k (R24). -/
def dieTile (k a : Nat) : Nat :=
  if k < 4 then 16 * k + 8 * a
  else if k < 8 then 2 * (k - 4) + a
  else if k < 12 then 16 * (k - 8) + 7 + 8 * a
  else 56 + 2 * (k - 12) + a

/-- Entry i of bulk slot map a of die k (R72). -/
def bulkEntry (d : Dev) (k a i : Nat) : Nat := bits (getR d (BULK_MAP k a (i / 2))) (16 * (i % 2)) 16

/-- The mesh unit a bulk slot names: tile and port code (R72). -/
def bulkUnit (tile port : Nat) : Option Nat :=
  if port = 0 then some tile else if port = 3 then none else some (64 + 2 * tile + (port - 1))

/-- The router port of the attachments of edge die k (R24, R63): EA on the west and east sides, EB on the south and north. -/
def diePort (k : Nat) : Nat := if k < 4 ∨ (8 ≤ k ∧ k < 12) then 4 else 5

/-- Where the flit that output n of router t sends in cycle c entered the mesh (R29, R63, R64, R67): the tile, the input and the cycle of
the BULK entry that read it from an edge attachment or a local port; none where a router on the way applies no entry or selects
none. `fuel` bounds the links it passed. -/
def routeOf (d : Dev) : Nat → Nat → Nat → Nat → Option (Nat × Nat × Nat)
  | 0, _, _, _ => none
  | fuel + 1, t, n, c =>
    match entryIndex d t c with
    | none => none
    | some i =>
      let p := entrySrc (slotEntry d t i) n
      if p = n ∨ p = 15 then none
      else if p < 4 then
        match neighbour t p with
        | some x => if c < 3 then none else routeOf d fuel x.1 x.2 (c - 3)
        | none => none
      else if bit (slotEntry d t i) 68 then some (t, p, c) else none

/-- The router inputs such a flit is received at on its way: tile, input and cycle, the last first. -/
def hopsOf (d : Dev) : Nat → Nat → Nat → Nat → List (Nat × Nat × Nat)
  | 0, _, _, _ => []
  | fuel + 1, t, n, c =>
    match entryIndex d t c with
    | none => []
    | some i =>
      let p := entrySrc (slotEntry d t i) n
      if p = n ∨ 6 ≤ p then []
      else (t, p, c) :: (match if p < 4 then neighbour t p else none with
        | some x => if c < 3 then [] else hopsOf d fuel x.1 x.2 (c - 3)
        | none => [])

/-- The local router port of a mesh unit, and the number its port map goes by (R63, R178). -/
def unitPort (u : Nat) : Nat := if u < 64 then 10 else 11 + u % 2
def unitMap (u : Nat) : Nat := if u < 64 then 320 + u else 384 + (u - 64)

/-- In cycle c the router of unit u's tile gives the unit's bulk agent a flit that edge die k sent in a bulk slot its map gives the unit
(R71, R72, R178, R254, R545; log 71). -/
def bulkIn (d : Dev) (k u c : Nat) : Bool :=
  let t := unitTileNo u
  match entryIndex d t c, routeOf d 64 t (unitPort u) c with
  | some i, some (t1, p, j) =>
    bits (portEntry d (unitMap u) i) 0 7 == 127 && p == diePort k && decide (j < windowCycles d) &&
    (List.range 2).any (fun a => dieTile k a == t1 &&
      (let e := bulkEntry d k a (j % slotPeriod d t1); bulkUnit (bits e 0 6) (bits e 6 2) == some u))
  | _, _ => false

/-- In cycle c attachment a of edge die k is sent, in a bulk slot its map gives unit u, a flit of the unit's bulk agent (R71, R72, R178,
R254, R545; log 71). -/
def bulkOut (d : Dev) (k u a c : Nat) : Bool :=
  match routeOf d 64 (dieTile k a) (diePort k) c with
  | some (t1, p, j) =>
    t1 == unitTileNo u && p == unitPort u && decide (j < windowCycles d) &&
    bits (portEntry d (unitMap u) (j % slotPeriod d t1)) 8 7 == 127 &&
    (let e := bulkEntry d k a (c % slotPeriod d (dieTile k a)); bulkUnit (bits e 8 6) (bits e 14 2) == some u)
  | none => false

/-- The first bulk slot of die k that leads to (or, for a read, from) the unit holding an address, as the router inputs its flit is received
at, in order (R71, R72, R347). -/
def bulkPath (d : Dev) (k addr : Nat) (write : Bool) : Option (List (Nat × Nat × Nat)) :=
  match unitOf addr with
  | none => none
  | some u =>
    if (edge d k).lost || baseLost d (unitTileNo u) then none
    else if write then
      ((List.range (windowCycles d + 256)).find? (bulkIn d k u)).map (fun c => (hopsOf d 64 (unitTileNo u) (unitPort u) c).reverse)
    else
      ((List.range (2 * (windowCycles d + 256))).find? (fun i => bulkOut d k u (i % 2) (i / 2))).map (fun i =>
        (hopsOf d 64 (dieTile k (i % 2)) (diePort k) (i / 2)).reverse)

/-- Some bulk slot of die k leads to (or, for a read, from) the unit holding an address (R71, R72, R347). -/
def bulkLeads (d : Dev) (k addr : Nat) (write : Bool) : Bool := (bulkPath d k addr write).isSome

/-- A bulk row as fault injection at the router inputs on its way leaves it, each row a flit of its own (R362; log 71). -/
def passBulk (row : FRow) (hops : List (Nat × Nat × Nat)) (d : Dev) : FRow × Dev :=
  hops.foldl (fun s x =>
    let r := meshInject s.2 { tile := x.1, port := x.2.1, cyc := x.2.2, rows := [s.1] }
    (r.1.rows.headD {}, r.2)) (row, d)

/-- A context as a requester (R251). -/
def ctxSrc (d : Dev) (c : Nat) : Src := { tag := ctxBits d c 8 8, ctx := c, fill := ctxFiller d c }

/-- A row an engine of die k reads over the bulk path for the foreground context: a refused row is poisoned (R545). -/
def engRead (d : Dev) (k addr : Nat) : FRow × Dev :=
  match bulkPath d k addr false with
  | none => ({ poison := true }, d)
  | some hops =>
    let r := unitRead d addr (ctxSrc d (d.res.fg.getD 0))
    passBulk (r.1.getD { poison := true }) hops r.2

/-- A row an engine of die k writes over the bulk path for context n; whether it landed (R545). -/
def engWriteFor (n : Nat) (d : Dev) (k addr : Nat) (row : FRow) : Bool × Dev :=
  match bulkPath d k addr true with
  | none => (false, d)
  | some hops =>
    let r := passBulk row hops d
    unitWrite r.2 addr r.1 (ctxSrc d n)

/-- A row an engine writes for the foreground context. -/
def engWrite (d : Dev) (k addr : Nat) (row : FRow) : Bool × Dev := engWriteFor (d.res.fg.getD 0) d k addr row

/-- Rows written in turn for context n; whether all landed. -/
def engWritesFor (n k addr : Nat) : List FRow → Dev → Bool × Dev
  | [], d => (true, d)
  | r :: rs, d =>
    let w := engWriteFor n d k addr r
    let ws := engWritesFor n k (addr + 128) rs w.2
    (w.1 && ws.1, ws.2)

/-- Rows written in turn for the foreground context. -/
def engWrites (k addr : Nat) (rs : List FRow) (d : Dev) : Bool × Dev := engWritesFor (d.res.fg.getD 0) k addr rs d

/-- n rows read in turn. -/
def engReads (k addr : Nat) : Nat → Dev → List FRow × Dev
  | 0, d => ([], d)
  | n + 1, d =>
    let r := engRead d k addr
    let rs := engReads k (addr + 128) n r.2
    (r.1 :: rs.1, rs.2)

/- Windows (R344-R346) -/

def winDesc (d : Dev) (n : Nat) : Nat := getWords d (WIN_DESC n 0) 16
def setWin (d : Dev) (n v : Nat) : Dev := setWords d (WIN_DESC n 0) 16 v
def wValid (w : Nat) : Bool := bit w 0
def wRd (w : Nat) : Bool := bit w 1
def wWr (w : Nat) : Bool := bit w 2
def wTsoOk (w : Nat) : Bool := bit w 3
def wSeal (w : Nat) : Bool := bit w 4
def wOneSrc (w : Nat) : Bool := bit w 5
def wCtx (w : Nat) : Nat := bits w 16 14
def wGen (w : Nat) : Nat := bits w 32 16
def wSrcMod (w : Nat) : Nat := bits w 48 16
def wBase (w : Nat) : Nat := bits w 64 48
def wLen (w : Nat) : Nat := bits w 128 32
def wEpoch (w : Nat) : Nat := bits w 160 32
def wReserved (w : Nat) : Nat := bits w 6 10 + bits w 30 2 + bits w 112 16 + bits w 192 320

/-- The address spans a window may cover: the Cellar, one larder, or the shelf windows (R345). -/
def winSpanOk (b n : Nat) : Bool :=
  let e := b + 128 * n
  decide (e ≤ 128 * stackSize) ||
    (decide (larderBase ≤ b) && decide (e ≤ larderBase + 64 * larderSize) && (b - larderBase) / larderSize == (e - 1 - larderBase) / larderSize) ||
    (decide (shelfBase ≤ b) && decide (e ≤ shelfBase + 320 * shelfSize))

/-- A context is resident on the module (R394). -/
def isResident (d : Dev) (c : Nat) : Bool := d.res.fg == some c || d.res.fillers.contains c

/-- A window image may be opened while `epoch` is current (R345). -/
def winOk (d : Dev) (n w epoch : Nat) : Bool :=
  decide (n < 8192) && wReserved w == 0 && wBase w % 128 == 0 && decide (1 ≤ wLen w) && winSpanOk (wBase w) (wLen w) &&
    (wEpoch w == 0 || wEpoch w == epoch) && isResident d (wCtx w) && wGen (winDesc d n) != 0xFFFF &&
    !wValid (winDesc d n) && !(d.fab.closing.any (fun c => c.1 == n))

/-- Window n opens with its present generation; a protected context's window demands sealing (R356, R412). -/
def openWin (d : Dev) (n w : Nat) : Dev :=
  let w1 := insBits (insBits w 0 1 1) 32 16 (wGen (winDesc d n))
  setWin d n (if ctxBits d (wCtx w) 1 1 = 1 then insBits w1 4 1 1 else w1)

/-- Window n closes: VALID clears and GEN rises; the close is under way until no committed WRITE has rows to land. `req`
is the request that asked for it (R345, R346). -/
def closeWin (d : Dev) (n : Nat) (req : Option Nat) : Dev :=
  let w := winDesc d n
  let d1 := setWin d n (insBits (insBits w 0 1 0) 32 16 (min (wGen w + 1) 0xFFFF))
  { d1 with fab := { d1.fab with closing := d1.fab.closing ++ [(n, req)] } }

/-- Open windows for which p holds. -/
def openWins (d : Dev) (p : Nat → Bool) : List Nat :=
  (List.range 8192).filter (fun n => wValid (winDesc d n) && p (winDesc d n))

/- Responses -/

/-- The header of a response to request header h (R337, R348). -/
def respHdr (d : Dev) (h ptype tc code : Nat) : Nat :=
  fv 0 4 ptype + fv 4 2 tc + fv 16 16 (myMod d) + fv 32 16 (hSrc h) + fv 48 16 (hTag h) + fv 176 32 (hEpoch h) + fv 208 8 code

/-- A response leaves by the port its request came by (R341). -/
def respond (d : Dev) (p : Nat) (pk : Packet) : Dev := if portUp d p then queueOn d p pk else d

/-- A refused request counted and recorded (R347). -/
def countRefused (d : Dev) (p h code : Nat) : Dev :=
  let d1 := setR d FAB_REFUSED (getR d FAB_REFUSED + 1)
  let d2 := setR d1 FAB_LAST_REFUSE (fv 0 16 (hSrc h) + fv 16 8 code + fv 24 4 (hPtype h))
  report d2 { portEv p 0x56 (hTc h) (fv 0 4 (hPtype h) + fv 8 8 code + fv 16 16 (hTag h)) ((gport d p).rxExp) .none with
              other := some (hSrc h) }

/-- A request is refused with a NACK (R347): counters, the last refusal and a record. -/
def nackReq (d : Dev) (p h code : Nat) : Dev :=
  respond (countRefused d p h code) p { hdr := withHcrc (respHdr d h 5 0 code) }

/- Remote requests (R347) -/

/-- Rows a request covers: those it carries, or those a READ asks for. -/
def reqRows (h : Nat) : Nat := if hPtype h = 1 then hRows h else bits (hCode h) 0 6

/-- The first check of R347 before the data check that a request fails. -/
def reqRefusal (d : Dev) (h : Nat) : Option Nat :=
  let w := winDesc d (hWin h)
  let wr := hPtype h == 1
  let n := reqRows h
  if hDst h ≠ myMod d then some 0x0A
  else if !wValid w || hWgen h != wGen w then some 0x01
  else if wEpoch w ≠ 0 ∧ hEpoch h ≠ wEpoch w then some 0x02
  else if (wr && !wWr w) || (!wr && !wRd w) then some 0x03
  else if wOneSrc w && hSrc h != wSrcMod w then some 0x03
  else if hTsoEn h && !wTsoOk w then some 0x03
  else if !wr && (n == 0 || decide (32 < n)) then some 0x04
  else if hOfs h % 128 ≠ 0 ∨ 128 * wLen w < hOfs h + 128 * n then some 0x04
  else if wSeal w && decide (0 < n) && wr && !hSealed h then some 0x05
  else none

/-- Whether an address lies in the shelf windows. -/
def inShelf (a : Nat) : Bool := decide (shelfBase ≤ a) && decide (a < shelfBase + 320 * shelfSize)

/-- A request that has passed its checks waits for its slots. -/
def holdReq (d : Dev) (p h : Nat) (rows : List FRow) : Dev :=
  let x : HeldReq := { no := d.fab.heldNo, port := p, hdr := BitVec.ofNat 256 h, rows := rows, win := winDesc d (hWin h) }
  { d with fab := { d.fab with heldNo := d.fab.heldNo + 1, held := d.fab.held ++ [x] } }

/-- A WRITE or READ, the n-th packet received on port p, checked against its window (R339, R347). -/
def remoteReq (p n t : Nat) (d : Dev) : Dev :=
  match takePkt d p n t with
  | (some x, d1) =>
    let h := x.p.hdr.toNat
    match reqRefusal d1 h with
    | some c => nackReq d1 p h c
    | none =>
      let a := wBase (winDesc d1 (hWin h)) + hOfs h
      match openRows d1 p x with
      | (none, d2) => nackReq (integrityFault d2 p h) p h 0x06
      | (some rows, d2) =>
        if !inShelf a && !bulkLeads d2 (portDie p) a (hPtype h == 1) then nackReq d2 p h 0x07
        else holdReq d2 p h rows
  | (none, _) => d

/-- WRITE (R347). -/
def remoteWrite (p n : Nat) (d : Dev) : Dev := remoteReq p n 1 d

/-- READ (R347). -/
def remoteRead (p n : Nat) (d : Dev) : Dev := remoteReq p n 2 d

def setHeld (d : Dev) (x : HeldReq) : Dev :=
  { d with fab := { d.fab with held := d.fab.held.map (fun y => if y.no = x.no then x else y) } }

def dropHeld (d : Dev) (no : Nat) : Dev := { d with fab := { d.fab with held := d.fab.held.filter (fun y => y.no != no) } }

/-- A context's packets with rows are sealed under its link key when it is protected (R412). -/
def sealBits (d : Dev) (ctx : Nat) (sl : Bool) : Nat :=
  if sl || ctxBits d ctx 1 1 == 1 then fv 7 1 1 + fv 216 8 (ctxBits d ctx 16 8) else 0

/-- Every row of a held request has landed or been read: it is answered, unless a refused row's report is still to come
(R347, R545). -/
def finishHeld (d : Dev) (x : HeldReq) : Dev :=
  let h := x.hdr.toNat
  let n := reqRows h
  if x.done < n then setHeld d x
  else if x.refused then (if x.reported then dropHeld d x.no else setHeld d x)
  else
    let w := x.win
    let d1 := dropHeld d x.no
    if hPtype h = 1 then
      let d2 := respond d1 x.port { hdr := withHcrc (respHdr d h 4 0 0) }
      if hTsoEn h then
        sendInc d2 { obj := hTso h, ctx := wCtx w, amt := 1, src := 512 + portDie x.port, fill := ctxFiller d2 (wCtx w) }
      else d2
    else
      let rows := (List.range n).map (fun i => x.got.get i {})
      respond d1 x.port
        { hdr := withHcrc (respHdr d h 3 (hTc h) 0 + fv 8 6 n + sealBits d (wCtx w) (wSeal w)),
          rows := rows.map (·.data), pois := rows.map (·.poison) }

/-- Up to m further rows of a held request over the bulk path along its router inputs. -/
def landBulk (base : Nat) (src : Src) (hops : List (Nat × Nat × Nat)) : Nat → HeldReq → Dev → HeldReq × Dev
  | 0, x, d => (x, d)
  | m + 1, x, d =>
    if reqRows x.hdr.toNat ≤ x.done then (x, d)
    else
      let a := base + 128 * x.done
      if hPtype x.hdr.toNat = 1 then
        let f := passBulk (x.rows.getD x.done {}) hops d
        let r := unitWrite f.2 a f.1 src
        landBulk base src hops m { x with sent := x.sent + 1, done := x.done + 1, refused := x.refused || !r.1 } r.2
      else
        let r := unitRead d a src
        let f := passBulk (r.1.getD {}) hops r.2
        landBulk base src hops m
          { x with sent := x.sent + 1, done := x.done + 1, refused := x.refused || r.1.isNone, got := x.got.put x.done f.1 {} } f.2

/-- Shelf-window rows a die has in flight (R147). -/
def inFlight (d : Dev) (k : Nat) : Nat :=
  (d.shelfFlight.filter (fun s => match s.req with
    | some n => (d.fab.held.find? (fun x => x.no == n)).any (fun x => portDie x.port == k)
    | none => k == 16)).length

/-- Up to m further rows of a held request sent over the control network. -/
def sendShelf (a ctx : Nat) : Nat → HeldReq → Dev → HeldReq × Dev
  | 0, x, d => (x, d)
  | m + 1, x, d =>
    if reqRows x.hdr.toNat ≤ x.sent ∨ 16 ≤ inFlight d (portDie x.port) then (x, d)
    else
      let o := a + 128 * x.sent - shelfBase
      let s : ShelfRow := { core := o / shelfSize, ofs := o % shelfSize, wr := hPtype x.hdr.toNat == 1,
                            row := x.rows.getD x.sent {}, ctx := some ctx, req := some x.no }
      sendShelf a ctx m { x with sent := x.sent + 1 } { d with shelfFlight := d.shelfFlight ++ [s] }

/-- The n-th held request may land rows: no earlier one still writes a row it writes (R343), and outside the shelf windows a bulk slot
leads to its unit (R71). -/
def landTurn (d : Dev) (n : Nat) (x : HeldReq) : Bool :=
  let h := x.hdr.toNat
  !((d.fab.held.take n).any (fun y => sameRows y.hdr.toNat h && decide (y.done < reqRows y.hdr.toNat))) &&
    (inShelf (wBase x.win + hOfs h) || bulkLeads d (portDie x.port) (wBase x.win + hOfs h) (hPtype h == 1))

/-- WINDOW_LAND (R346, R347): a bulk slot, or the control-network path, comes round for up to m rows of the n-th held request. Before its first
row the window's VALID and GEN are checked again; its rows land where the window stood when it was checked. -/
def windowLand (n m : Nat) (d : Dev) : Dev :=
  match d.fab.held[n]? with
  | none => d
  | some x =>
    let h := x.hdr.toNat
    let w := winDesc d (hWin h)
    if x.sent = 0 && (!wValid w || wGen w != hWgen h) then nackReq (dropHeld d x.no) x.port h 0x01
    else if !landTurn d n x then d
    else
      let a := wBase x.win + hOfs h
      if inShelf a then
        let r := sendShelf a (wCtx x.win) m x d
        finishHeld r.2 r.1
      else
        let hops := (bulkPath d (portDie x.port) a (hPtype h == 1)).getD []
        let r := landBulk a (ctxSrc d (wCtx x.win)) hops m x d
        finishHeld r.2 r.1

/-- The context that owns the partition of a shelf row (R144, R146). -/
def shelfOwner (d : Dev) (c row : Nat) : Option Nat := residentOf d c (rowIsFill d c row)

/-- Whether a shelf-window access is served: from outside, it carries the owner's context; the host's is served where the owner
is unprotected (R146; log 27). -/
def shelfServed (d : Dev) (s : ShelfRow) : Bool :=
  let row := s.ofs / 128 / 128
  if !coreThere d s.core then false
  else match s.ctx, shelfOwner d s.core row with
    | some c, some o => c == o
    | none, some o => ctxBits d o 1 1 == 0
    | _, none => false

/-- A read without the effects R474 keeps from the host: no record, fault bit or RERUN cause. -/
def quietly (d d1 : Dev) : Dev :=
  { d1 with recFlight := d.recFlight, recSeen := d.recSeen, rerunStep := d.rerunStep, rerunUpd := d.rerunUpd,
            committedPoison := d.committedPoison, freshN := d.freshN }

/-- What a shelf-window row does at its core (R140, R143, R146, R161): none where it is refused, else the row read. -/
def shelfAccess (d : Dev) (s : ShelfRow) : Option FRow × Dev :=
  let bank := s.ofs / 128 % 128; let row := s.ofs / 128 / 128
  let w : ShfWho := { c := s.core, fill := rowIsFill d s.core row, ctx := s.ctx.getD 0, port := 3 }
  if !shelfServed d s then (none, d)
  else if s.wr then
    if bit (getF d (SHF_ACCEPT s.core) SHF_ACCEPT_ACCEPT) (bank / 8) then
      (some {}, writeShelf d w bank row s.row.data s.row.poison 0)
    else (none, writeShelf d w bank row s.row.data s.row.poison 0)
  else if s.ctx.isNone then
    if bit (getF d (SHF_AWAKE s.core) SHF_AWAKE_AWAKE) (bank / 8) then
      (some { data := rowData d (shelfRowAddr s.core bank row) },
        -- a host read sets no fault and writes no record (R474); a parity error is counted (R164)
        if (rowMetaAt d (shelfRowAddr s.core bank row)).parErr != 0 then countParity d w bank row else d)
    else (none, d)
  else
    let r := readShelf d w bank row
    (some r.1.1, r.2)

/-- Shelf-window rows of the host on their way (R147). -/
def hostShelf (d : Dev) : Nat := (d.shelfFlight.filter (fun s => s.req.isNone)).length

/-- Up to n host rows that waited are sent while fewer than 16 are on their way (R147). -/
def hostFeed : Nat → Dev → Dev
  | 0, d => d
  | k + 1, d =>
    match d.hostHold with
    | [] => d
    | s :: ss => if 16 ≤ hostShelf d then d else hostFeed k { d with hostHold := ss, shelfFlight := d.shelfFlight ++ [s] }

/-- Data that answers a host read. -/
def answerRead (d : Dev) (v : Nat) : Dev := { d with out := d.out ++ [.readData v] }

/-- A host read takes one of its rows, and is answered with its last. -/
def hostRowBack (d : Dev) (s : ShelfRow) (row : BitVec 1024) : Dev :=
  match d.hostRds.find? (fun x => s.rd == some x.no) with
  | none => d
  | some x =>
    let i := (shelfBase + s.core * shelfSize + s.ofs - x.addr / 128 * 128) / 128
    let y := { x with got := x.got.put i row 0, left := x.left - 1 }
    let rest := d.hostRds.filter (fun z => z.no != x.no)
    if y.left = 0 then
      let v := (List.range ((x.addr % 128 + x.len + 127) / 128)).foldl (fun v j => v + (y.got.get j 0).toNat <<< (1024 * j)) 0
      answerRead { d with hostRds := rest } (bits v (8 * (x.addr % 128)) (8 * x.len))
    else { d with hostRds := rest ++ [y] }

/-- SHELF_WINDOW_ROW (R147): the n-th shelf-window row on its way reaches its core's stream port. -/
def shelfWindowRow (n : Nat) (d : Dev) : Dev :=
  match d.shelfFlight[n]? with
  | none => d
  | some s =>
    let r := shelfAccess { d with shelfFlight := d.shelfFlight.eraseIdx n } s
    match s.req with
    | none => hostFeed 1 (if s.wr then r.2 else hostRowBack r.2 s (r.1.getD {}).data)
    | some no =>
      match r.2.fab.held.find? (fun x => x.no == no) with
      | none => r.2
      | some x =>
        let h := x.hdr.toNat
        let a := wBase x.win + hOfs h
        let i := (shelfBase + s.core * shelfSize + s.ofs - a) / 128
        finishHeld r.2 { x with done := x.done + 1, refused := x.refused || r.1.isNone,
                                got := if s.wr then x.got else x.got.put i (r.1.getD {}) {} }

/-- BULK_REFUSE_REPORT (R545): the report of a refused row of the n-th held request reaches its edge die, which answers with
NACK TARGET. -/
def bulkRefuseReport (n : Nat) (d : Dev) : Dev :=
  match d.fab.held[n]? with
  | none => d
  | some x =>
    if !x.refused || x.reported then d
    else
      let d1 := nackReq d x.port x.hdr.toNat 0x08
      if reqRows x.hdr.toNat ≤ x.done then dropHeld d1 x.no else setHeld d1 { x with reported := true }

/-- WINDOW_CLOSE_DONE (R346): the close of window n completes once no committed WRITE of it has rows still to land. -/
def windowCloseDone (n : Nat) (d : Dev) : Dev :=
  match d.fab.closing.find? (fun c => c.1 == n) with
  | none => d
  | some c =>
    if d.fab.held.any (fun x => hWin x.hdr.toNat == n && hPtype x.hdr.toNat == 1 && decide (0 < x.sent) && decide (x.done < reqRows x.hdr.toNat))
    then d
    else
      let d1 := { d with fab := { d.fab with closing := d.fab.closing.erase c } }
      match c.2 with
      | some tag => postCq d1 1 0 tag 0 0 0
      | none => d1

/- Responses received (R348) -/

/-- The request a response answers: one outstanding with its SRC and TAG (R348). -/
def answered (d : Dev) (h : Nat) : Option Outst := d.fab.outst.find? (fun o => o.tag == hTag h && o.dst == hSrc h)

/-- An engine of an edge die: 0 RDX, 2 transfer, 3 exchange. -/
def modEng (d : Dev) (k e : Nat) (f : Eng → Eng) : Dev :=
  modEdge d k (fun x => if e = 0 then { x with rdx := f x.rdx } else if e = 2 then { x with xfer := f x.xfer } else { x with xch := f x.xch })

def eng (d : Dev) (k e : Nat) : Eng := if e = 0 then (edge d k).rdx else if e = 2 then (edge d k).xfer else (edge d k).xch

/-- The queue state at descriptor n: waiting for START, or done for this pass (R298, R349, R381). -/
def queueAt (d : Dev) (status qlen : Nat) (st cur : Fld) (len : Fld) (n : Nat) : Dev :=
  if getF d qlen len ≤ n then setF d status st 3 else setF (setF d status cur n) status st 1

/-- XFER_OUT counts the transfer engine's requests without an answer (R364). -/
def xferOut (d : Dev) (k : Nat) : Dev :=
  setF d (XFER_OUT k) XFER_OUT_COUNT ((d.fab.outst.filter (fun o => o.die == k && o.eng % 8 == 2)).length)

/-- A request leaves the outstanding list; `bad` where it was refused or timed out, which marks the descriptor it belongs to (R350). -/
def settle (d : Dev) (o : Outst) (bad : Bool) : Dev :=
  let d1 := { d with fab := { d.fab with outst := d.fab.outst.erase o } }
  xferOut (if bad && decide (o.eng < 8) then modEng d1 o.die o.eng (fun e => { e with bad := true }) else d1) o.die

/-- ACK (R348). -/
def ackIn (p n : Nat) (d : Dev) : Dev :=
  match takePkt d p n 4 with
  | (some x, d1) => match answered d1 x.p.hdr.toNat with
    | some o => if o.read then d1 else settle d1 o false
    | none => d1
  | (none, _) => d

/-- The object that sent a sync message to a module under this tag: a forwarding one that has been reached (R324, R337, R348). -/
def syncSender (d : Dev) (h : Nat) : Option Nat :=
  if hTag h < nObjs ∧ oFwd (objEntry d (hTag h)) ∧ bit (objEntry d (hTag h)) 90 ∧ oRmod (objEntry d (hTag h)) = hSrc h then some (hTag h)
  else none

/-- NACK (R348): a refused request of an engine, or a refused sync message, which marks its sending object (R324). -/
def nackIn (p n : Nat) (d : Dev) : Dev :=
  match takePkt d p n 5 with
  | (some x, d1) =>
    let h := x.p.hdr.toNat
    match answered d1 h with
    | some o => settle (gpFault d1 o.port GP_FAULT_NACK_RX) o true
    | none => match syncSender d1 h with
      | some o => syncNack (gpFault d1 p GP_FAULT_NACK_RX) o
      | none => d1
  | (none, _) => d

/-- RDATA (R348, R350): the rows of a READ land at LOCAL over the module's own bulk path. -/
def rdataIn (p n : Nat) (d : Dev) : Dev :=
  match takePkt d p n 3 with
  | (some x, d1) =>
    let h := x.p.hdr.toNat
    match answered d1 h with
    | none => d1
    | some o =>
      if !o.read then d1
      else match openRows d1 p x with
        | (none, d2) =>
          -- an RDATA whose check fails is answered with NACK INTEGRITY and discarded (R339)
          respond (integrityFault d2 p h) p { hdr := withHcrc (respHdr d2 h 5 0 0x06) }
        | (some rows, d2) =>
          let w := engWrites o.die o.addr (rows.take o.rows) d2
          settle w.2 o (!w.1)
  | (none, _) => d

/-- A request that a fenced module still holds on its port (R360). -/
def stillHeld (d : Dev) (o : Outst) : Bool :=
  fenced d && (gport d o.port).txq.any (fun x => let h := x.hdr.toNat; hTag h == o.tag && hDst h == o.dst && (hPtype h == 1 || hPtype h == 2))

/-- TXN_TIMEOUT (R351): the n-th outstanding request has had no answer within FAB_TXN_TO; one that fencing keeps from leaving is
paused and does not fail (R360). -/
def txnTimeout (n : Nat) (d : Dev) : Dev :=
  match d.fab.outst[n]? with
  | none => d
  | some o =>
    if stillHeld d o then d else
    let e : Ev := { cls := 0x34, kind := 7, unit := o.dst, sub := o.port, oper := if o.read then 2 else 1, other := some o.dst, scope := .step }
    settle (report (gpFault d o.port GP_FAULT_TXN_TIMEOUT) e) o true

/-- The packets whose MEPOCH must be the current epoch (R348). -/
def epochOk (d : Dev) (h : Nat) : Bool := hEpoch h == getR d FAB_MEPOCH && getR d FAB_MEPOCH != 0

/-- SYNC (R324, R348): a sync message from another module is counted at its object or refused. -/
def syncIn (p n : Nat) (d : Dev) : Dev :=
  match takePkt d p n 6 with
  | (some x, d1) =>
    let h := x.p.hdr.toNat
    if !epochOk d1 h then nackReq d1 p h 0x02
    else if !oRemoteOk (objEntry d1 (hTso h)) then nackReq d1 p h 0x09
    else
      sendInc d1 { obj := hTso h, ctx := oCtx (objEntry d1 (hTso h)), amt := 1, src := 600 + p, remote := true,
                   fill := ctxFiller d1 (oCtx (objEntry d1 (hTso h))) }
  | (none, _) => d

/-- The sync messages waiting to leave the module are queued on their ports; a fenced module keeps them (R324, R341,
R360). -/
def flushSync (d : Dev) : Dev :=
  if fenced d then d
  else d.syncOut.foldl (fun d m =>
    let r := sendByGroup d { hdr := withHcrc (fv 0 4 6 + fv 16 16 (myMod d) + fv 32 16 m.rmod + fv 48 16 m.fromObj +
      fv 160 14 m.robj + fv 176 32 (getR d FAB_MEPOCH)) }
    if r.1 then r.2 else syncNack r.2 m.fromObj) { d with syncOut := [] }

end Sys2Proof.Machine
end

