-- ==== Sys2Proof/Machine/UpdateCalc.lean ====
section
/-!
DEFINITION. Machine/UpdateCalc.lean: the Update Engine's arithmetic (R269, R278-R286). A value carries with it whether an
operation it came from set the non-finite latch (R100).
-/
namespace Sys2Proof.Machine

/-- A value and whether forming it set the latch. -/
abbrev LNum := Num × Bool

/-- A stored code as a value. -/
def lOf (F : Fmt) (c : Nat) : LNum := (decodeNum F c, false)

/-- A constant. -/
def lK (x : Num) : LNum := (x, false)

/-- A result rounded to SDX32, from its operands. -/
def lRound (ops : List LNum) (x : Num) : LNum :=
  let r := rd fSdx32 x
  (r, ops.any (·.2) || latches (ops.map (·.1)) r)

def lAdd (a b : LNum) : LNum := lRound [a, b] (addNum a.1 b.1)
def lSub (a b : LNum) : LNum := lRound [a, b] (subNum a.1 b.1)
def lMul (a b : LNum) : LNum := lRound [a, b] (mulNum a.1 b.1)
def lDiv (a b : LNum) : LNum := lRound [a, b] (divNum 80 a.1 b.1)
def lRcp (a : LNum) : LNum := lRound [a] (rcpNum a.1)
def lRsqrt (a : LNum) : LNum := lRound [a] (rsqrtNum a.1)
def lSqrt (a : LNum) : LNum := lRound [a] (sqrtNum 80 a.1)
/-- x times 2^k, rounded. -/
def lScale (a : LNum) (k : Int) : LNum := lRound [a] (scaleNum a.1 k)

/-- A value converted to SDX16, and whether that set the latch (R100). -/
def lCode16 (a : LNum) : Nat × Bool :=
  let c := encodeNum fSdx16 .rne a.1
  (c, a.2 || latches [a.1] (decodeNum fSdx16 c))

/- Rule table entries (R277) -/

def rlKind (r : Nat) : Nat := bits r 0 4
def rlBias (r : Nat) : Bool := bit r 4
def rlAvgOn (r : Nat) : Bool := bit r 5
def rlWdOn (r : Nat) : Bool := bit r 6
def rlNsIter (r : Nat) : Nat := bits r 7 4
def rlRefresh (r : Nat) : Nat := bits r 11 8
def rlRootIter (r : Nat) : Nat := bits r 19 4
def rlSched (r : Nat) : Nat := bits r 23 2
def rlLrExp (r : Nat) : Nat := bits r 25 6
def rlGExp (r : Nat) : Int := signed 6 (bits r 31 6)
/-- The SDX32 field at bit lo of a rule table entry. -/
def rlNum (r lo : Nat) : LNum := lOf fSdx32 (bits r lo 32)

/-- An integer as SDX32 (R278). -/
def lInt (n : Nat) : LNum := lK (rd fSdx32 (.fin false n 0))

/-- The constants of a rule entry for one pass (R278). -/
structure RuleK where
  r : Nat
  clip : LNum
  lr : LNum
  c1 : LNum
  c2 : LNum
  deriving DecidableEq, Repr

/-- The schedule multiplier at step n (R278). -/
def schedMul (r n : Nat) : LNum :=
  let warm := bits r 96 32
  let dec := bits r 128 32
  let floor := rlNum r 160
  if rlSched r = 0 then lK oneNum
  else if 0 < warm ∧ n < warm then lDiv (lInt (n + 1)) (lInt warm)
  else if rlSched r = 1 then
    if dec ≤ n then floor
    else lSub (lK oneNum) (lMul (lSub (lK oneNum) floor) (lDiv (lInt (n - warm)) (lInt (dec - warm))))
  else
    let x := lRsqrt (lDiv (lInt (n + 1)) (lInt (max warm 1)))
    (maxNum floor.1 x.1, floor.2 || x.2)

/-- The step constants of a rule entry from the step number, the clip scale and P1, P2 (R278). -/
def ruleK (r n clip p1 p2 : Nat) : RuleK :=
  let one := lK oneNum
  let bias := fun (p lo : Nat) => if rlBias r then lRcp (lSub one (lMul (lOf fSdx32 p) (rlNum r lo))) else one
  { r := r, clip := lOf fSdx32 clip, lr := lMul (rlNum r 64) (schedMul r n), c1 := bias p1 192, c2 := bias p2 224 }

/-- P x BETA rounded: the next bias product (R278, R290). -/
def nextBias (p beta : Nat) : Nat := encodeNum fSdx32 .rne (mulNum (decodeNum fSdx32 p) (decodeNum fSdx32 beta))

/- One element (R279) -/

/-- The live values of an element: gradient, master weight, moments and running average, as codes. -/
structure UeIn where
  g : Nat
  w : Nat
  m1 : Nat
  m2 : Nat
  a : Nat
  deriving DecidableEq, Repr

/-- beta x x + (1 - beta) x y (R279). -/
def lMix (beta x y : LNum) : LNum := lAdd (lMul beta x) (lMul (lSub (lK oneNum) beta) y)

/-- The scaled gradient (R279). -/
def ueGs (k : RuleK) (e : UeIn) : LNum := lScale (lMul (lOf fSdx32 e.g) k.clip) (rlGExp k.r)

/-- The first moment (R279). -/
def ueM (k : RuleK) (e : UeIn) : LNum := lMix (rlNum k.r 192) (lOf fSdx16 e.m1) (ueGs k e)

/-- The second moment (R279). -/
def ueV (k : RuleK) (e : UeIn) : LNum := lMix (rlNum k.r 224) (lOf fSdx16 e.m2) (lMul (ueGs k e) (ueGs k e))

/-- The adaptive direction before weight decay (R279). -/
def ueAdaptive (k : RuleK) (e : UeIn) : LNum :=
  lMul (lMul (ueM k e) k.c1) (lRsqrt (lAdd (lMul (ueV k e) k.c2) (rlNum k.r 256)))

/-- The updated master weight from a direction and a rounding draw: decay, rate and the aligned add (R279, R280). -/
def ueMaster (k : RuleK) (e : UeIn) (dir : LNum) (draw : Nat) : Nat × Bool :=
  let w := lOf fSdx32 e.w
  let d := if rlWdOn k.r then lAdd dir (lMul (rlNum k.r 288) w) else dir
  let u := lMul k.lr d
  let c := encodeNum fSdx32 (.sr draw) (subNum w.1 (scaleNum u.1 (-(rlLrExp k.r : Int))))
  (c, u.2 || latches [w.1, u.1] (decodeNum fSdx32 c))

/-- The running average after the master weight w2 (R279). -/
def ueAvg (k : RuleK) (e : UeIn) (w2 : Nat) : Nat × Bool :=
  if rlAvgOn k.r then
    let x := lMix (rlNum k.r 320) (lOf fSdx32 e.a) (lOf fSdx32 w2)
    (encodeNum fSdx32 .rne x.1, x.2)
  else (e.a, false)

/-- One gradient element's check (R269): non-finite, absurd. -/
def gradChecks (r g : Nat) : Bool × Bool :=
  let x := decodeNum fSdx32 g
  (isNF x, !isNF x && ltNum (decodeNum fSdx32 (bits r 352 32)) (absNum x))

/-- One gradient element's square added to a partial norm in the long sum (R269). -/
def normAdd (acc g : Nat) : Nat :=
  let x := decodeNum fSdx32 g
  if isNF x then acc
  else encodeNum fLong .rne (addNum (decodeNum fLong acc) (rd fLong (mulNum x x)))

/- Panels (R282-R286): a matrix is its list of rows -/

abbrev Mat := List (List LNum)

/-- An r by c matrix of a function. -/
def matOf (r c : Nat) (f : Nat → Nat → LNum) : Mat := (List.range r).map (fun i => (List.range c).map (f i))

def matAt (m : Mat) (i j : Nat) : LNum := (m.getD i []).getD j (lK zeroNum)

def matRows (m : Mat) : Nat := m.length
def matCols (m : Mat) : Nat := (m.headD []).length

def matT (m : Mat) : Mat := matOf (matCols m) (matRows m) (fun i j => matAt m j i)

def matMap (f : LNum → LNum) (m : Mat) : Mat := m.map (fun r => r.map f)

def matZip (f : LNum → LNum → LNum) (a b : Mat) : Mat := List.zipWith (List.zipWith f) a b

/-- A panel-array input: SDX16 by round-to-nearest-even (R284). -/
def lIn16 (a : LNum) : LNum := (decodeNum fSdx16 (lCode16 a).1, (lCode16 a).2)

/-- A dot product of two lists of panel-array inputs: exact products added in ascending order, each addition rounded
(R284). -/
def lDot (xs ys : List LNum) : LNum :=
  (xs.zip ys).foldl (fun acc p => lRound [acc, p.1, p.2] (addNum acc.1 (mulNum p.1.1 p.2.1))) (lK zeroNum)

/-- A matrix product on the panel array (R284). -/
def matMul (a b : Mat) : Mat :=
  let bt := (matT b).map (fun r => r.map lIn16)
  (a.map (fun r => r.map lIn16)).map (fun r => bt.map (lDot r))

/-- Sum of squares in ascending order, each operation rounded (R285). -/
def sumSq (xs : List LNum) : LNum := xs.foldl (fun acc x => lAdd acc (lMul x x)) (lK zeroNum)

/-- The Frobenius norm of a matrix, its elements in row order (R286). -/
def frob (m : Mat) : LNum := lSqrt (sumSq m.flatten)

def matScale (s : LNum) (m : Mat) : Mat := matMap (fun x => lMul s x) m

/-- One Newton-Schulz iteration (R285). -/
def nsIter (r : Nat) (x : Mat) : Mat :=
  let q := matMul x (matT x)
  let b := matZip lAdd (matScale (rlNum r 416) q) (matScale (rlNum r 448) (matMul q q))
  matZip lAdd (matScale (rlNum r 384) x) (matMul b x)

/-- f applied n times. -/
def iter {α : Type} (f : α → α) : Nat → α → α
  | 0, x => x
  | n + 1, x => iter f n (f x)

/-- The Newton-Schulz direction of a panel of first moments, their order of summation given (R285). -/
def nsDir (k : RuleK) (m : Mat) (order : List LNum) : Mat :=
  let x := matScale (lRsqrt (lAdd (sumSq order) (rlNum k.r 256))) m
  let t := matCols m < matRows m
  let x := if t then matT x else x
  let x := iter (nsIter k.r) (rlNsIter k.r) x
  let x := if t then matT x else x
  let ratio := lDiv (lInt (matRows m)) (lInt (matCols m))
  matScale (lSqrt (maxNum oneNum ratio.1, ratio.2)) x

/-- The inverse fourth root of R286. -/
def invRoot4 (r : Nat) (z : Mat) : Mat :=
  let n := matRows z
  let f := frob z
  let x0 := matOf n n (fun i j => if i = j then lRsqrt (lSqrt f) else lK zeroNum)
  let y0 := matScale (lRcp f) z
  let five := lInt 5
  (iter (fun (p : Mat × Mat) =>
    let t := matOf n n (fun i j =>
      lMul (lSub (if i = j then five else lK zeroNum) (matAt p.2 i j)) (lK (.fin false 1 (-2))))
    (matMul p.1 t, matMul (matMul (matMul (matMul t t) t) t) p.2)) (rlRootIter r) (x0, y0)).1

/-- The four factor matrices of a panel (R286). -/
structure Factors where
  l : Mat
  rt : Mat
  pl : Mat
  pc : Mat
  deriving DecidableEq, Repr

/-- The factors after a pass, from those before it and the panel of scaled gradients; `fresh` where the refresh interval
falls due (R286). -/
def nextFactors (r : Nat) (fresh : Bool) (f : Factors) (g : Mat) : Factors :=
  let damp := fun (m : Mat) => matOf (matRows m) (matRows m)
    (fun i j => if i = j then lAdd (matAt m i j) (rlNum r 480) else matAt m i j)
  let l := matZip (lMix (rlNum r 224)) f.l (matMul g (matT g))
  let rt := matZip (lMix (rlNum r 224)) f.rt (matMul (matT g) g)
  { l := l, rt := rt, pl := if fresh then invRoot4 r (damp l) else f.pl, pc := if fresh then invRoot4 r (damp rt) else f.pc }

/-- The Kronecker direction of a panel (R286). -/
def kronDir (k : RuleK) (f : Factors) (m d : Mat) : Mat :=
  let kk := matMul (matMul f.pl m) f.pc
  matScale (lDiv (frob d) (lAdd (frob kk) (rlNum k.r 256))) kk

end Sys2Proof.Machine
end

