-- ==== Sys2Proof/Machine/Update.lean ====
section
/-!
DEFINITION. Machine/Update.lean: the Update Engines (09, R258-R293): the update order, shard passes and the loft.
-/
namespace Sys2Proof.Machine

/- Shard descriptors (R263) -/

def sdToken (s : Nat) : Nat := bits s 0 14
def sdRule (s : Nat) : Nat := bits s 16 8
def sdRegion (s : Nat) : Nat := bits s 24 8
def sdCount (s : Nat) : Nat := bits s 32 32
def sdSeq0 (s : Nat) : Nat := bits s 64 32
def sdGrad (s : Nat) : Nat := bits s 206 22
def sdCoord (s : Nat) : Nat := bits s 228 22
def sdSpanel (s : Nat) : Bool := bit s 250
def sdNorm (s : Nat) : Bool := bit s 251
def sdSfmtG (s : Nat) : Bool := bit s 252
def sdSpack (s : Nat) : Bool := bit s 253
def sdPR (s : Nat) : Nat := bits s 256 8 + 1
def sdPC (s : Nat) : Nat := bits s 264 8 + 1

/-- First chunk of the array with ordinal a: 0 MASTER, 1 MOM1, 2 MOM2, 3 AVG, 4 SERVE, 5 SHDR, 6 FACTOR (R263, R315). -/
def sdChunk (s a : Nat) : Nat :=
  match a with
  | 0 => bits s 96 22
  | 1 => bits s 118 22
  | 2 => bits s 140 22
  | 3 => bits s 162 22
  | 4 => bits s 184 22
  | 5 => bits s 272 22
  | _ => bits s 294 22

/-- Module-local address of byte ofs of an array that starts at chunk id c (R263). -/
def chunkAddr (c ofs : Nat) : Nat := cellarAddr (c / 32768) (c % 32768 * chunkSize + ofs)

/-- The rule entry of the rule table of the module (R277): every Update Engine holds the same table; tile t's copy is read. -/
def ruleEntry (d : Dev) (t n : Nat) : Nat := getWords d (UE_RULE t n 0) 16

/-- The kind of rule a shard runs: the adaptive rule for a sparse shard with SPANEL 0 (R283). Such a shard is one whose serving copy
lies in gloss records, or that names a coordinate array (DEDUCED, log 99). -/
def shardKind (s r : Nat) : Nat := if !sdSpanel s && (sdSpack s || sdCoord s != 0) then 0 else rlKind r

/-- Panels of a shard: those of a dense one, or one more than the last element's panel number (R282, R283). -/
def panelElems (s : Nat) : Nat := sdPR s * sdPC s

/-- Bytes of array a of a shard (R263, R272, R276, R286); n panels. -/
def arrayBytes (s r a n : Nat) : Nat :=
  match a with
  | 0 | 3 => 4 * sdCount s
  | 1 | 2 => 2 * sdCount s
  | 4 => if sdSpack s then 512 * ceilDiv (sdCount s) 128 else sdCount s
  | 5 => if sdSpack s then 0 else 2 * ceilDiv (sdCount s) 32
  | _ => if shardKind s r = 2 then n * (4 * (sdPR s * sdPR s + sdPC s * sdPC s)) else 0

/-- Rows of an array: every row of each of its chunks (R273). -/
def arrayRows (s r a n : Nat) : Nat := ceilDiv (arrayBytes s r a n) chunkSize * (chunkSize / 128)

/- Reading without effect -/

/-- The Update Engine of the module's foreground context as a requester (R251, R254). -/
def ueSrc (d : Dev) : Src :=
  let c := d.res.fg.getD 0
  { tag := ctxBits d c 8 8, ue := true, ctx := c }

/-- The router reads from, or writes to, agent 62 of the controller of stack n in some slot of the sentence (R254, R259). -/
def sideSlot (d : Dev) (n : Nat) (write : Bool) : Bool :=
  getB d (SLOT_CTL (n / 2)) SLOT_CTL_ENABLE && (List.range (slotPeriod d (n / 2))).any (fun i =>
    let e := portEntry d (384 + n) i
    if write then bits e 0 7 == 126 else bits e 8 7 == 126)

/-- Whether agent 62 has a slot for every row of a list and for the row written, if there is one (R254, R259). -/
def sideOpen (d : Dev) (reads : List Nat) (w : Nat) : Bool :=
  ((reads.map (· / stackSize)).eraseDups).all (fun n => sideSlot d n false) && sideSlot d (w / stackSize) true

/-- The row at a module-local address as the Update Engine would read it; +0 where nothing answers. -/
def ueRow (d : Dev) (a : Nat) : FRow := ((unitRead d a (ueSrc d)).1).getD {}

/-- Element i, of w bytes, of the array at chunk id c, from the readable copy. -/
def ueElem (d : Dev) (c w i : Nat) : Nat := bits (ueRow d (chunkAddr c (w * i / 128 * 128))).data.toNat (8 * (w * i % 128)) (8 * w)

/-- The row at byte ofs of array a as this pass has written it: the loft copy of its mapped chunk (R272, R281). -/
def loftRow (d : Dev) (c ofs : Nat) : Nat :=
  let n := c / 32768
  let ch := c % 32768 + ofs / chunkSize
  let a := chunkAddr c ofs
  ccCrypt d true (chunkTag d n ch) a (readMem d (cellarAddr n (meLoft (mapEntry d n ch) * chunkSize + ofs % chunkSize)) 128)

/-- Panels of a shard. -/
def shardPanels (d : Dev) (s : Nat) : Nat :=
  if sdCount s = 0 then 0
  else if sdSpanel s then bits (ueElem d (sdCoord s) 4 (sdCount s - 1)) 0 16 + 1
  else ceilDiv (sdCount s) (panelElems s)

/-- Live values of element i (R279). -/
def ueIn (d : Dev) (s i : Nat) : UeIn :=
  { g := ueElem d (sdGrad s) 4 i, w := ueElem d (sdChunk s 0) 4 i, m1 := ueElem d (sdChunk s 1) 2 i,
    m2 := ueElem d (sdChunk s 2) 2 i, a := ueElem d (sdChunk s 3) 4 i }

/- Panels -/

/-- Panel, row and column of element i (R282, R283). -/
def elemPlace (d : Dev) (s i : Nat) : Nat × Nat × Nat :=
  if sdSpanel s then
    let w := ueElem d (sdCoord s) 4 i
    (bits w 0 16, bits w 16 8, bits w 24 8)
  else
    let k := i % panelElems s
    let cg := max (sdPC s / 16) 1
    let j := k / 128; let e := k % 128
    (i / panelElems s, 8 * (j / cg) + e / 16, 16 * (j % cg) + e % 16)

/-- The elements of panel p, ascending, with their places. -/
def panelList (d : Dev) (s p : Nat) : List (Nat × Nat × Nat) :=
  let all := if sdSpanel s then List.range (sdCount s)
    else (List.range (panelElems s)).map (fun k => p * panelElems s + k)
  (all.filter (fun i => decide (i < sdCount s) && (elemPlace d s i).1 == p)).map (fun i => (i, (elemPlace d s i).2))

/-- A panel of one value per element, +0 elsewhere (R283). -/
def densify (s : Nat) (els : List (Nat × Nat × Nat)) (f : Nat → LNum) : Mat :=
  matOf (sdPR s) (sdPC s) (fun r c =>
    match els.find? (fun e => e.2.1 == r && e.2.2 == c) with
    | some e => f e.1
    | none => lK zeroNum)

/-- A matrix of the factor area of panel p, which starts at its element ofs (R286). -/
def factorMat (d : Dev) (s p ofs n : Nat) : Mat :=
  let base := p * (2 * (sdPR s * sdPR s + sdPC s * sdPC s)) + ofs
  matOf n n (fun i j => lOf fSdx16 (ueElem d (sdChunk s 6) 2 (base + n * i + j)))

/-- The factors of panel p as stored (R286). -/
def oldFactors (d : Dev) (s p : Nat) : Factors :=
  let a := sdPR s * sdPR s; let b := sdPC s * sdPC s
  { l := factorMat d s p 0 (sdPR s), rt := factorMat d s p a (sdPC s),
    pl := factorMat d s p (a + b) (sdPR s), pc := factorMat d s p (2 * a + b) (sdPC s) }

/-- Whether a refresh falls due: A + 1 is a multiple of REFRESH (R286). -/
def refreshDue (d : Dev) (r : Nat) : Bool := (get64 d STEP_APPLIED_LO STEP_APPLIED_HI + 1) % rlRefresh r == 0

/-- The factors of panel p after the pass. -/
def newFactors (d : Dev) (s p : Nat) (k : RuleK) : Factors :=
  let els := panelList d s p
  nextFactors k.r (refreshDue d k.r) (oldFactors d s p) (densify s els (fun i => ueGs k (ueIn d s i)))

/-- The directions of a panel's elements under a panel rule (R285, R286). -/
def panelDirs (d : Dev) (s p : Nat) (k : RuleK) : List (Nat × LNum) :=
  let els := panelList d s p
  let m := densify s els (fun i => ueM k (ueIn d s i))
  let dir :=
    if rlKind k.r = 1 then nsDir k m (els.map (fun e => ueM k (ueIn d s e.1)))
    else kronDir k (newFactors d s p k) m (densify s els (fun i => ueAdaptive k (ueIn d s i)))
  els.map (fun e => (e.1, matAt dir e.2.1 e.2.2))

/-- The directions of elements lo to hi - 1 before weight decay (R279, R285, R286). -/
def shardDirs (d : Dev) (s lo hi : Nat) (k : RuleK) : List LNum :=
  let is := (List.range (hi - lo)).map (· + lo)
  if shardKind s k.r = 0 then is.map (fun i => ueAdaptive k (ueIn d s i))
  else
    let ps := (is.map (fun i => (elemPlace d s i).1)).eraseDups
    let dirs := ps.flatMap (fun p => panelDirs d s p k)
    is.map (fun i => match dirs.find? (fun x => x.1 == i) with
      | some x => x.2
      | none => lK zeroNum)

/- The state of the engines -/

def ueSt (d : Dev) (t : Nat) : UeSt := d.upd.ues.get t {}

def setUe (d : Dev) (t : Nat) (u : UeSt) : Dev := { d with upd := { d.upd with ues := d.upd.ues.put t u {} } }

def modUe (d : Dev) (t : Nat) (f : UeSt → UeSt) : Dev := setUe d t (f (ueSt d t))

/-- The shard the engine of tile t is at (R266). -/
def curShard (d : Dev) (t : Nat) : Nat := (d.upd.order.get (t * 1024 + getF d (UE_ORDER t) UE_ORDER_POS) 0).toNat

/-- P1 and P2 of rule n, 1.0 where unlisted (R278). -/
def biasOf (d : Dev) (n : Nat) : Nat × Nat :=
  let b := (d.upd.bias.get n 0x3FC000003FC00000).toNat
  (bits b 0 32, bits b 32 32)

/-- The constants of the shard's rule for this pass (R278). -/
def shardK (d : Dev) (t s : Nat) : RuleK :=
  let b := biasOf d (sdRule s)
  ruleK (ruleEntry d t (sdRule s)) (stepNo d) d.upd.clip.toNat b.1 b.2

/-- A pass starts on tile t at shard 0, or goes on to the next shard: the engine waits for the token, begins at once in a
pass without token waits, or has completed its pass (R266, R291, R322). -/
def ueNext (d : Dev) (t pos : Nat) : Dev :=
  let d1 := setF d (UE_ORDER t) UE_ORDER_POS pos
  if getF d1 (UE_ORDER t) UE_ORDER_LEN ≤ pos then setF d1 (UE_STATUS t) UE_STATUS_STATE 3
  else if d.upd.wait then
    let tok := sdToken (curShard d1 t)
    let d2 := setF d1 (UE_STATUS t) UE_STATUS_STATE 1
    if objReached d2 tok then d2 else addWaiter d2 tok (320 + t)
  else setF d1 (UE_STATUS t) UE_STATUS_STATE 2

/-- Every wait entry of the engine of tile t dropped. -/
def ueUnwait (d : Dev) (t : Nat) : Dev :=
  (d.waits.filter (fun w => w.2 == 320 + t)).foldl (fun d w => dropWaiter d w.1 w.2) d

/-- The update pass begins on every engine in service (R266, R291); a RECLIP pass uses a clip scale. -/
def passBegin (d : Dev) (clip : BitVec 32) (wait reclip : Bool) : Dev :=
  let d0 := { d with upd := { d.upd with clip := clip, wait := wait } }
  (List.range 64).foldl (fun d t =>
    if baseLost d t then d
    else
      let u := ueSt d t
      let u1 : UeSt := { nf := u.nf, absurd := u.absurd }
      ueNext (setB (setUe (ueUnwait d t) t u1) (UE_STATUS t) UE_STATUS_RECLIP_PASS reclip) t 0) d0

/-- No pass is under way on any engine, RECLIP or other: a shard begun is given up (R293). -/
def uesIdle (d : Dev) : Dev :=
  (List.range 64).foldl (fun d t =>
    if baseLost d t then d
    else setB (setF (modUe (ueUnwait d t) t (fun u => { u with busy := false })) (UE_STATUS t) UE_STATUS_STATE 0)
      (UE_STATUS t) UE_STATUS_RECLIP_PASS false) d

/-- The engines' two latches cleared (R100, R291). -/
def clearUeLatches (d : Dev) : Dev :=
  (List.range 64).foldl (fun d t => modUe d t (fun u => { u with nf := false, absurd := false })) d

/-- The pass of the engine of tile t ends at once in RERUN (R266, R268). -/
def ueEnd (d : Dev) (t : Nat) : Dev :=
  setF (modUe d t (fun u => { u with busy := false, failed := true })) (UE_STATUS t) UE_STATUS_STATE 3

/-- A record of class UE (R267, R453). -/
def ueEv (d : Dev) (t : Nat) (sc : Scope) : Ev :=
  { cls := 0x21, kind := 2, unit := t, ctx := d.res.fg.getD 0, oper := getF d (UE_ORDER t) UE_ORDER_POS,
    addr := sdChunk (curShard d t) 0, scope := sc }

/-- A shard pass of tile t is interrupted (R266, R267): it is redone from its first element, and after three tries the
pass ends in an update-scope RERUN. -/
def ueInterrupt (d : Dev) (t : Nat) (f : Option Fld) : Dev :=
  let d0 := match f with
    | some f => setB d (UE_FAULT t) f true
    | none => d
  let n := (ueSt d0 t).tries + 1
  let d1 := setF d0 (UE_RETRY t) UE_RETRY_COUNT (satInc 16 (getF d0 (UE_RETRY t) UE_RETRY_COUNT))
  if n < 3 then
    modUe (report d1 (ueEv d1 t .none)) t (fun u => { u with tries := n, rows := [], norm := 0, dig := 0 })
  else
    ueEnd (setB (report d1 (ueEv d1 t .update)) (UE_FAULT t) UE_FAULT_ORDER true) t

/-- What a row the engine reads holds: live state, the reduced gradient, or coordinates. -/
inductive UeRd
  | live
  | grad
  | coord
  deriving DecidableEq, Repr

/-- A row the engine reads for its values: refused, or a poisoned row of the coordinates, it interrupts the shard (R267); poisoned
state or gradient ends the pass (R268). True where the engine may go on. -/
def ueCheck (d : Dev) (t a : Nat) (k : UeRd) : Bool × Dev :=
  let r := unitRead d a (ueSrc d)
  match r.1 with
  | none => (false, ueInterrupt r.2 t (some UE_FAULT_SIDE))
  | some row =>
    if !row.poison then (true, r.2)
    else if k = .coord then (false, ueInterrupt r.2 t (some UE_FAULT_SIDE))
    else if k = .grad then
      let d1 := setB r.2 (UE_FAULT t) UE_FAULT_GRAD_POISON true
      (false, ueEnd (raiseRerun d1 .step) t)
    else
      let d1 := setB r.2 (UE_FAULT t) UE_FAULT_STATE_POISON true
      let e : Ev := { cls := 0x13, kind := 3, unit := a / stackSize, sub := bits a 7 6, ctx := d.res.fg.getD 0,
                      addr := a, scope := .step }
      (false, ueEnd (report d1 e) t)

/-- Rows checked in turn; stops at the first that stops the engine. -/
def ueChecks (t : Nat) : List (Nat × UeRd) → Dev → Bool × Dev
  | [], d => (true, d)
  | x :: xs, d =>
    let r := ueCheck d t x.1 x.2
    if r.1 then ueChecks t xs r.2 else r

/- The rows of the loft -/

/-- Elements of a row with n elements: those below COUNT computed, the rest copied from the live row (R273; log 21). -/
def fillRow (w n lo cnt old : Nat) (vals : List Nat) : Nat :=
  packElems w ((List.range n).map (fun j => if lo + j < cnt then vals.getD j 0 else elemAt old w j))

/-- The draw of element i's update add (R94, R280). -/
def ueDraw (d : Dev) (s i : Nat) : Nat :=
  srDraw { seed := ctxBits d (d.res.fg.getD 0) 64 64, step := stepNo d, use := 2, region := sdRegion s, rpos := 0,
           seq := sdSeq0 s + i / 2 ^ 20 } (i % 2 ^ 20)

/-- The master weights of the elements of a row, and whether an element's operations set the latch (R279, R280). -/
def masterVals (d : Dev) (s lo hi : Nat) (k : RuleK) : List (Nat × Bool) :=
  (List.zip ((List.range (hi - lo)).map (· + lo)) (shardDirs d s lo hi k)).map (fun x =>
    let e := ueIn d s x.1
    let w := ueMaster k e x.2 (ueDraw d s x.1)
    let a := ueAvg k e w.1
    let m := lCode16 (ueM k e)
    let v := lCode16 (ueV k e)
    (w.1, w.2 || a.2 || m.2 || (shardKind s k.r != 1 && v.2)))

/-- The final master values of the serving block b, and whether any element of it belongs to the shard (R281; log 21). -/
def blockVals (d : Dev) (s b : Nat) : List Num :=
  let v := loftRow d (sdChunk s 0) (128 * b)
  (List.range 32).map (fun j => decodeNum fSdx32 (elemAt v 32 j))

/-- The header and the codes of serving block b (R281). -/
def serveBlock (d : Dev) (s b : Nat) : Nat × List Nat :=
  let vs := blockVals d s b
  let h := scanHdr (sdSfmtG s) vs
  (h, encodeBlock (sdSfmtG s) h (vs.map (fun v => (Rnd.rne, v))))

/-- The 128 serving codes from element lo; blocks past COUNT are those of the live row. -/
def serveRow (d : Dev) (s lo old : Nat) : Nat :=
  packElems 8 ((List.range 4).flatMap (fun k =>
    if lo + 32 * k < sdCount s then (serveBlock d s (lo / 32 + k)).2
    else (List.range 32).map (fun j => elemAt old 8 (32 * k + j))))

/-- Element q of a shard's factor area as the pass writes it, and whether writing it sets the latch; none past the last panel (R100,
R286). -/
def factorCell (d : Dev) (s : Nat) (k : RuleK) (q : Nat) : Option (Nat × Bool) :=
  let a := sdPR s * sdPR s; let b := sdPC s * sdPC s
  let per := 2 * (a + b)
  if shardPanels d s ≤ q / per then none
  else
    let f := newFactors d s (q / per) k
    let o := q % per
    let code := fun (m : Mat) (n i : Nat) => lCode16 (matAt m (i / n) (i % n))
    some (if o < a then code f.l (sdPR s) o
      else if o < a + b then code f.rt (sdPC s) (o - a)
      else if o < 2 * a + b then code f.pl (sdPR s) (o - a - b)
      else code f.pc (sdPC s) (o - 2 * a - b))

/-- Row r of array a of a shard as the pass writes it, old being the live row (R272, R273, R276, R279-R286). -/
def loftData (d : Dev) (s a r old : Nat) (k : RuleK) : Nat :=
  let cnt := sdCount s
  match a with
  | 0 => fillRow 32 32 (32 * r) cnt old ((masterVals d s (32 * r) (min (32 * r + 32) cnt) k).map (·.1))
  | 1 => fillRow 16 64 (64 * r) cnt old
      ((List.range (min (64 * r + 64) cnt - 64 * r)).map (fun j => (lCode16 (ueM k (ueIn d s (64 * r + j)))).1))
  | 2 => if shardKind s k.r = 1 then old
    else fillRow 16 64 (64 * r) cnt old
      ((List.range (min (64 * r + 64) cnt - 64 * r)).map (fun j => (lCode16 (ueV k (ueIn d s (64 * r + j)))).1))
  | 3 =>
    let w := loftRow d (sdChunk s 0) (128 * r)
    fillRow 32 32 (32 * r) cnt old
      ((List.range 32).map (fun j => (ueAvg k (ueIn d s (32 * r + j)) (elemAt w 32 j)).1))
  | 4 =>
    if !sdSpack s then (if 128 * r < cnt then serveRow d s (128 * r) old else old)
    else if cnt ≤ 128 * (r / 4) then old
    else if r % 4 = 0 then
      (List.range 4).foldl (fun v j =>
        if 128 * (r / 4) + 32 * j < cnt then insBits v (256 + 16 * j) 16 (serveBlock d s (4 * (r / 4) + j)).1 else v) old
    else if r % 4 = 3 then serveRow d s (128 * (r / 4)) old
    else old
  | 5 =>
    packElems 16 ((List.range 64).map (fun j =>
      if 32 * (64 * r + j) < cnt then (serveBlock d s (64 * r + j)).1 else elemAt old 16 j))
  | _ => packElems 16 ((List.range 64).map (fun j => ((factorCell d s k (64 * r + j)).map (·.1)).getD (elemAt old 16 j)))

/-- Rows whose values row r of array a needs, with what they hold: every source row once, in the row
of MASTER that covers it, and the live row itself where the pass copies some of it (R268, R273). -/
def loftReads (s a r : Nat) (kind : Nat) : List (Nat × UeRd) :=
  let here := chunkAddr (sdChunk s a) (128 * r)
  match a with
  | 0 =>
    if 32 * r < sdCount s then
      [(chunkAddr (sdGrad s) (128 * r), .grad), (here, .live), (chunkAddr (sdChunk s 3) (128 * r), .live)] ++
        (if sdSpanel s then [(chunkAddr (sdCoord s) (128 * r), .coord)] else []) ++
        (if r % 2 = 0 then [(chunkAddr (sdChunk s 1) (64 * r), .live), (chunkAddr (sdChunk s 2) (64 * r), .live)] else [])
    else [(here, .live)]
  | 1 => if 64 * r + 64 ≤ sdCount s then [] else [(here, .live)]
  | 2 => if 64 * r + 64 ≤ sdCount s ∧ kind ≠ 1 then [] else [(here, .live)]
  | 3 => if 32 * r + 32 ≤ sdCount s then [] else [(here, .live)]
  | 4 => if sdSpack s then [(here, .live)] else if 128 * r + 128 ≤ sdCount s then [] else [(here, .live)]
  | 5 => if 2048 * r + 2048 ≤ sdCount s then [] else [(here, .live)]
  | _ => [(here, .live)]

/-- Rows of MASTER that must have been written before row r of array a (R281). -/
def masterNeeded (s a r : Nat) : Nat :=
  let last := ceilDiv (sdCount s) 32
  match a with
  | 0 => 0
  | 1 | 2 => min (2 * r + 2) last
  | 3 => min (r + 1) last
  | 4 => min (if sdSpack s then 4 * (r / 4) + 4 else 4 * r + 4) last
  | 5 => min (64 * r + 64) last
  | _ => 0

/-- Writing row r of array a sets the engine's non-finite latch (R100, R269): gs are the gradient elements it reads, data is the row. -/
def loftLatch (d : Dev) (s a r : Nat) (k : RuleK) (gs : List Nat) (data : Nat) : Bool :=
  gs.any (fun g => (gradChecks k.r g).1) ||
    (a == 0 && (masterVals d s (32 * r) (min (32 * r + 32) (sdCount s)) k).any (·.2)) ||
    (a == 4 && sdSfmtG s && (List.range 128).any (fun j => elemAt data 8 j == 0x80 && (!sdSpack s || r % 4 == 3))) ||
    (a == 6 && (List.range 64).any (fun j => (factorCell d s k (64 * r + j)).any (·.2)))

/-- The engine of tile t writes the next row of array a of its shard (R259, R272, R315): false where it does not, which it does not
without slots of agent 62 for the rows it moves. -/
def loftWrite (d : Dev) (t a : Nat) : Bool × Dev :=
  let u := ueSt d t
  let s := curShard d t
  let k := shardK d t s
  let kind := shardKind s k.r
  let r := u.rows.get a 0
  if !u.busy ∨ 6 < a ∨ arrayRows s k.r a (shardPanels d s) ≤ r ∨ u.rows.get 0 0 < masterNeeded s a r ∨
      !sideOpen d ((loftReads s a r kind).map (·.1)) (chunkAddr (sdChunk s a) (128 * r)) then (false, d)
  else
    let c := ueChecks t (loftReads s a r kind) d
    if !c.1 then c
    else
      let d1 := c.2
      let addr := chunkAddr (sdChunk s a) (128 * r)
      let data := BitVec.ofNat 1024 (loftData d1 s a r (ueRow d1 addr).data.toNat k)
      let lo := 32 * r
      let hi := min (lo + 32) (sdCount s)
      let gs := if a = 0 then (List.range (hi - lo)).map (fun j => ueElem d1 (sdGrad s) 4 (lo + j)) else []
      let norm := gs.foldl normAdd u.norm.toNat
      let nf := loftLatch d1 s a r k gs data.toNat || (sdNorm s && isNF (decodeNum fLong norm) && !isNF (decodeNum fLong u.norm.toNat))
      let ab := gs.any (fun g => (gradChecks k.r g).2)
      let w := unitWrite d1 addr { data := data } (ueSrc d1)
      if !w.1 then (false, ueInterrupt w.2 t (some UE_FAULT_SIDE))
      else
        let dg := crc64 (bytesOf 8 ((16 * getF d (UE_ORDER t) UE_ORDER_POS + a) * 2 ^ 40 + r) ++ bytesOf 128 data.toNat)
        let d2 := set64 w.2 (UE_ROWS_LO t) (UE_ROWS_HI t) (get64 w.2 (UE_ROWS_LO t) (UE_ROWS_HI t) + 1)
        (true, modUe d2 t (fun u =>
          { u with rows := u.rows.put a (r + 1) 0, nf := u.nf || nf, absurd := u.absurd || ab,
                   dig := u.dig + BitVec.ofNat 64 dg,
                   norm := if sdNorm s then BitVec.ofNat 48 norm else u.norm }))

/-- Up to n further rows of array a, stopping where the engine stops. -/
def loftWrites (t a : Nat) : Nat → Dev → Dev
  | 0, d => d
  | n + 1, d =>
    let r := loftWrite d t a
    if r.1 then loftWrites t a n r.2 else r.2

/- The engine's commands -/

/-- The engine of tile t is in service and its pass is at a shard not yet under way. -/
def ueReady (d : Dev) (t : Nat) : Bool :=
  let st := getF d (UE_STATUS t) UE_STATUS_STATE
  decide (t < 64) && !baseLost d t && !(ueSt d t).busy && (st == 1 || st == 2) &&
    decide (getF d (UE_ORDER t) UE_ORDER_POS < getF d (UE_ORDER t) UE_ORDER_LEN)

/-- UE_SHARD_START (R266): the next shard of tile t's update order starts, its token having reached its target or the pass
waiting for none. -/
def ueShardStart (t : Nat) (d : Dev) : Dev :=
  let tok := sdToken (curShard d t)
  if ueReady d t && (!d.upd.wait || objReached d tok) then
    let d1 := setF (ueUnwait d t) (UE_STATUS t) UE_STATUS_STATE 2
    modUe d1 t (fun u => { u with busy := true, rows := [], norm := 0, dig := 0 })
  else d

/-- UE_LOFT_WRITE (R268, R272, R279-R286): the engine of tile t writes the next n rows of array a of its shard. -/
def ueLoftWrite (t a n : Nat) (d : Dev) : Dev := if 64 ≤ t ∨ baseLost d t then d else loftWrites t a n d

/-- UE_SHARD_DONE (R266, R273): every row of every mapped array of the shard has been written; its partial norm and its
digest are folded in and the engine goes on. -/
def ueShardDone (t : Nat) (d : Dev) : Dev :=
  let u := ueSt d t
  let s := curShard d t
  let r := ruleEntry d t (sdRule s)
  let n := shardPanels d s
  if 64 ≤ t ∨ !u.busy ∨ (List.range 7).any (fun a => u.rows.get a 0 != arrayRows s r a n) then d
  else
    let d1 := modUe d t (fun u =>
      { u with busy := false, tries := 0, norms := u.norms ++ (if sdNorm s then [u.norm] else []), passDig := u.passDig + u.dig })
    ueNext d1 t (getF d (UE_ORDER t) UE_ORDER_POS + 1)

/-- UE_SHARD_INTERRUPT (R267): an internal parity error of the engine interrupts the shard under way. -/
def ueShardInterrupt (t : Nat) (d : Dev) : Dev :=
  if t < 64 ∧ (ueSt d t).busy then ueInterrupt d t (some UE_FAULT_PARITY) else d

/-- Every engine in service has completed its pass (R289). -/
def passDone (d : Dev) : Bool :=
  (List.range 64).all (fun t => baseLost d t || getF d (UE_STATUS t) UE_STATUS_STATE == 3)

/-- The module's norm partial: the shards' partials folded in the long sum by tile and update order, then SDX32 (R269;
log 22). -/
def moduleNorm (d : Dev) : Nat :=
  let all := (List.range 64).flatMap (fun t => if baseLost d t then [] else (ueSt d t).norms)
  let s := all.foldl (fun acc x => encodeNum fLong .rne (addNum (decodeNum fLong acc) (decodeNum fLong x.toNat))) 0
  encodeNum fSdx32 .rne (decodeNum fLong s)

/-- Some engine's latch is set (R100, R269). -/
def ueLatched (d : Dev) : Bool := (List.range 64).any (fun t => (ueSt d t).nf || (ueSt d t).absurd)

/-- Some engine's pass ended early (R266, R268). -/
def ueFailed (d : Dev) : Bool := (List.range 64).any (fun t => (ueSt d t).failed)

/-- P1 and P2 of every rule entry advance, at COMMIT (R278, R290). -/
def advanceBias (d : Dev) : Dev :=
  (List.range 256).foldl (fun d n =>
    let r := ruleEntry d 0 n
    if r = 0 then d
    else
      let b := biasOf d n
      let v := nextBias b.1 (bits r 192 32) + nextBias b.2 (bits r 224 32) <<< 32
      { d with upd := { d.upd with bias := d.upd.bias.put n (BitVec.ofNat 64 v) 0x3FC000003FC00000 } }) d

/-- P1 and P2 recomputed from STEP_APPLIED, when a job is loaded (R278). -/
def recomputeBias (d : Dev) : Dev :=
  iter advanceBias (get64 d STEP_APPLIED_LO STEP_APPLIED_HI) { d with upd := { d.upd with bias := [] } }

end Sys2Proof.Machine
end

