-- ==== Sys2Proof/Machine/Reduce.lean ====
section
/-!
DEFINITION. Machine/Reduce.lean: the reduce-exchange units (R297-R306) and the verdict reduction (R307-R318).
-/
namespace Sys2Proof.Machine

/- Job geometry (R297) -/

/-- Members of ring a, less one. -/
def ringM1 (d : Dev) (a : Nat) : Nat :=
  if a = 0 then getF d JOB_SIZE_0 JOB_SIZE_0_NX_M1
  else if a = 1 then getF d JOB_SIZE_0 JOB_SIZE_0_NY_M1 else getF d JOB_SIZE_1 JOB_SIZE_1_NZ_M1

/-- The module's position on ring a. -/
def myPos (d : Dev) (a : Nat) : Nat :=
  if a = 0 then getF d JOB_POS_0 JOB_POS_0_X else if a = 1 then getF d JOB_POS_0 JOB_POS_0_Y else getF d JOB_POS_1 JOB_POS_1_Z

/-- The module at position i of ring a. -/
def ringMod (d : Dev) (a i : Nat) : Nat :=
  if ringM1 d a = 0 then myMod d else bits (getR d (JOB_RING a (i / 2))) (16 * (i % 2)) 16

/-- The ring that port p's axis names, none for the service group (R24, R341). -/
def portAxis (p : Nat) : Option Nat := if p < 24 then some (p / 8) else none

/- Collective descriptors (R298) -/

def rdxDesc (d : Dev) (k n : Nat) : Nat := getWords d (RDX_DESC k n 0) 16
def cdOp (x : Nat) : Nat := bits x 0 2
def cdPort (x : Nat) : Nat := bits x 2 1
def cdStart (x : Nat) : Nat := bits x 16 14
def cdDone (x : Nat) : Nat := bits x 32 14
def cdSrc (x : Nat) : Nat := bits x 64 48
def cdDst (x : Nat) : Nat := bits x 128 48
def cdCount (x : Nat) : Nat := bits x 192 32

def rdxCur (d : Dev) (k : Nat) : Nat := getF d (RDX_STATUS k) RDX_STATUS_CUR
def curDesc (d : Dev) (k : Nat) : Nat := rdxDesc d k (rdxCur d k)

/-- First row and number of rows of segment i of a descriptor of COUNT rows on a ring of n (R299). -/
def segment (count n i : Nat) : Nat × Nat :=
  let s := ceilDiv count n
  (i * s, min ((i + 1) * s) count - i * s)

/-- The collective queue of die k at descriptor n. -/
def rdxAt (d : Dev) (k n : Nat) : Dev :=
  queueAt (modEng d k 0 (fun _ => {})) (RDX_STATUS k) (RDX_QLEN k) RDX_STATUS_STATE RDX_STATUS_CUR RDX_QLEN_LEN n

/-- A fault bit of an RDX, for the foreground (R136, R327). -/
def rdxFault (d : Dev) (k : Nat) (f : Fld) : Dev := setB d (RDX_FAULT k) f true

/-- RDX_DESC_START (R298): the next descriptor of die k's queue starts once its START object has reached its target. A die
whose port on the axis is lost cannot run it, and the step ends in RERUN. DESIGN CHOICE (log 104): so it is in a ring of one too, where R6
and R299 have the collective complete. -/
def rdxDescStart (k : Nat) (d : Dev) : Dev :=
  let x := curDesc d k
  if 16 ≤ k ∨ fenced d ∨ getF d (RDX_STATUS k) RDX_STATUS_STATE ≠ 1 then d
  else if (edge d k).lost then raiseRerun d .step
  else if !objReached d (cdStart x) then d
  else if gpState d (k + 16 * cdPort x) = 4 then raiseRerun d .step
  else
    let e : Eng := { busy := true }
    modEng (setF d (RDX_STATUS k) RDX_STATUS_STATE 2) k 0 (fun _ => e)

/-- The ring of the running descriptor: axis, ring size and own position. -/
def ringOf (d : Dev) (k : Nat) : Nat × Nat × Nat :=
  let a := (portAxis (k + 16 * cdPort (curDesc d k))).getD 0
  (a, ringM1 d a + 1, myPos d a)

/-- Rows of segment i at a base address. -/
def segRows (d : Dev) (k base i : Nat) : List FRow × Dev :=
  let r := ringOf d k
  let s := segment (cdCount (curDesc d k)) r.2.1 i
  engReads k (base + 128 * s.1) s.2 d

/-- Rows written to segment i of DST; a refused row keeps DONE from being sent (R301). -/
def putSeg (d : Dev) (k i : Nat) (rows : List FRow) : Dev :=
  let x := curDesc d k
  let s := segment (cdCount x) (ringOf d k).2.1 i
  let w := engWrites k (cdDst x + 128 * s.1) (rows.take s.2) d
  if w.1 then w.2 else modEng w.2 k 0 (fun e => { e with bad := true })

/-- The header of a packet of a job: type, class, target, tag, epoch (R337). -/
def jobHdr (d : Dev) (ptype tc dst tag : Nat) : Nat :=
  fv 0 4 ptype + fv 4 2 tc + fv 16 16 (myMod d) + fv 32 16 dst + fv 48 16 tag + fv 176 32 (getR d FAB_MEPOCH)

/-- The packets of a contribution: rows in packets of 32, then the digest (R299, R305, R337, R412). -/
def contribPackets (d : Dev) (dst desc phase : Nat) (rows : List FRow) : List Packet :=
  let sl := sealBits d (d.res.fg.getD 0) false
  let n := ceilDiv rows.length 32
  let body := (List.range n).map (fun i =>
    let rs := (rows.drop (32 * i)).take 32
    ({ hdr := BitVec.ofNat 256 (jobHdr d 7 1 dst desc + fv 8 6 rs.length + fv 64 48 (32 * i) + fv 128 13 phase + sl),
       rows := rs.map (·.data), pois := rs.map (·.poison) } : Packet))
  let dg := crc64 (rowBytes (rows.map (·.data)))
  let mask := if sl ≠ 0 ∧ rows ≠ [] then fv 216 8 (bits sl 216 8) else 0
  body ++ [{ hdr := BitVec.ofNat 256 (jobHdr d 8 0 dst desc + fv 64 64 dg + fv 128 13 phase + mask) }]

/-- One row of a reduce-exchange sum, the received row being operand A, and whether it sets the latch (R97, R299, R300). -/
def sumRows (d : Dev) (k : Nat) (a b : List FRow) : List FRow × Dev :=
  let rs := (a.zip b).map (fun x => addFRow x.1 x.2)
  (rs.map (·.1), if rs.any (·.2) then modEdge d k (fun e => { e with latch := true }) else d)

/-- A contribution as received whole and checked: its rows, poisoned where its digest failed (R299, R305). -/
def takeContrib (d : Dev) (k port desc phase src n : Nat) : Option (List FRow) × Dev :=
  match (edge d k).contribs.find? (fun c => c.port == port && c.desc == desc && c.phase == phase && c.src == src) with
  | none => (none, d)
  | some c =>
    if c.digest.isNone || !((List.range n).all (fun i => (c.rows.find i).isSome)) then (none, d)
    else
      let rows := (List.range n).map (fun i =>
        let r := c.rows.get i {}
        { r with poison := r.poison || c.bad })
      (some rows, modEdge d k (fun e => { e with contribs := e.contribs.erase c }))

/-- The first action of a descriptor (R299): the rows it starts with; a ring of one copies SRC to DST. -/
def ringBegin (d : Dev) (k : Nat) : Dev :=
  let x := curDesc d k
  let (_, n, p) := ringOf d k
  if n = 1 then
    let r := segRows d k (cdSrc x) 0
    modEng (putSeg r.2 k 0 r.1) k 0 (fun e => { e with pos := 2 })
  else if cdOp x = 3 then
    let i := (p + 1) % n
    let r := segRows d k (cdSrc x) i
    modEng (putSeg r.2 k i r.1) k 0 (fun e => { e with pos := 1, phase := n - 1, buf := r.1 })
  else
    let r := segRows d k (cdSrc x) p
    modEng r.2 k 0 (fun e => { e with pos := 1, buf := r.1 })

/-- The contribution of the phase goes to the next member (R299, R305). -/
def ringSend (d : Dev) (k : Nat) : Dev :=
  let x := curDesc d k
  let (a, n, p) := ringOf d k
  let e := eng d k 0
  let port := k + 16 * cdPort x
  let r := sendAllOn port (contribPackets d (ringMod d a ((p + 1) % n)) (rdxCur d k) e.phase e.buf) d
  let d2 := if r.1 then set64 r.2 (RDX_ROWS_LO k) (RDX_ROWS_HI k) (get64 r.2 (RDX_ROWS_LO k) (RDX_ROWS_HI k) + e.buf.length) else r.2
  modEng d2 k 0 (fun e => { e with sent := true })

/-- The contribution of the phase has come from the previous member: it is added or copied, and the next phase begins
(R299). -/
def ringTake (d : Dev) (k : Nat) : Dev :=
  let x := curDesc d k
  let (a, n, p) := ringOf d k
  let t := (eng d k 0).phase
  let port := k + 16 * cdPort x
  let reduce := decide (t < n - 1)
  let seg := if reduce then (p + 2 * n - 1 - t) % n else (p + n - (t - (n - 1))) % n
  let cnt := (segment (cdCount x) n seg).2
  match takeContrib d k port (rdxCur d k) t (ringMod d a ((p + n - 1) % n)) cnt with
  | (none, _) => d
  | (some got, d1) =>
    let step := fun (d : Dev) (buf : List FRow) =>
      modEng d k 0 (fun e => { e with phase := e.phase + 1, sent := false, buf := buf })
    if reduce then
      let own := segRows d1 k (cdSrc x) seg
      let s := sumRows own.2 k got own.1
      if t + 1 < n - 1 then step s.2 s.1
      else
        let d2 := putSeg s.2 k seg s.1
        if cdOp x = 2 then modEng d2 k 0 (fun e => { e with pos := 2 })
        else
          let r := segRows d2 k (cdDst x) seg
          step r.2 r.1
    else
      let d2 := putSeg d1 k seg got
      if t + 1 < 2 * (n - 1) then step d2 got else modEng d2 k 0 (fun e => { e with pos := 2 })

/-- The next action of die k's running descriptor, if its OP is op (R299): the rows it starts with, the sending of a
phase's contribution, or what it does with the one received. -/
def ringStep (k op : Nat) (d : Dev) : Dev :=
  let e := eng d k 0
  if 16 ≤ k ∨ (edge d k).lost ∨ fenced d ∨ !e.busy ∨ cdOp (curDesc d k) ≠ op ∨ e.pos = 2 then d
  else if e.pos = 0 then ringBegin d k
  else if !e.sent then ringSend d k
  else ringTake d k

/-- ALLREDUCE, REDUCE_SCATTER and ALL_GATHER (R299). -/
def allreduce (k : Nat) (d : Dev) : Dev := ringStep k 1 d
def reduceScatter (k : Nat) (d : Dev) : Dev := ringStep k 2 d
def allGather (k : Nat) (d : Dev) : Dev := ringStep k 3 d

/-- RDX_DESC_DONE (R301): every DST row has landed: DONE is incremented and the queue goes on. -/
def rdxDescDone (k : Nat) (d : Dev) : Dev :=
  let e := eng d k 0
  if 16 ≤ k ∨ !e.busy ∨ e.pos ≠ 2 ∨ e.bad then d
  else
    let d1 := sendInc d { obj := cdDone (curDesc d k), ctx := d.res.fg.getD 0, amt := 1, src := 700 + k }
    rdxAt d1 k (rdxCur d k + 1)

/- Contributions received -/

/-- Rows the contribution of a phase holds, by the receiver's own descriptor (R299). -/
def contribLen (d : Dev) (k port desc phase : Nat) : Nat :=
  let x := rdxDesc d k desc
  let a := (portAxis port).getD 0
  let n := ringM1 d a + 1
  let p := myPos d a
  let seg := if phase < n - 1 then (p + 2 * n - 1 - phase) % n else (p + n - (phase - (n - 1)) % n) % n
  (segment (cdCount x) n seg).2

/-- The digest of a contribution whose rows have all come is compared; a mismatch poisons it and blames its sender (R305). -/
def contribCheck (d : Dev) (k : Nat) (c : Contrib) : Dev :=
  let n := contribLen d k c.port c.desc c.phase
  match c.digest with
  | none => d
  | some dg =>
    if !((List.range n).all (fun i => (c.rows.find i).isSome)) then d
    else
      let mine := crc64 (rowBytes ((List.range n).map (fun i => (c.rows.get i {}).data)))
      let said := match c.nonceOfs, linkKey d c.slot with
        | some _, some key => dg.toNat ^^^ natOfBytes ((aesEnc (roundKeys key) (bytesOf 12 c.nonce.toNat ++ [255, 255, 255, 255])).take 8)
        | _, _ => dg.toNat
      if mine = said then d
      else
        let d1 := modEdge d k (fun e => { e with contribs := e.contribs.map (fun y => if y == c then { c with bad := true } else y) })
        let d2 := rdxFault d1 k RDX_FAULT_DIGEST
        let d3 := if portHalf c.port = 0 then satF d2 (RDX_DIG_BAD_A k) RDX_DIG_BAD_A_COUNT else satF d2 (RDX_DIG_BAD_B k) RDX_DIG_BAD_B_COUNT
        let d4 := setR d3 (RDX_LAST_SENDER k) (fv 0 16 c.src + fv 16 1 (portHalf c.port))
        let ev : Ev := { portEv c.port 0x33 1 (fv 0 4 7 + fv 16 16 c.desc) 0 .step with other := some c.src }
        (sendByGroup (report d4 ev) { hdr := withHcrc (jobHdr d 9 0 c.src c.desc + fv 128 13 c.phase) }).2

/-- The arriving contribution of a port, descriptor, phase and sender, changed by f. -/
def withContrib (d : Dev) (port h : Nat) (f : Contrib → Contrib) : Dev :=
  let k := portDie port
  let same := fun (c : Contrib) => c.port == port && c.desc == hTag h && c.phase == hWin h && c.src == hSrc h
  let c0 : Contrib := ((edge d k).contribs.find? same).getD { port := port, desc := hTag h, phase := hWin h, src := hSrc h }
  let c1 := f c0
  contribCheck (modEdge d k (fun e => { e with contribs := e.contribs.filter (fun c => !same c) ++ [c1] })) k c1

/-- CONTRIB (R299, R305, R348): rows of a contribution arrive. -/
def contribIn (p n : Nat) (d : Dev) : Dev :=
  match takePkt d p n 7 with
  | (some x, d1) =>
    let h := x.p.hdr.toNat
    if !epochOk d1 h then d1
    else match openRows d1 p x with
      | (none, d2) => integrityFault d2 p h
      | (some rows, d2) =>
        withContrib d2 p h (fun c =>
          let c1 := (rows.zip (List.range rows.length)).foldl (fun c r => { c with rows := (c.rows.filter (fun y => y.1 != hOfs h + r.2)).insertIdx ((c.rows.filter (fun y => decide (y.1 < hOfs h + r.2))).length) (hOfs h + r.2, r.1) }) c
          if hSealed h && decide (c.nonceOfs.getD 0 ≤ hOfs h) then
            { c1 with nonceOfs := some (hOfs h), nonce := BitVec.ofNat 96 (bits x.p.trl.toNat 128 96), slot := hSkey h }
          else c1)
  | (none, _) => d

/-- DIGEST (R305): a digest packet ends a contribution. -/
def digestIn (p n : Nat) (d : Dev) : Dev :=
  match takePkt d p n 8 with
  | (some x, d1) =>
    let h := x.p.hdr.toNat
    if !epochOk d1 h then d1
    else withContrib d1 p h (fun c => { c with digest := some (BitVec.ofNat 64 (bits h 64 64)) })
  | (none, _) => d

/-- NOTICE (R306): this module is blamed as the sender of a contribution. -/
def noticeIn (p n : Nat) (d : Dev) : Dev :=
  match takePkt d p n 9 with
  | (some x, d1) =>
    let h := x.p.hdr.toNat
    if !epochOk d1 h then d1
    else
      let k := portDie p
      let d2 := satF (rdxFault d1 k RDX_FAULT_BLAMED) (RDX_BLAMED k) RDX_BLAMED_COUNT
      report d2 { portEv p 0x32 1 (fv 0 4 9 + fv 16 16 (hTag h)) 0 .none with other := some (hSrc h) }
  | (none, _) => d

/- Verdict records (R307) -/

def vrVerdict (r : Nat) : Nat := bits r 0 3
def vrStepScope (r : Nat) : Bool := bit r 3
def vrNfa (r : Nat) : Bool := bit r 5
def vrRcp (r : Nat) : Bool := bit r 6
def vrAbort (r : Nat) : Bool := bit r 7
def vrAttempt (r : Nat) : Nat := bits r 8 8
def vrSender (r : Nat) : Nat := bits r 16 16
def vrN2 (r : Nat) : Nat := bits r 32 32
def vrStep (r : Nat) : Nat := bits r 64 64

def setVerd (d : Dev) (v : Verd) : Dev := { d with fab := { d.fab with verd := v } }

/-- Every foreground latch of the module: cores, Update Engines, routers, reduce-exchange units (R100, R269, R310). -/
def anyLatch (d : Dev) : Bool :=
  d.cores.any (fun c => c.2.latch) || ueLatched d || d.meshLatch.any (·.2) || d.fab.edges.any (fun e => e.2.latch)

/-- The module's own record at V (R310). -/
def ownRecord (d : Dev) : Nat :=
  let rr := d.rerunStep || d.rerunUpd
  let nfa := anyLatch d
  fv 0 3 (if rr then 4 else if nfa then 3 else 1) + fv 3 1 (b2n d.rerunStep) + fv 4 1 (b2n d.rerunUpd) + fv 5 1 (b2n nfa) +
    fv 6 1 (b2n d.fab.verd.rcp) + fv 8 8 (getF d STEP_LAST STEP_LAST_ATTEMPT) + fv 16 16 (myMod d) +
    fv 32 32 (moduleNorm d) + fv 64 64 (stepNo d)

/-- Two SDX32 codes added, nearest even. -/
def add32 (a b : Nat) : Nat := encodeNum fSdx32 .rne (addNum (decodeNum fSdx32 a) (decodeNum fSdx32 b))

/-- combine of R311 over records in ascending ring position; the sender is this module. -/
def combineRecs (d : Dev) (rs : List Nat) : Nat :=
  match rs with
  | [] => 0
  | r :: rest =>
    let v := rest.foldl (fun m x => max m (vrVerdict x)) (vrVerdict r)
    let n2 := rest.foldl (fun m x => add32 m (vrN2 x)) (vrN2 r)
    let any := fun (i : Nat) => fv i 1 (b2n ((r :: rest).any (fun x => bit x i)))
    fv 0 3 v + any 3 + any 4 + any 5 + fv 6 1 (bits r 6 1) + any 7 + fv 8 8 (vrAttempt r) + fv 16 16 (myMod d) +
      fv 32 32 n2 + fv 64 64 (vrStep r)

/-- A verdict packet to a module by a stage's port (R308); with no port of the stage's group up it is refused locally (R341). -/
def sendVrd (d : Dev) (a dst : Nat) (rows : List Row) (sl : Bool) : Dev :=
  (sendOn d ((stagePort d a).getD (8 * a)) { hdr := BitVec.ofNat 256 (jobHdr d 10 0 dst 0 + fv 8 6 rows.length +
    (if sl then sealBits d (d.res.fg.getD 0) false else 0)), rows := rows, pois := rows.map (fun _ => false) }).2

def recRow (r : Nat) : Row := BitVec.ofNat 1024 (r % 2 ^ 256)

/-- The 64 digests of a module's Update Engines as rows (R307, R308). -/
def digestTable (d : Dev) : List (BitVec 64) := (List.range 64).map (fun t => (ueSt d t).passDig)

def tableRows (t : List (BitVec 64)) : List Row :=
  (List.range 4).map (fun i => BitVec.ofNat 1024 ((List.range 16).foldl (fun acc j => acc + (t.getD (16 * i + j) 0).toNat <<< (64 * j)) 0))

def rowsTable (rs : List Row) : List (BitVec 64) :=
  (List.range 64).map (fun t => BitVec.ofNat 64 (bits (rs.getD (t / 16) 0).toNat (64 * (t % 16)) 64))

/- The loft digest comparison (R315-R318) -/

/-- The majority digest of a tile among n tables: one held by more than half of them (R316). -/
def majority (n : Nat) (col : List (BitVec 64)) : Option (BitVec 64) :=
  col.find? (fun x => decide (n < 2 * (col.filter (· == x)).length))

/-- The tiles on which a table differs from the majority, or that have none (R309). -/
def tilesBad (maj : List (Option (BitVec 64))) (t : List (BitVec 64)) : Nat :=
  ((List.range 64).filter (fun i => (maj.getD i none) != some (t.getD i 0))).foldl (fun acc i => acc + 2 ^ i) 0

/-- What an X root finds: the differing members (position, tiles, whether a differing tile has no majority, whether it is
repaired), the source, the consecutive count, whether the tables differ and ABORT (R316-R318). -/
structure RingFind where
  minor : List (Nat × Nat × Bool × Bool)
  source : Nat
  consec : Nat
  differ : Bool
  abort : Bool
  deriving DecidableEq, Repr

/-- The comparison of the ring's tables, by ascending position (R316-R318). -/
def compareRing (v : Verd) (step : Nat) (tabs : List (Nat × List (BitVec 64))) : RingFind :=
  let n := tabs.length
  let maj := (List.range 64).map (fun i => majority n (tabs.map (fun t => t.2.getD i 0)))
  let noMaj := ((List.range 64).filter (fun i => (maj.getD i none).isNone)).foldl (fun acc i => acc + 2 ^ i) 0
  let minor := (tabs.map (fun t => (t.1, tilesBad maj t.2))).filter (fun m => m.2 != 0)
  let differ := !minor.isEmpty
  let consec := if !differ then 0 else if v.consecStep = step then v.consec + 1 else 1
  let before := if v.consecStep = step ∧ 0 < v.consec then v.minority else []
  let abort := differ && ((consec == 2 && (n == 2 || noMaj != 0)) || decide (4 ≤ consec))
  -- members past the 247 that the detail lists are not repaired (R309)
  let fix := fun (m : Nat × Nat) => decide (3 ≤ n) && (minor.take 247).any (·.1 == m.1) && before.contains m.1 && (m.2 &&& noMaj) == 0 && !abort
  let union := (minor.filter fix).foldl (fun acc m => acc ||| m.2) 0
  let source := match (tabs.map (fun t => (t.1, tilesBad maj t.2))).find? (fun t => (t.2 &&& union) == 0) with
    | some t => if minor.any fix then t.1 else 0xFFFF
    | none => 0xFFFF
  { minor := minor.map (fun m => (m.1, m.2, (m.2 &&& noMaj) != 0, fix m && source != 0xFFFF)),
    source := source, consec := consec, differ := differ, abort := abort }

/-- The ring detail: its head and an entry for each of the first 247 members in the minority, as rows (R309). -/
def ringDetail (f : RingFind) : List Row :=
  let es := f.minor.take 247
  let head := fv 0 16 es.length + fv 16 16 f.source + fv 32 8 (min f.consec 255) + fv 40 1 (b2n f.differ) +
    fv 41 1 (b2n (decide (247 < f.minor.length))) + fv 42 1 (b2n f.abort)
  let v := (es.zip (List.range es.length)).foldl (fun acc e =>
    acc + (fv 0 16 e.1.1 + fv 16 1 (b2n e.1.2.2.2) + fv 17 1 (b2n e.1.2.2.1) + fv 64 64 e.1.2.1) <<< (128 * (e.2 + 1))) head
  (List.range (ceilDiv (16 * (es.length + 1)) 128)).map (fun i => BitVec.ofNat 1024 (v >>> (1024 * i)))

/-- The entry a ring detail holds for ring position x: whether it is repaired, and its tiles (R309). -/
def detailEntry (rows : List Row) (x : Nat) : Option (Bool × Nat) :=
  let v := (rows.zip (List.range rows.length)).foldl (fun acc r => acc + r.1.toNat <<< (1024 * r.2)) 0
  ((List.range (min (bits v 0 16) 247)).map (fun i => bits v (128 * (i + 1)) 128)).findSome? (fun e =>
    if bits e 0 16 = x then some (bit e 16, bits e 64 64) else none)

/-- The source position a ring detail names (R309). -/
def detailSource (rows : List Row) : Nat := bits (rows.headD 0).toNat 16 16

/- The stages (R311) -/

/-- A record of the module's own step and attempt (R312). -/
def ofAttempt (d : Dev) (r : Nat) : Bool := vrStep r == stepNo d && vrAttempt r == getF d STEP_LAST STEP_LAST_ATTEMPT

/-- A final record received: it is held until C, and what the ring detail says of this module is noted (R290, R312, R316,
R317, R318). -/
def takeFinal (d : Dev) (r : Nat) (detail : List Row) : Dev :=
  if !ofAttempt d r then d
  else
    let e := detailEntry detail (myPos d 0)
    let d1 := if e.isSome then
        report (satF d VRD_DIVERGE VRD_DIVERGE_COUNT)
          { cls := 0x41, kind := 6, unit := myMod d, oper := vrVerdict r, scope := .none }
      else d
    let rep := match e with
      | some (true, tiles) => some (ringMod d 0 (detailSource detail), BitVec.ofNat 64 tiles)
      | _ => none
    let v := d1.fab.verd
    let v1 : Verd := { v with fin := some (BitVec.ofNat 256 r), finAt := d1.now, repair := rep, ended := vrAbort r }
    if getF d VRD_STATUS VRD_STATUS_STATE = 0 then d1
    else setF (setVerd d1 v1) VRD_STATUS VRD_STATUS_STATE 3

/-- The return of a final record: down the Z ring from the anchor, then the Y ring, then the X ring with its detail
(R311). -/
def sendReturn (d : Dev) (r a : Nat) : Dev :=
  let detail := if a = 0 then d.fab.verd.detail else []
  ((List.range (ringM1 d a + 1)).filter (fun i => i != myPos d a)).foldl (fun d i =>
    sendVrd d a (ringMod d a i) (recRow r :: detail) (a == 0)) d

def returnX (d : Dev) (r : Nat) : Dev := takeFinal (sendReturn d r 0) r d.fab.verd.detail
def returnY (d : Dev) (r : Nat) : Dev := returnX (sendReturn d r 1) r
def returnZ (d : Dev) (r : Nat) : Dev := returnY (sendReturn d r 2) r

/-- The anchor's final decision (R311). -/
def finalRec (d : Dev) (r : Nat) : Nat :=
  let n2 := decodeNum fSdx32 (vrN2 r)
  let clip := decodeNum fSdx32 (getR d STEP_CLIP)
  let v1 := if vrNfa r || isNF n2 then max (vrVerdict r) 3 else vrVerdict r
  let v2 := if !vrRcp r && ltNum zeroNum clip && ltNum (rd fSdx32 (mulNum clip clip)) n2 then max v1 2 else v1
  insBits r 0 3 v2

/-- The records of a stage, ascending by position, once every position of the ring has one (R311). -/
def stageFull (d : Dev) (a : Nat) : Option (List VrdRx) :=
  let box := d.fab.verd.box.filter (fun x => x.stage == a)
  let l := (List.range (ringM1 d a + 1)).filterMap (fun i => box.find? (fun x => x.pos == i))
  if l.length = ringM1 d a + 1 then some l else none

/-- The box of a stage emptied once it has been combined. -/
def clearStage (d : Dev) (a : Nat) : Dev :=
  setVerd d { d.fab.verd with box := d.fab.verd.box.filter (fun x => x.stage != a) }

/-- A record enters a root's box, or is stale (R312). -/
def boxPut (d : Dev) (a pos r : Nat) (table : List (BitVec 64)) : Option Dev :=
  let v := d.fab.verd
  if !ofAttempt d r || v.seen.contains (a, pos) then none
  else some (setVerd d { v with seen := v.seen ++ [(a, pos)], box := v.box ++ [{ stage := a, pos := pos, rec_ := BitVec.ofNat 256 r, table := table }] })

/-- The record at the Z root: the anchor forms and returns the final record once its ring is whole (R311). -/
def gatherZ (d : Dev) (pos r : Nat) : Dev :=
  match boxPut d 2 pos r [] with
  | none => incF d VRD_STALE VRD_STALE_COUNT
  | some d1 => match stageFull d1 2 with
    | some l => returnZ (clearStage d1 2) (finalRec d1 (combineRecs d1 (l.map (fun x => x.rec_.toNat))))
    | none => d1

/-- The record at a Y root (R311). -/
def gatherY (d : Dev) (pos r : Nat) : Dev :=
  match boxPut d 1 pos r [] with
  | none => incF d VRD_STALE VRD_STALE_COUNT
  | some d1 => match stageFull d1 1 with
    | some l =>
      let c := combineRecs d1 (l.map (fun x => x.rec_.toNat))
      let d2 := clearStage d1 1
      if myPos d2 2 = 0 then gatherZ d2 0 c else sendVrd d2 2 (ringMod d2 2 0) [recRow c] false
    | none => d1

/-- The record at an X root, which compares the digest tables (R311, R316-R318). -/
def gatherX (d : Dev) (pos r : Nat) (table : List (BitVec 64)) : Dev :=
  match boxPut d 0 pos r table with
  | none => incF d VRD_STALE VRD_STALE_COUNT
  | some d1 => match stageFull d1 0 with
    | some l =>
      let f := compareRing d1.fab.verd (stepNo d1) (l.map (fun x => (x.pos, x.table)))
      let c0 := combineRecs d1 (l.map (fun x => x.rec_.toNat))
      let c1 := if f.differ then insBits (insBits c0 4 1 1) 0 3 (max (vrVerdict c0) 4) else c0
      let c := if f.abort then insBits c1 7 1 1 else c1
      let v := (clearStage d1 0).fab.verd
      let d2 := setVerd d1 { v with detail := ringDetail f, consec := f.consec, consecStep := stepNo d1, minority := f.minor.map (·.1) }
      if myPos d2 1 = 0 then gatherY d2 0 c else sendVrd d2 1 (ringMod d2 1 0) [recRow c] false
    | none => d1

/-- VRD_STATUS shows whether the module is an X root, and the anchor (R314, R327). -/
def showRoots (d : Dev) : Dev :=
  setB (setB d VRD_STATUS VRD_STATUS_ROOT_X (myPos d 0 == 0))
    VRD_STATUS VRD_STATUS_ANCHOR (myPos d 0 == 0 && myPos d 1 == 0 && myPos d 2 == 0)

/-- The local verdict submitted at V (R289, R310, R311, R314). -/
def submitVerdict (d : Dev) : Dev :=
  let r := ownRecord d
  let d1 := setF d VRD_STATUS VRD_STATUS_STATE 2
  if myPos d1 0 = 0 then gatherX d1 0 r (digestTable d1)
  else sendVrd d1 0 (ringMod d1 0 0) (recRow r :: tableRows (digestTable d1)) true

/-- VRD (R308, R311, R312, R348): a verdict record arrives by the port of its stage: at a root it is gathered, elsewhere it is
the final record on its way back. -/
def vrdIn (p n : Nat) (d : Dev) : Dev :=
  match takePkt d p n 10 with
  | (some x, d1) =>
    let h := x.p.hdr.toNat
    if !epochOk d1 h then d1
    else match openRows d1 p x with
      | (none, d2) => integrityFault d2 p h
      | (some rows, d2) =>
        let r := bits (rows.headD {}).data.toNat 0 256
        let rest := (rows.drop 1).map (·.data)
        match portAxis p with
        | none => d2
        | some a =>
          if myPos d2 a = 0 then
            match ringPos d2 a (hSrc h) with
            | none => d2
            | some i => if a = 0 then gatherX d2 i r (rowsTable rest) else if a = 1 then gatherY d2 i r else gatherZ d2 i r
          else if !ofAttempt d2 r then d2
          else if a = 0 then takeFinal d2 r rest
          else if a = 1 then returnX d2 r
          else returnY d2 r
  | (none, _) => d

/- Repair (R317, R462) -/

/-- Chunk ids of the mapped arrays and the gradient of a shard. -/
def shardChunks (d : Dev) (t s : Nat) : List Nat :=
  let r := ruleEntry d t (sdRule s)
  let n := shardPanels d s
  ((List.range 7).flatMap (fun a => (List.range (ceilDiv (arrayBytes s r a n) chunkSize)).map (fun i => sdChunk s a + i))) ++
    (List.range (ceilDiv (4 * sdCount s) chunkSize)).map (fun i => sdGrad s + i)

/-- Chunk ids a repair of a set of tiles copies (R317). -/
def repairChunks (d : Dev) (tiles : Nat) : List Nat :=
  ((List.range 64).filter (fun t => bit tiles t)).flatMap (fun t =>
    (List.range (getF d (UE_ORDER t) UE_ORDER_LEN)).flatMap (fun i => shardChunks d t (d.upd.order.get (t * 1024 + i) 0).toNat))

/-- Rows copied by the management core into chunks of a list, through the readable copy (R271, R317, R462). -/
def mgmtCopy (d : Dev) (chunks : List Nat) (rows : List (Nat × Row)) : Dev :=
  rows.foldl (fun d x =>
    match regionOf x.1 with
    | .cellar n ofs =>
      if chunks.contains (n * 32768 + ofs / chunkSize) then (ccWrite d n ofs { data := x.2 } { (ctxSrc d (d.res.fg.getD 0)) with mgmt := true }).2
      else d
    | _ => d) d

/-- REPAIR_DONE (R317): the copy of a repaired member's chunks completes with these rows, and its engines start the rerun. -/
def repairDone (rows : List (Nat × Row)) (d : Dev) : Dev :=
  match d.fab.verd.repair with
  | none => d
  | some r =>
    let d1 := mgmtCopy d (repairChunks d r.2.toNat) rows
    let d2 := setVerd d1 { d1.fab.verd with repair := none }
    if getF d2 VRD_STATUS VRD_STATUS_STATE = 1 then passBegin d2 d2.upd.clip false d2.fab.verd.rcp else d2

end Sys2Proof.Machine
end

