-- ==== Sys2Proof/Machine/Xfer.lean ====
section
/-!
DEFINITION. Machine/Xfer.lean: the transfer engines and the multicast replicators of the edge dies (R349-R354).
-/
namespace Sys2Proof.Machine

/- Transfer descriptors (R349) -/

def xferDesc (d : Dev) (k n : Nat) : Nat := getWords d (XFER_DESC k n 0) 16
def tdOp (x : Nat) : Nat := bits x 0 3
def tdPort (x : Nat) : Nat := bits x 3 1
def tdTc (x : Nat) : Nat := bits x 4 2
def tdSeal (x : Nat) : Bool := bit x 6
def tdStart (x : Nat) : Nat := bits x 16 14
def tdDone (x : Nat) : Nat := bits x 32 14
def tdLocal (x : Nat) : Nat := bits x 64 48
def tdDst (x : Nat) : Nat := bits x 112 16
def tdRows (x : Nat) : Nat := bits x 128 32
def tdOfs (x : Nat) : Nat := bits x 192 48

def xferCur (d : Dev) (k : Nat) : Nat := getF d (XFER_STATUS k) XFER_STATUS_CUR
def curXfer (d : Dev) (k : Nat) : Nat := xferDesc d k (xferCur d k)

/-- The transfer queue of die k at descriptor n. -/
def xferAt (d : Dev) (k n : Nat) : Dev :=
  queueAt (modEng d k 2 (fun _ => {})) (XFER_STATUS k) (XFER_QLEN k) XFER_STATUS_STATE XFER_STATUS_CUR XFER_QLEN_LEN n

/-- XFER_DESC_START (R349): the next descriptor starts once its START object is reached; one whose die or port is lost cannot run,
and the step ends in RERUN (R470). -/
def xferDescStart (k : Nat) (d : Dev) : Dev :=
  let x := curXfer d k
  if 16 ≤ k ∨ fenced d ∨ getF d (XFER_STATUS k) XFER_STATUS_STATE ≠ 1 then d
  else if (edge d k).lost then raiseRerun d .step
  else if !objReached d (tdStart x) then d
  else if gpState d (k + 16 * tdPort x) = 4 then raiseRerun d .step
  else
    let e : Eng := { busy := true }
    modEng (setF d (XFER_STATUS k) XFER_STATUS_STATE 2) k 2 (fun _ => e)

/-- The next transaction tag. -/
def nextTag (d : Dev) : Nat × Dev := (d.fab.tag, { d with fab := { d.fab with tag := (d.fab.tag + 1) % 65536 } })

/-- A request noted as outstanding (R350). -/
def addOutst (d : Dev) (o : Outst) : Dev := xferOut { d with fab := { d.fab with outst := d.fab.outst ++ [o] } } o.die

/-- The header of a request of a descriptor: n rows at row `pos`, to module dst under a tag (R337, R350). -/
def xferHdr (d : Dev) (x ptype tag pos rows code : Nat) : Nat :=
  fv 0 4 ptype + fv 4 2 (tdTc x) + fv 8 6 rows + fv 16 16 (myMod d) + fv 32 16 (tdDst x) + fv 48 16 tag +
    fv 64 48 (tdOfs x + 128 * pos) + fv 128 13 (bits x 160 13) + fv 144 16 (bits x 176 16) +
    (if bit x 62 then fv 160 14 (bits x 48 14) + fv 174 1 1 else 0) + fv 176 32 (getR d FAB_MEPOCH) + fv 208 8 code

/-- The running descriptor of die k if its OP is op and it has rows to send: the descriptor, its position and the rows of the
next packet. -/
def xferNext (d : Dev) (k op : Nat) : Option (Nat × Nat × Nat) :=
  let x := curXfer d k
  let e := eng d k 2
  if 16 ≤ k ∨ (edge d k).lost ∨ fenced d ∨ !e.busy ∨ tdOp x ≠ op ∨ tdRows x ≤ e.pos then none
  else some (x, e.pos, min 32 (tdRows x - e.pos))

/-- The bits that seal a packet with rows of the running descriptor (R349, R412). -/
def xferSeal (d : Dev) (x : Nat) : Nat := sealBits d (d.res.fg.getD 0) (tdSeal x)

def advanceXfer (d : Dev) (k n : Nat) : Dev := modEng d k 2 (fun e => { e with pos := e.pos + n })

/-- A packet of engine e of die k leaves by port p, its request then outstanding; one that is refused locally marks the descriptor
(R341, R350). -/
def engSend (d : Dev) (k e p : Nat) (pk : Packet) (o : Outst) : Dev :=
  let r := sendOn d p pk
  if r.1 then addOutst r.2 o else modEng r.2 k e (fun y => { y with bad := true })

/-- XFER_WRITE (R350): the next packet of a WRITE descriptor of die k. -/
def xferWrite (k : Nat) (d : Dev) : Dev :=
  match xferNext d k 1 with
  | none => d
  | some (x, pos, n) =>
    let port := k + 16 * tdPort x
    let r := engReads k (tdLocal x + 128 * pos) n d
    let t := nextTag r.2
    let h := xferHdr t.2 x 1 t.1 pos n 0 + xferSeal t.2 x
    let pk : Packet := { hdr := withHcrc h, rows := r.1.map (·.data), pois := r.1.map (·.poison) }
    advanceXfer (engSend t.2 k 2 port pk { tag := t.1, dst := tdDst x, port := port, die := k, eng := 2 }) k n

/-- Rows of receive space reserved at port p for the READs it has outstanding (R336). -/
def readRows (d : Dev) (p : Nat) : Nat := ((d.fab.outst.filter (fun o => o.read && o.port == p)).map (·.rows)).foldl (· + ·) 0

/-- XFER_READ (R336, R350): the next request of a READ descriptor of die k, once receive space for its whole response is reserved
(log 76). -/
def xferRead (k : Nat) (d : Dev) : Dev :=
  match xferNext d k 2 with
  | none => d
  | some (x, pos, n) =>
    let port := k + 16 * tdPort x
    if 32 + Config.readSpare port < readRows d port + n then d
    else
      let t := nextTag d
      let pk : Packet := { hdr := withHcrc (xferHdr t.2 x 2 t.1 pos 0 n) }
      let o : Outst := { tag := t.1, dst := tdDst x, port := port, die := k, eng := 2, read := true, addr := tdLocal x + 128 * pos, rows := n }
      advanceXfer (engSend t.2 k 2 port pk o) k n

/- Multicast (R353, R354) -/

/-- Entry e of multicast list l. -/
def mcEntry (d : Dev) (k l e : Nat) : Nat := getWords d (MCP_LIST k l e 0) 2

/-- Bytes of a packet in the buffer. -/
def pkBytes (p : Packet) : Nat := 32 * pkUnits p.rows.length

/-- MCAST_WRITE (R353): the next packet of a multicast descriptor enters the replicator's buffer, if it has room. -/
def mcastWrite (k : Nat) (d : Dev) : Dev :=
  match xferNext d k 3 with
  | none => d
  | some (x, pos, n) =>
    if 0x200000 < getF d (MCP_BUF k) MCP_BUF_BYTES + 32 * pkUnits n then d
    else
      let r := engReads k (tdLocal x + 128 * pos) n d
      let p : Packet := { hdr := BitVec.ofNat 256 (xferHdr r.2 x 1 0 pos n 0 + xferSeal r.2 x),
                          rows := r.1.map (·.data), pois := r.1.map (·.poison) }
      let es := (List.range 64).filter (fun e => bit (mcEntry r.2 k (tdDst x % 16) e) 31)
      let d1 := advanceXfer r.2 k n
      if es = [] then d1
      else
        let m : McPkt := { p := p, at_ := d1.now, waiting := es, desc := x }
        setF (modEdge d1 k (fun y => { y with mcp := y.mcp ++ [m] })) (MCP_BUF k) MCP_BUF_BYTES
          (getF d1 (MCP_BUF k) MCP_BUF_BYTES + pkBytes p)

/-- Entry e of the n-th packet in die k's buffer no longer waits; the longest wait is kept, and a packet that no entry waits
for is released. -/
def mcastSettle (d : Dev) (k n e : Nat) (m : McPkt) : Dev :=
  let us := (d.now - m.at_) / 2000
  let d1 := setF d (MCP_HOLD_MAX k) MCP_HOLD_MAX_US (min 0xFFFF (max us (getF d (MCP_HOLD_MAX k) MCP_HOLD_MAX_US)))
  let w := m.waiting.filter (· != e)
  if w = [] then
    setF (modEdge d1 k (fun y => { y with mcp := y.mcp.eraseIdx n })) (MCP_BUF k) MCP_BUF_BYTES
      (getF d1 (MCP_BUF k) MCP_BUF_BYTES - pkBytes m.p)
  else modEdge d1 k (fun y => { y with mcp := y.mcp.set n { m with waiting := w } })

/-- The n-th packet in die k's buffer, if entry e of its list is the next it waits for: the entries go in order (R353). -/
def mcWaiting (d : Dev) (k n e : Nat) : Option McPkt :=
  match (edge d k).mcp[n]? with
  | some m => if m.waiting.head? = some e then some m else none
  | none => none

/-- The port that carries a buffered packet's copies. -/
def mcPort (k : Nat) (m : McPkt) : Nat := k + 16 * tdPort m.desc

/-- The entry of its list that a copy of a buffered packet goes to. -/
def mcTarget (d : Dev) (k e : Nat) (m : McPkt) : Nat := mcEntry d k (tdDst m.desc % 16) e

/-- The class credit of a copy's port allows it (R334, R353). -/
def mcCredit (d : Dev) (k : Nat) (m : McPkt) : Bool :=
  portUp d (mcPort k m) && decide (pkUnits m.p.rows.length ≤ creditLeft d (mcPort k m) (tdTc m.desc))

/-- The copy of a buffered packet for entry e, as a packet (R353, R412). -/
def mcCopy (d : Dev) (k e tag : Nat) (m : McPkt) : Packet :=
  let en := mcTarget d k e m
  { m.p with hdr := BitVec.ofNat 256 (insBits (insBits (insBits (insBits (insBits m.p.hdr.toNat 6 1 1) 32 16 (bits en 0 16)) 48 16 tag)
      128 13 (bits en 16 13)) 144 16 (bits en 32 16)) }

/-- The engine a buffered packet's copies are counted for: its die's transfer engine, until the queue is restarted. -/
def mcEng (m : McPkt) : Nat := if m.old then 10 else 2

/-- MCAST_COPY_SEND (R353): the copy of the n-th buffered packet for entry e goes out where the class credit allows it and its class is
due; with no port of the group up it is refused locally (R341). -/
def mcastCopySend (k n e : Nat) (d : Dev) : Dev :=
  match mcWaiting d k n e with
  | none => d
  | some m =>
    let p := mcPort k m
    if 16 ≤ k ∨ fenced d then d
    else if !groupUp d (p / 8) then
      let d1 := noRoute d p
      mcastSettle (if m.old then d1 else modEng d1 k 2 (fun y => { y with bad := true })) k n e m
    else if !mcCredit d k m ∨ !startFree d p ∨ !classDue d p (tdTc m.desc) ∨ !keyReady d m.p.hdr.toNat then d
    else
      let t := nextTag d
      let o : Outst := { tag := t.1, dst := bits (mcTarget d k e m) 0 16, port := p, die := k, eng := mcEng m }
      mcastSettle (addOutst (sendNow t.2 p (mcCopy d k e t.1 m)) o) k n e m

/-- MCAST_HOLD_EXPIRE (R353, R354, R360): a copy that has lacked credit for longer than FAB_MCAST_HOLD (the event is the
end of that time) becomes faulty and is never sent; a fenced module's copies are paused. -/
def mcastHoldExpire (k n e : Nat) (d : Dev) : Dev :=
  match mcWaiting d k n e with
  | none => d
  | some m =>
    if 16 ≤ k ∨ fenced d ∨ mcCredit d k m then d
    else
      let port := mcPort k m
      let target := bits (mcTarget d k e m) 0 16
      let ev : Ev := { cls := 0x34, kind := 7, unit := target, sub := port, oper := 1, other := some target, scope := .step }
      mcastSettle (report (gpFault d port GP_FAULT_MCAST_HOLD) ev) k n e m

/-- XFER_DESC_DONE (R350): every packet or copy of the running descriptor has been acknowledged, refused or timed out: DONE is
incremented, and a refusal or timeout marks it. -/
def xferDescDone (k : Nat) (d : Dev) : Dev :=
  let x := curXfer d k
  let e := eng d k 2
  if 16 ≤ k ∨ !e.busy ∨ e.pos < tdRows x ∨ (edge d k).mcp.any (fun m => !m.old) ∨ d.fab.outst.any (fun o => o.die == k && o.eng == 2) then d
  else
    let d1 := sendInc d { obj := tdDone x, ctx := d.res.fg.getD 0, amt := 1, src := 800 + k }
    let d2 := if e.bad then raiseRerun (setObjBit d1 (tdDone x) 91) .step else d1
    xferAt d2 k (xferCur d k + 1)

end Sys2Proof.Machine
end

