-- ==== Sys2Proof/Machine/Exchange.lean ====
section
/-!
DEFINITION. Machine/Exchange.lean: the expert directory (R379) and the exchange engines of E8 to E15 (R381-R387).
-/
namespace Sys2Proof.Machine

/- The expert directory (R379) -/

def expDir (d : Dev) (n : Nat) : Nat := getWords d (EXP_DIR n 0) 4
def xdValid (e : Nat) : Bool := bit e 0
def xdDrop (e : Nat) : Bool := bit e 1
def xdHandle (e : Nat) : Nat := bits e 8 8
def xdRegion (e : Nat) : Nat := bits e 16 8
def xdModule (e : Nat) : Nat := bits e 32 16
def xdWin (e : Nat) : Nat := bits e 48 13
def xdWgen (e : Nat) : Nat := bits e 64 16
def xdShare (e : Nat) : Nat := bits e 80 8
def xdTso (e : Nat) : Nat := bits e 96 14
def xdTsoEn (e : Nat) : Bool := bit e 110

/- Exchange descriptors (R381); the engine of die k is number k - 8 -/

def xchDesc (d : Dev) (k n : Nat) : Nat := getWords d (XCH_DESC (k - 8) n 0) 16
def xeOp (x : Nat) : Nat := bits x 0 2
def xeAfmt (x : Nat) : Nat := bits x 2 2
def xeK (x : Nat) : Nat := bits x 4 3 + 1
def xeStart (x : Nat) : Nat := bits x 16 14
def xeDone (x : Nat) : Nat := bits x 32 14
def xeDir (x : Nat) : Nat := bits x 48 15
def xeExperts (x : Nat) : Nat := bits x 64 10 + 1
def xeFeat (x : Nat) : Nat := bits x 80 16 + 1
def xeFirst (x : Nat) : Nat := bits x 96 16
def xeCount (x : Nat) : Nat := bits x 112 16 + 1
def xeTiles (x : Nat) : Nat := bits x 128 16 + 1
def xeSrc (x : Nat) : Nat := bits x 160 48
def xeSrcHdr (x : Nat) : Nat := bits x 224 48
def xeIdx (x : Nat) : Nat := bits x 288 48
def xeDst (x : Nat) : Nat := bits x 352 48
def xeDstHdr (x : Nat) : Nat := bits x 416 48
def xeStride (x : Nat) : Nat := bits x 480 32

/-- Physical rows of one row of 128 lanes: two in SDX16 (log 33). -/
def xeW (x : Nat) : Nat := if xeAfmt x = 2 then 2 else 1

/-- SHARE of the layer a descriptor serves. -/
def xeShare (d : Dev) (x : Nat) : Nat := xdShare (expDir d (xeDir x))

def xchCur (d : Dev) (k : Nat) : Nat := getF d (XCH_STATUS (k - 8)) XCH_STATUS_CUR
def curXch (d : Dev) (k : Nat) : Nat := xchDesc d k (xchCur d k)

/-- The exchange queue of die k at descriptor n. -/
def xchAt (d : Dev) (k n : Nat) : Dev :=
  queueAt (modEng d k 3 (fun _ => {})) (XCH_STATUS (k - 8)) (XCH_QLEN (k - 8)) XCH_STATUS_STATE XCH_STATUS_CUR XCH_QLEN_LEN n

/-- Die k carries an exchange engine. -/
def hasXch (k : Nat) : Bool := decide (8 ≤ k) && decide (k < 16)

/-- XCH_DESC_START (R349, R381): the next descriptor starts once its START object is reached; one whose die is lost, or a DISPATCH
whose port is, cannot run, and the step ends in RERUN (R470). -/
def xchDescStart (k : Nat) (d : Dev) : Dev :=
  if !hasXch k ∨ fenced d ∨ getF d (XCH_STATUS (k - 8)) XCH_STATUS_STATE ≠ 1 then d
  else if (edge d k).lost then raiseRerun d .step
  else if !objReached d (xeStart (curXch d k)) then d
  else if xeOp (curXch d k) = 1 ∧ gpState d k = 4 then raiseRerun d .step
  else
    let e : Eng := { busy := true }
    modEng (setF d (XCH_STATUS (k - 8)) XCH_STATUS_STATE 2) k 3 (fun _ => e)

/- Slots (R383) -/

/-- A token's slot: its expert and slot, its tile, rank and lane. -/
structure Asg where
  e : Nat
  slot : Nat
  tile : Nat
  rank : Nat
  lane : Nat
  deriving DecidableEq, Repr

/-- The assignment under way: tokens with a slot, tokens counted for each expert, capacity drops, and whether an index was out of
range. -/
structure AsgSt where
  got : List Asg := []
  cnt : Tbl Nat := []
  drops : Nat := 0
  fault : Bool := false
  deriving DecidableEq, Repr

/-- The expert number of tile t, rank r, lane l from the index rows (R133, R382). -/
def idxAt (x : Nat) (idx : List FRow) (t r l : Nat) : Nat :=
  elemAt (idx.getD (2 * (t * xeK x + r) + l / 64) {}).data.toNat 16 (l % 64)

/-- One token of R383's assignment. -/
def asgToken (d : Dev) (x : Nat) (idx : List FRow) (s : AsgSt) (p : Nat × Nat × Nat) : AsgSt :=
  let e := idxAt x idx p.1 p.2.2 p.2.1
  if xeExperts x ≤ e then { s with fault := true }
  else if xdDrop (expDir d (xeDir x + e)) then s
  else
    let n := s.cnt.get e 0
    if n = 128 * xeShare d x then { s with drops := s.drops + 1 }
    else { s with got := { e := e, slot := n, tile := p.1, rank := p.2.2, lane := p.2.1 } :: s.got, cnt := s.cnt.put e (n + 1) 0 }

/-- The assignment of R383: by tile, then lane, then rank. -/
def assign (d : Dev) (x : Nat) (idx : List FRow) : AsgSt :=
  (((List.range (xeTiles x)).flatMap (fun t => (List.range 128).flatMap (fun l =>
    (List.range (xeK x)).map (fun r => (t, l, r))))).foldl (asgToken d x idx) {})

/-- The index rows of a descriptor. -/
def idxRows (d : Dev) (k x : Nat) : List FRow × Dev := engReads k (xeIdx x) (2 * xeTiles x * xeK x) d

/- Rows of 128 lanes -/

/-- A row of 128 lanes at row n of an area, with its block headers and whether any part was poisoned (R382). -/
def laneArea (d : Dev) (k x base hbase n : Nat) : (Nat × Nat × Bool) × Dev :=
  let w := xeW x
  let r := engReads k (base + 128 * w * n) w d
  let v := (r.1.zip (List.range w)).foldl (fun acc y => acc + y.1.data.toNat <<< (1024 * y.2)) 0
  let p := r.1.any (·.poison)
  if w = 2 then ((v, 0, p), r.2)
  else
    let h := engRead r.2 k ((hbase + 8 * n) / 128 * 128)
    ((v, bits h.1.data.toNat (8 * ((hbase + 8 * n) % 128)) 64, p || h.1.poison), h.2)

/-- The value of one lane, decoded (R384). -/
def laneVal (x : Nat) (r : Nat × Nat × Bool) (l : Nat) : Num :=
  if xeAfmt x = 2 then decodeNum fSdx16 (elemAt r.1 16 l)
  else decode8 (xeAfmt x == 1) (bits r.2.1 (16 * (l / 32)) 16) (elemAt r.1 8 l)

/-- The block a lane is decoded from has a header of another format, or with a nonzero reserved field (R82). -/
def laneBad (x : Nat) (r : Nat × Nat × Bool) (l : Nat) : Bool :=
  xeAfmt x != 2 && !hdrOk (xeAfmt x == 1) (bits r.2.1 (16 * (l / 32)) 16)

/-- A row of 128 lanes formed from the lanes of source rows (none: +0): its physical rows, its headers (R384). In SDX16 codes are copied
exactly; otherwise each block is scanned and encoded, and a row with a lane of a block that fails the header check is poisoned (R82). -/
def formRow (x : Nat) (ls : List (Option ((Nat × Nat × Bool) × Nat))) (poison : Bool) : List FRow × Nat :=
  let bad := poison || ls.any (fun o => o.any (fun y => y.1.2.2 || laneBad x y.1 y.2))
  if xeAfmt x = 2 then
    let v := packElems 16 (ls.map (fun o => match o with
      | some y => elemAt y.1.1 16 y.2
      | none => 0))
    ([{ data := BitVec.ofNat 1024 v, poison := bad }, { data := BitVec.ofNat 1024 (v >>> 1024), poison := bad }], 0)
  else
    let g := xeAfmt x == 1
    let vs := ls.map (fun o => match o with
      | some y => laneVal x y.1 y.2
      | none => zeroNum)
    let blks := (List.range 4).map (fun b => (vs.drop (32 * b)).take 32)
    let hs := blks.map (scanHdr g)
    let cs := (blks.zip hs).flatMap (fun y => encodeBlock g y.2 (y.1.map (fun v => (Rnd.rne, v))))
    ([{ data := BitVec.ofNat 1024 (packElems 8 cs), poison := bad }], packElems 16 hs)

/-- The fault of a descriptor that writes a poisoned row; its first one is recorded (R82, R196, R386). -/
def xchPoison (d : Dev) (k : Nat) : Dev :=
  let d1 := raiseRerun (setB d (XCH_FAULT (k - 8)) XCH_FAULT_POISON true) .step
  if (eng d k 3).poisSeen then d1
  else
    report (modEng d1 k 3 (fun e => { e with poisSeen := true }))
      { cls := 0x57, kind := 5, unit := k, sub := 3, ctx := d.res.fg.getD 0, oper := xchCur d k, scope := .step }

/-- The running descriptor of die k if its OP is op and more is to be done: the descriptor, its index rows and their
assignment. The first action counts drops and reports an index out of range (R386). -/
def xchBegin (d : Dev) (k op total : Nat) : Option (Nat × List FRow × AsgSt × Nat) × Dev :=
  let x := curXch d k
  let e := eng d k 3
  if !hasXch k ∨ (edge d k).lost ∨ fenced d ∨ !e.busy ∨ xeOp x ≠ op ∨ total ≤ e.pos then (none, d)
  else
    let r := idxRows d k x
    let a := assign d x r.1
    if 0 < e.pos then (some (x, r.1, a, e.pos), d)
    else
      let i := k - 8
      let d1 := if op = 1 then
          setR (setR r.2 (XCH_DROPPED i) a.drops) (XCH_DROP_TOTAL i) (min 0xFFFFFFFF (getR r.2 (XCH_DROP_TOTAL i) + a.drops))
        else r.2
      let d2 := if a.fault then
          report (setB d1 (XCH_FAULT i) XCH_FAULT_INDEX true)
            { cls := 0x57, kind := 5, unit := k, sub := 3, ctx := d.res.fg.getD 0, oper := xchCur d k, scope := .step }
        else d1
      (some (x, r.1, a, 0), d2)

/- DISPATCH (R384) -/

/-- Data and header packets of a share tile. -/
def dataPkts (x : Nat) : Nat := ceilDiv (xeCount x * xeW x) 32
def hdrPkts (x : Nat) : Nat := if xeW x = 2 then 0 else ceilDiv (xeCount x / 16) 32

/-- Packets of a DISPATCH. -/
def dispatchTotal (d : Dev) (x : Nat) : Nat := xeExperts x * xeShare d x * (dataPkts x + hdrPkts x)

/-- The row of expert e, share tile j, feature f that a DISPATCH writes. -/
def dispatchRow (k x : Nat) (idx : List FRow) (a : AsgSt) (e j f : Nat) (d : Dev) : (List FRow × Nat) × Dev :=
  let toks := a.got.filter (fun y => y.e == e && y.slot / 128 == j)
  let tiles := (toks.map (·.tile)).eraseDups
  let rd := tiles.foldl (fun (acc : List (Nat × (Nat × Nat × Bool)) × Dev) t =>
    let r := laneArea acc.2 k x (xeSrc x) (xeSrcHdr x) (t * xeFeat x + f)
    (acc.1 ++ [(t, r.1)], r.2)) ([], d)
  let ls := (List.range 128).map (fun m => match toks.find? (fun y => y.slot % 128 == m) with
    | some y => (rd.1.find? (fun z => z.1 == y.tile)).map (fun z => (z.2, y.lane))
    | none => none)
  (formRow x ls (idx.any (·.poison)), rd.2)

/-- Rows of features lo to lo + n - 1 in turn. -/
def dispatchRows (k x : Nat) (idx : List FRow) (a : AsgSt) (e j lo : Nat) : Nat → Dev → List (List FRow × Nat) × Dev
  | 0, d => ([], d)
  | n + 1, d =>
    let r := dispatchRow k x idx a e j lo d
    let rs := dispatchRows k x idx a e j (lo + 1) n r.2
    (r.1 :: rs.1, rs.2)

/-- Rows of an exchange packet land in the module's own window by its bulk path, as R347 checks them: refused whole, or the TSO object
incremented once all have landed (R35, R347, R384). -/
def xchOwn (d : Dev) (k h : Nat) (rows : List FRow) : Dev :=
  let fail := fun (d : Dev) (code : Nat) => modEng (countRefused d k h code) k 3 (fun e => { e with bad := true })
  match reqRefusal d h with
  | some c => fail d c
  | none =>
    let w := winDesc d (hWin h)
    if !bulkLeads d k (wBase w + hOfs h) true then fail d 0x07
    else
      let r := engWritesFor (wCtx w) k (wBase w + hOfs h) rows d
      if !r.1 then fail r.2 0x08
      else if hTsoEn h then sendInc r.2 { obj := hTso h, ctx := wCtx w, amt := 1, src := 900 + k, fill := ctxFiller r.2 (wCtx w) }
      else r.2

/-- Rows of an exchange packet go to window WIN of an entry's module at byte ofs: by port A of the die in class 2, or through the
module's own window and bulk path (R35, R384). -/
def xchSend (d : Dev) (k ent ofs : Nat) (rows : List FRow) : Dev :=
  let h := fv 0 4 1 + fv 4 2 2 + fv 8 6 rows.length + fv 16 16 (myMod d) + fv 32 16 (xdModule ent) +
    fv 64 48 ofs + fv 128 13 (xdWin ent) + fv 144 16 (xdWgen ent) +
    (if xdTsoEn ent then fv 160 14 (xdTso ent) + fv 174 1 1 else 0) + fv 176 32 (getR d FAB_MEPOCH) +
    sealBits d (d.res.fg.getD 0) false
  if xdModule ent = myMod d then xchOwn d k h rows
  else
    let t := nextTag d
    engSend t.2 k 3 k { hdr := withHcrc (h + fv 48 16 t.1), rows := rows.map (·.data), pois := rows.map (·.poison) }
      { tag := t.1, dst := xdModule ent, port := k, die := k, eng := 3 }

/-- DISPATCH (R384): the next packet of a DISPATCH descriptor of die k. -/
def dispatch (k : Nat) (d : Dev) : Dev :=
  match xchBegin d k 1 (dispatchTotal d (curXch d k)) with
  | (none, d1) => d1
  | (some (x, idx, a, pos), d1) =>
    let s := xeShare d1 x
    let per := dataPkts x + hdrPkts x
    let q := pos % per
    let j := pos / per % s
    let e := pos / per / s
    let row0 := (myPos d1 1 * s + j) * xeFeat x + xeFirst x
    let ent := expDir d1 (xeDir x + e)
    let out : (List FRow × Nat) × Dev :=
      if q < dataPkts x then
        let n := min (32 / xeW x) (xeCount x - q * (32 / xeW x))
        let r := dispatchRows k x idx a e j (xeFirst x + q * (32 / xeW x)) n d1
        ((r.1.flatMap (·.1), 128 * (row0 * xeW x + 32 * q)), r.2)
      else
        let p := q - dataPkts x
        let n := min 32 (xeCount x / 16 - 32 * p)
        let r := dispatchRows k x idx a e j (xeFirst x + 512 * p) (16 * n) d1
        let hr := (List.range n).map (fun i =>
          let part := (r.1.drop (16 * i)).take 16
          ({ data := BitVec.ofNat 1024 (packElems 64 (part.map (·.2))), poison := part.any (fun y => y.1.any (·.poison)) } : FRow))
        ((hr, 128 * ((ringM1 d1 1 + 1) * s * xeFeat x + row0 / 16 + 32 * p)), r.2)
    let d2 := if out.1.1.any (·.poison) then xchPoison out.2 k else out.2
    modEng (xchSend d2 k ent out.1.2 out.1.1) k 3 (fun e => { e with pos := e.pos + 1 })

/- COMBINE (R385) -/

/-- Groups of 16 features a COMBINE writes, by rank and tile. -/
def combineTotal (x : Nat) : Nat := xeK x * xeTiles x * (xeCount x / 16)

/-- The bytes lo to lo + n - 1 of the row at address a written, the rest of it read and written back. -/
def putPart (d : Dev) (k a lo n v : Nat) (poison : Bool) : Bool × Dev :=
  if n = 0 then (true, d)
  else
    let r := engRead d k a
    engWrite r.2 k a { data := BitVec.ofNat 1024 (insBits r.1.data.toNat (8 * lo) (8 * n) v), poison := r.1.poison || poison }

/-- The headers of 16 rows written to a header array at address a, poisoned where one of the rows is (R386). -/
def putHdrs (d : Dev) (k a v : Nat) (poison : Bool) : Bool × Dev :=
  let lo := a % 128
  if lo = 0 then engWrite d k a { data := BitVec.ofNat 1024 v, poison := poison }
  else
    let r := putPart d k (a - lo) lo (128 - lo) v poison
    let s := putPart r.2 k (a - lo + 128) 0 lo (v >>> (8 * (128 - lo))) poison
    (r.1 && s.1, s.2)

/-- The row of rank r, tile t, feature f that a COMBINE writes: its headers, whether it is poisoned, and whether it landed. -/
def combineRow (k x : Nat) (idx : List FRow) (a : AsgSt) (r t f : Nat) (d : Dev) : (Nat × Bool × Bool) × Dev :=
  let toks := a.got.filter (fun y => y.rank == r && y.tile == t)
  let tiles := (toks.map (fun y => (y.e, y.slot / 128))).eraseDups
  let rd := tiles.foldl (fun (acc : List ((Nat × Nat) × (Nat × Nat × Bool)) × Dev) y =>
    let g := laneArea acc.2 k x (xeSrc x) (xeSrcHdr x) ((y.1 * xeShare d x + y.2) * xeFeat x + f)
    (acc.1 ++ [(y, g.1)], g.2)) ([], d)
  let ls := (List.range 128).map (fun l => match toks.find? (fun y => y.lane == l) with
    | some y => (rd.1.find? (fun z => z.1 == (y.e, y.slot / 128))).map (fun z => (z.2, y.slot % 128))
    | none => none)
  let o := formRow x ls (idx.any (·.poison))
  let n := r * xeStride x + t * xeFeat x + f
  let w := engWrites k (xeDst x + 128 * xeW x * n) o.1 rd.2
  ((o.2, o.1.any (·.poison), w.1), w.2)

/-- n rows of a COMBINE from feature f on. -/
def combineRows (k x : Nat) (idx : List FRow) (a : AsgSt) (r t f : Nat) : Nat → Dev → List (Nat × Bool × Bool) × Dev
  | 0, d => ([], d)
  | n + 1, d =>
    let y := combineRow k x idx a r t f d
    let ys := combineRows k x idx a r t (f + 1) n y.2
    (y.1 :: ys.1, ys.2)

/-- COMBINE (R385): the next 16 features of a COMBINE descriptor of die k. -/
def combine (k : Nat) (d : Dev) : Dev :=
  match xchBegin d k 2 (combineTotal (curXch d k)) with
  | (none, d1) => d1
  | (some (x, idx, a, pos), d1) =>
    let g := xeCount x / 16
    let f0 := xeFirst x + 16 * (pos % g)
    let t := pos / g % xeTiles x
    let r := pos / g / xeTiles x
    let rows := combineRows k x idx a r t f0 16 d1
    let pois := rows.1.any (·.2.1)
    let at_ := xeDstHdr x + 8 * (r * xeStride x + t * xeFeat x + f0)
    let h := if xeW x = 2 then (true, rows.2) else putHdrs rows.2 k at_ (packElems 64 (rows.1.map (·.1))) pois
    let d2 := if pois then xchPoison h.2 k else h.2
    modEng d2 k 3 (fun e => { e with pos := e.pos + 1, bad := e.bad || !h.1 || rows.1.any (fun y => !y.2.2) })

/-- XCH_DESC_DONE (R350, R381): every packet of the running descriptor has been answered or has timed out. -/
def xchDescDone (k : Nat) (d : Dev) : Dev :=
  let x := curXch d k
  let e := eng d k 3
  let total := if xeOp x = 1 then dispatchTotal d x else combineTotal x
  if !hasXch k ∨ !e.busy ∨ e.pos < total ∨ d.fab.outst.any (fun o => o.die == k && o.eng == 3) then d
  else
    let d1 := sendInc d { obj := xeDone x, ctx := d.res.fg.getD 0, amt := 1, src := 900 + k }
    let d2 := if e.bad then raiseRerun (setObjBit d1 (xeDone x) 91) .step else d1
    xchAt d2 k (xchCur d k + 1)

end Sys2Proof.Machine
end

