-- ==== Sys2Proof/Machine/Power.lean ====
section
/-!
DEFINITION. Machine/Power.lean: the frequency agreement, caps, droop and its stretch, regulators, header switches, power
measurement and the regulator's grant of load notes (R52, R53, R421-R445).
-/
namespace Sys2Proof.Machine

/- Small operations over the module's units -/

/-- Bit i of the SMBus ALERT word set; SMBALERT# is asserted while any is (R487, R488). -/
def raiseAlert (d : Dev) (i : Nat) : Dev :=
  setB { d with alert := insBits d.alert i 1 1 } SB_SMB SB_SMB_ALERT true

/-- The module's lost set (R36). -/
def lostSet (d : Dev) : Nat := get64 d MOD_TILE_LOST_0 MOD_TILE_LOST_1

/-- The tile's compute domain runs (R22). -/
def tileRuns (d : Dev) (t : Nat) : Bool := getF d (TILE_STATE t) TILE_STATE_COMPUTE == 1 && !baseLost d t

/-- Tile t is shed (R447). -/
def tileShed (d : Dev) (t : Nat) : Bool := getBitAt d THM_SHED_0 t

/- The frequency agreement (R52, R437-R440) -/

/-- Every member of the module's job but itself. -/
def peers (d : Dev) : List Nat :=
  ((d.fab.mem.members.map (·.1)).filter (fun m => m != myMod d))

/-- The module is a member of a job, fenced or not (R355). -/
def inJob (d : Dev) : Bool := decide (2 ≤ getF d FAB_STATE FAB_STATE_STATE)

/-- The sources of the module's ceiling (R438), in the order of FREQ_STATUS.CAUSE. -/
def ceilings (d : Dev) : List Nat :=
  let ts := (List.range 64).filter (tileRuns d)
  [min 80 (getF d TG_BUDGET TG_BUDGET_FB), getF d FREQ_MAX FREQ_MAX_CODE, d.pwr.capCeil,
   ts.foldl (fun m t => min m (getF d (TILE_CEIL t) TILE_CEIL_THERMAL)) 80,
   ts.foldl (fun m t => min m (getF d (TILE_CEIL t) TILE_CEIL_DERATE)) 80]

/-- The job frequency the agreement now gives: the lowest of the module's ceiling and the last ceilings of the members
(R439, R440). -/
def agreedCode (d : Dev) : Nat :=
  (if inJob d then peers d else []).foldl (fun m p => min m (d.fab.mem.ceils.get p 80)) (getF d FREQ_STATUS FREQ_STATUS_CEIL_MOD)

/-- A change of f_job is due at the second sentence origin from now (R439). -/
def agree (d : Dev) : Dev :=
  let c := agreedCode d
  let last := match d.pwr.pend.getLast? with
    | some x => x.1
    | none => getF d FREQ_STATUS FREQ_STATUS_F_JOB
  if c = last then d else { d with pwr := { d.pwr with pend := (d.pwr.pend.filter (fun x => x.2 != 2)) ++ [(c, 2)] } }

/-- A BEACON to one member (R359, R439). -/
def beaconTo (d : Dev) (m : Nat) : Dev :=
  (sendByGroup d { hdr := withHcrc (fv 0 4 11 + fv 16 16 (myMod d) + fv 32 16 m +
    fv 64 7 (getF d FREQ_STATUS FREQ_STATUS_CEIL_MOD) + fv 176 32 (getR d FAB_MEPOCH)) }).2

/-- A BEACON to every member (R359). -/
def beacons (d : Dev) : Dev := if inJob d then (peers d).foldl beaconTo d else d

/-- The module's ceiling after something it rests on has changed; a new one is sent to every member (R438, R439). -/
def newCeiling (d : Dev) : Dev :=
  let cs := ceilings d
  let c := cs.foldl min 80
  let cause := (cs.findIdx? (· == c)).getD 0
  let d1 := setB (setF d FREQ_STATUS FREQ_STATUS_CAUSE cause) PWR_STATUS PWR_STATUS_CAP_LIMITING (cause == 2)
  if c = getF d FREQ_STATUS FREQ_STATUS_CEIL_MOD then agree d1
  else agree (beacons (setF d1 FREQ_STATUS FREQ_STATUS_CEIL_MOD c))

/-- The frequency code in force from the coming origin on. -/
def codeNext (d : Dev) : Nat :=
  match d.pwr.pend.find? (fun x => x.2 == 1) with
  | some x => x.1
  | none => getF d FREQ_STATUS FREQ_STATUS_F_JOB

/-- The sentence length in µs at a frequency code (R52): the smallest whole number whose budget reaches the placement's. -/
def lengthAt (len fb code : Nat) : Nat :=
  if fb ≤ code then len
  else
    -- (L' - 1.064) f >= (L - 1.064) f_b, in ns and 25 MHz
    let need := (1000 * len - 1064) * (40 + fb)
    ceilDiv (ceilDiv need (40 + code) + 1064) 1000

/-- The length of the sentence a stop tick opens, in µs (R50, R52). -/
def sentenceLen (d : Dev) : Nat :=
  lengthAt (getF d TG_SENT_LEN TG_SENT_LEN_LEN) (getF d TG_BUDGET TG_BUDGET_FB) (codeNext d)

/-- Each tile's compute-rail setpoint follows a frequency code (R437). -/
def setRails (d : Dev) (code : Nat) : Dev :=
  (List.range 64).foldl (fun d t => if tileRuns d t then setF d (IVR_RAIL t) IVR_RAIL_VCOMP_MV (Config.vf t code) else d) d

/-- The f_job changes at a sentence origin: one that falls due takes effect; a rise that is due at the next origin raises the
rail now (R437, R439, R444). -/
def freqOrigin (d : Dev) : Dev :=
  let due := d.pwr.pend.find? (fun x => x.2 == 1)
  let d1 := { d with pwr := { d.pwr with pend := (d.pwr.pend.filter (fun x => x.2 != 1)).map (fun x => (x.1, x.2 - 1)) } }
  let d2 := match due with
    | none => d1
    | some x =>
      let was := getF d1 FREQ_STATUS FREQ_STATUS_F_JOB
      let d2 := setF (if x.1 = was then d1 else setR d1 FREQ_CHANGES (getR d1 FREQ_CHANGES + 1)) FREQ_STATUS FREQ_STATUS_F_JOB x.1
      { (setRails d2 x.1) with pwr := { d2.pwr with clk := min d2.pwr.clk x.1 } }
  match d2.pwr.pend.find? (fun x => x.2 == 1) with
  | some x => if getF d2 FREQ_STATUS FREQ_STATUS_F_JOB < x.1 then setRails d2 x.1 else d2
  | none => d2

/- Compute clocks inside a sentence and the droop stretch (R53, R429, R436, R442, R443) -/

/-- f_job in 25 MHz. -/
def fUnits (d : Dev) : Nat := 40 + getF d FREQ_STATUS FREQ_STATUS_F_JOB

/-- A tile's compute clock in 25/8 MHz: 0 in a fast-trip hold, 7/8 under the adaptive clock (R53). -/
def tileRate (d : Dev) (t : Nat) : Nat :=
  let f := if d.pwr.droop || d.pwr.ramp then 40 + d.pwr.clk else fUnits d
  if d.pwr.trip.contains t then 0 else if d.pwr.sag.contains t then 7 * f else 8 * f

/-- A tile's clock short of f_job, in 25/8 MHz. -/
def shortRate (d : Dev) (t : Nat) : Nat := if tileRuns d t && !d.pwr.failed then 8 * fUnits d - tileRate d t else 0

/-- Deficits counted up to t ns after the origin (R53). -/
def countTo (d : Dev) (t : Nat) : Dev :=
  let dt := t - d.pwr.defAt
  let df := (List.range 64).foldl (fun tb k => tb.put k (tb.get k 0 + dt * shortRate d k) 0) d.pwr.deficit
  { d with pwr := { d.pwr with deficit := df, defAt := max d.pwr.defAt t } }

/-- The droop stretch of the running sentence of L µs, in units of 100 ns (R53); none while a tile's clock stands and no
stretch suffices. -/
def stretchOf (d : Dev) (len : Nat) : Option Nat :=
  let span := 1000 * len - 1000
  let one := fun (t : Nat) =>
    let r := shortRate d t
    let x := d.pwr.deficit.get t 0 + r * span - r * d.pwr.defAt
    if r = 0 then some (ceilDiv (d.pwr.deficit.get t 0) (800 * fUnits d))
    else if 8 * fUnits d ≤ r then (if x = 0 then some 0 else none)
    else some (ceilDiv x (100 * (8 * fUnits d - r)))
  let ks := (List.range 64).map one
  if ks.any (·.isNone) then none
  else some (max (ceilDiv (d.pwr.defAt - span) 100) ((ks.map (·.getD 0)).foldl max 0))

/-- DROOP_WARNING (R441, R442): the first VCM sees its input below 45.0 V, t ns after the origin: droop hold begins. -/
def droopWarning (t : Nat) (d : Dev) : Dev :=
  if d.pwr.droop || d.pwr.failed then d
  else
    let d1 := countTo d t
    let clk := if d1.pwr.ramp then d1.pwr.clk else getF d FREQ_STATUS FREQ_STATUS_F_JOB
    raiseAlert (setF { d1 with pwr := { d1.pwr with droop := true, ramp := false, clk := clk } } PWR_STATUS PWR_STATUS_SUPPLY 1) 0

/-- DROOP_CLOCK_STEP (R442, R443): the compute clock steps 25 MHz, down to 1.5 GHz in the hold, up to f_job on the ramp. -/
def droopClockStep (t : Nat) (d : Dev) : Dev :=
  let d1 := countTo d t
  if d1.pwr.failed then d
  else if d1.pwr.droop then { d1 with pwr := { d1.pwr with clk := if 20 < d1.pwr.clk then d1.pwr.clk - 1 else d1.pwr.clk } }
  else if d1.pwr.ramp then
    let f := getF d FREQ_STATUS FREQ_STATUS_F_JOB
    let c := min f (d1.pwr.clk + 1)
    { d1 with pwr := { d1.pwr with clk := c, ramp := decide (c < f) } }
  else d

/-- A supply event's record (R443, R445, R470). -/
def supplyEv (d : Dev) (sc : Scope) : Ev := { cls := 0x40, kind := 6, unit := getF d MOD_ID MOD_ID_MODULE_NUMBER, scope := sc }

/-- SUPPLY_RECOVERY (R441, R443, R445): the input has stayed above 46.0 V for 50 µs at every VCM. -/
def supplyRecovery (t : Nat) (d : Dev) : Dev :=
  if d.pwr.failed then { d with pwr := { d.pwr with resume := true } }
  else if d.pwr.droop then
    let d1 := countTo d t
    let up := decide (d1.pwr.clk < getF d FREQ_STATUS FREQ_STATUS_F_JOB)
    let d2 := setF { d1 with pwr := { d1.pwr with droop := false, ramp := up } } PWR_STATUS PWR_STATUS_SUPPLY 0
    report (satF d2 PWR_DROOP_CNT PWR_DROOP_CNT_DROOP) (supplyEv d .none)
  else d

/-- POWER_FAIL (R444, R445): a VCM's input falls below 41.0 V: compute clocks stop, operations are abandoned unpoisoned, the
step ends in RERUN. -/
def powerFail (t : Nat) (d : Dev) : Dev :=
  if d.pwr.failed then d
  else
    let d1 := countTo d t
    let d2 := (List.range 320).foldl (fun d c => if (core d c).run.isSome then abandon d c ((t - 64) * fMHz d / 1000) false else d) d1
    let d3 := setF { d2 with pwr := { d2.pwr with failed := true, resume := false, droop := false, ramp := false } } PWR_STATUS PWR_STATUS_SUPPLY 2
    raiseAlert (report (satF d3 PWR_DROOP_CNT PWR_DROOP_CNT_POWERFAIL) (supplyEv d .step)) 0

/-- Compute clocks start at f_job at the origin that follows a recovery from power-fail (R445). -/
def resumeClocks (d : Dev) : Dev :=
  if d.pwr.failed && d.pwr.resume then
    setF { d with pwr := { d.pwr with failed := false, resume := false } } PWR_STATUS PWR_STATUS_SUPPLY 0
  else d

/-- RAIL_SAG (R429): tile k's rail falls 40 mV below setpoint, t ns after the origin. -/
def railSag (k t : Nat) (d : Dev) : Dev :=
  if 64 ≤ k ∨ !tileRuns d k ∨ d.pwr.sag.contains k then d
  else
    let d1 := countTo d t
    incF { d1 with pwr := { d1.pwr with sag := d1.pwr.sag ++ [k] } } (TILE_SAG_CNT k) TILE_SAG_CNT_COUNT

/-- SAG_RECOVERY (R429): the rail has been within 20 mV of setpoint for 100 ns. -/
def sagRecovery (k t : Nat) (d : Dev) : Dev :=
  if !d.pwr.sag.contains k then d
  else
    let d1 := countTo d t
    { d1 with pwr := { d1.pwr with sag := d1.pwr.sag.filter (· != k) } }

/-- FAST_TRIP (R436): tile k's compute-rail current exceeds the fast-trip current, t ns after the origin: its cores hold
issue. -/
def fastTrip (k t : Nat) (d : Dev) : Dev :=
  if 64 ≤ k ∨ !tileRuns d k ∨ d.pwr.trip.contains k then d
  else
    let d1 := countTo d t
    let d2 := incF { d1 with pwr := { d1.pwr with trip := d1.pwr.trip ++ [k] } } (TILE_FT_CNT k) TILE_FT_CNT_COUNT
    report d2 { cls := 0x25, kind := 2, unit := k, scope := .none }

/-- FAST_TRIP_RELEASE (R436): the current has stayed below 0.9 of the fast-trip current for 200 ns. -/
def fastTripRelease (k t : Nat) (d : Dev) : Dev :=
  if !d.pwr.trip.contains k then d
  else
    let d1 := countTo d t
    { d1 with pwr := { d1.pwr with trip := d1.pwr.trip.filter (· != k) } }

/- Load notes at the regulator (R228, R231, R428) -/

/-- A change of core c's coverage to a level reaches its tile's regulator, which grants the note or counts it refused (R428). -/
def noteGrant (d : Dev) (c lv : Nat) : Dev :=
  let t := c / 5
  let sum := (List.range 5).foldl (fun s i => s + (if 5 * t + i = c then lv else getF d (CL_NOTE (5 * t + i)) CL_NOTE_COVER)) 0
  -- 2.4 A a unit against 0.9 of the fast-trip current
  if d.pwr.droop || decide (9 * getF d (TILE_FT t) TILE_FT_FT_A < 24 * sum) then satF d (TILE_NOTE t) TILE_NOTE_REFUSED else d

/-- COVERAGE_CHANGE (R228, R428): 200 ns after core c's note its coverage takes the note's level. -/
def coverageChange (c : Nat) (d : Dev) : Dev :=
  if 320 ≤ c then d
  else match (core d c).note with
    | none => d
    | some lv => setCoverage (noteGrant (modCore d c (fun k => { k with note := none })) c lv) c lv

/- Caps (R432-R436) -/

/-- The effective cap in W (R432). -/
def pCap (d : Dev) : Nat := 10 * min (getF d PWR_CAP_HOST PWR_CAP_HOST_CAP) (getF d PWR_CAP_BMC PWR_CAP_BMC_CAP)

/-- Compute power of the module predicted at frequency code c, in W (R434). -/
def predict (d : Dev) (c : Nat) : Rat :=
  let fj := getF d FREQ_STATUS FREQ_STATUS_F_JOB
  (List.range 64).foldl (fun s t =>
    let num : Nat := getF d (TILE_P t) TILE_P_EST_W * (40 + c) * Config.vf t c ^ 2
    let den : Nat := (40 + fj) * Config.vf t fj ^ 2
    s + (num : Rat) / (den : Rat)) 0

/-- What a change of P_cap does at once: the fast-trip currents, in whole amperes (log 114), and the predicted cap ceiling (R434,
R436). -/
def capChanged (d : Dev) : Dev :=
  let cap := pCap d
  let ft := min 240 (max 120 (240 * cap / 12000))
  let d1 := (List.range 64).foldl (fun d t => setF d (TILE_FT t) TILE_FT_FT_A ft) d
  let a : Int := (cap : Int) - ((getF d PWR_IN_P PWR_IN_P_W : Int) - (getF d PWR_CLASS_1 PWR_CLASS_1_COMPUTE : Int))
  let c := ((List.range 81).filter (fun c => decide (predict d c ≤ (a : Rat)))).foldl max 0
  newCeiling { d1 with pwr := { d1.pwr with capCeil := c } }

/-- A write of a cap register: values outside 600 to 1,800 are ignored (R432). -/
def capWrite (a : Nat) (f : Fld) (v : Nat) (d : Dev) : Dev :=
  if v < 600 ∨ 1800 < v then d
  else
    let before := pCap d
    let d1 := setF d a f v
    if pCap d1 = before then d1 else capChanged d1

/-- CAP_CONTROL_TICK (R434): the cap ceiling after 1 ms with average input power p in W. -/
def capControlTick (p : Nat) (d : Dev) : Dev :=
  let cap := pCap d
  let c := d.pwr.capCeil
  let (c1, u) :=
    if cap < p then (c - max 1 (100 * (p - cap) / cap), 0)
    else if 100 * p < 97 * cap then
      (if d.pwr.under + 1 = 10 then (min 80 (c + 1), 0) else (c, d.pwr.under + 1))
    else (c, 0)
  let unmet := c1 == 0 && decide (cap < p)
  let was := getB d PWR_STATUS PWR_STATUS_CAP_UNMET
  let d1 := setB { d with pwr := { d.pwr with capCeil := c1, under := u } } PWR_STATUS PWR_STATUS_CAP_UNMET unmet
  newCeiling (if unmet && !was then raiseAlert d1 3 else d1)

/-- FREQ_MAX_WRITE (R438): a value above 80 is ignored. -/
def freqMaxWrite (v : Nat) (d : Dev) : Dev := if 80 < v then d else newCeiling (setF d FREQ_MAX FREQ_MAX_CODE v)

/- Measuring power (R430, R431) -/

/-- PWE_ESTIMATE (R430): tile k's estimate from the activity its cores have accumulated in 2 µs. -/
def pweEstimate (k : Nat) (acts : List Nat) (d : Dev) : Dev :=
  if 64 ≤ k ∨ baseLost d k then d
  else
    let raw := Config.pwe k (getF d (IVR_RAIL k) IVR_RAIL_VCOMP_MV) (getF d FREQ_STATUS FREQ_STATUS_F_JOB)
      (unitTemp d 1 (5 * k)) acts
    setF d (TILE_P k) TILE_P_EST_W (min 0xFFFF (getF d (TILE_CAL k) TILE_CAL_K * raw / 4096))

/-- A tile's calibration factor after a 100 µs measurement (R431). -/
def calibrate (d : Dev) (t : Nat) : Dev :=
  let k := getF d (TILE_CAL t) TILE_CAL_K
  let e := getF d (TILE_P t) TILE_P_EST_W
  if e = 0 then d
  else
    let k1 : Int := (k : Int) * ((getF d (TILE_P t) TILE_P_MEAS_W : Int) - (Config.otherLoad t d.freshN : Int)) / (e : Int)
    let k2 := (k : Int) + (k1 - k) / 16
    setF { d with freshN := d.freshN + 1 } (TILE_CAL t) TILE_CAL_K (max 3072 (min 5120 k2)).toNat

/-- VCM_POWER_SAMPLE (R431): the VCMs' input powers in W and lowest input in 10 mV, and the four class draws (R433). -/
def vcmPowerSample (ps cls : List Nat) (vin : Nat) (d : Dev) : Dev :=
  let d1 := (List.range 64).foldl (fun d t =>
    if baseLost d t then d else calibrate (setF d (TILE_P t) TILE_P_MEAS_W (ps.getD t 0)) t) d
  let d2 := setF (setF d1 PWR_IN_P PWR_IN_P_W (min 0xFFFF ps.sum)) PWR_IN_V PWR_IN_V_V vin
  let d3 := setF (setF d2 PWR_CLASS_0 PWR_CLASS_0_CONTROL (cls.getD 0 0)) PWR_CLASS_0 PWR_CLASS_0_LINKS (cls.getD 1 0)
  setF (setF d3 PWR_CLASS_1 PWR_CLASS_1_CELLAR (cls.getD 2 0)) PWR_CLASS_1 PWR_CLASS_1_COMPUTE (cls.getD 3 0)

/- Header switches (R426, R427) -/

/-- The header-switch state of core c: 0 open, 1 staging, 2 closed. -/
def hdrState (d : Dev) (c : Nat) : Nat := bits (getR d (TILE_HDR (c / 5))) (2 * (c % 5)) 2

def setHdr (d : Dev) (c v : Nat) : Dev := setR d (TILE_HDR (c / 5)) (insBits (getR d (TILE_HDR (c / 5))) (2 * (c % 5)) 2 v)

/-- A core's header switches open in one step. -/
def openHdr (d : Dev) (c : Nat) : Dev :=
  { (setHdr d c 0) with pwr := { d.pwr with stages := d.pwr.stages.put c 0 0, stageWait := d.pwr.stageWait.filter (· != c) } }

/-- The next core of tile t that waits begins to stage, if none is staging (R426). -/
def stageNext (d : Dev) (t : Nat) : Dev :=
  if (List.range 5).any (fun i => hdrState d (5 * t + i) == 1) then d
  else match d.pwr.stageWait.find? (fun c => c / 5 == t) with
    | some c => { (setHdr d c 1) with pwr := { d.pwr with stages := d.pwr.stages.put c 1 0, stageWait := d.pwr.stageWait.filter (· != c) } }
    | none => d

/-- A core is asked to close its header switches (R426, R427). -/
def closeHdr (d : Dev) (c : Nat) : Dev :=
  if hdrState d c ≠ 0 ∨ d.pwr.stageWait.contains c then d
  else stageNext { d with pwr := { d.pwr with stageWait := d.pwr.stageWait ++ [c] } } (c / 5)

/-- HEADER_STAGE (R426): core c's next stage closes; after the eighth its supply has settled and the switches are closed, or it
has not settled within 2 µs. -/
def headerStage (c : Nat) (settled : Bool) (d : Dev) : Dev :=
  if 320 ≤ c ∨ hdrState d c ≠ 1 then d
  else
    let n := d.pwr.stages.get c 0
    if n < 8 then { d with pwr := { d.pwr with stages := d.pwr.stages.put c (n + 1) 0 } }
    else if settled then
      let d1 := setHdr d c 2
      stageNext { d1 with pwr := { d1.pwr with stages := d1.pwr.stages.put c 0 0 } } (c / 5)
    else stageNext (report (openHdr d c) { cls := 0x04, kind := 1, unit := c, scope := .step }) (c / 5)

end Sys2Proof.Machine
end

