-- ==== Sys2Proof/Machine/Loss.lean ====
section
/-!
DEFINITION. Machine/Loss.lean: loss of dies, stacks and ports (R16-R21, R27, R245, R544), converter and regulator failures
(R421, R424, R425), temperatures, shedding and hard trips (R446-R450, R514), and stack temperature readout (R236, R246).
-/
namespace Sys2Proof.Machine

/- Loss -/

/-- A value for a tile's core map at the next stop tick (R23). -/
def mapAt (d : Dev) (t v : Nat) : Dev :=
  { d with flt := { d.flt with mapPend := (d.flt.mapPend.filter (fun x => x.1 != t)) ++ [(t, v)] } }

/-- Every core of tile t loses its supply: its clause ends where it stands (R427). -/
def darkCores (d : Dev) (t : Nat) : Dev :=
  (List.range 5).foldl (fun d i =>
    let c := 5 * t + i
    openHdr (if (core d c).run.isSome then abandon d c 0 false else d) c) d

/-- Slots of tile t that a core serves (R22). -/
def servedSlots (d : Dev) (t : Nat) : Nat := ((List.range 4).filter (fun q => slotCoreNo d t q != 7)).length

/-- Tile t joins the module's lost set; a step in progress ends in RERUN (R36, R376). -/
def markLost (d : Dev) (t : Nat) : Dev := raiseRerun (setBitAt d MOD_TILE_LOST_0 t true) .step

/-- What the loss of a tile's cores does to MOD_CORES (R38). -/
def dropCores (d : Dev) (t : Nat) : Dev :=
  let d1 := setF d MOD_CORES MOD_CORES_ASSIGNED (getF d MOD_CORES MOD_CORES_ASSIGNED - servedSlots d t)
  if bits (getR d (TILE_CORE_MAP t)) 16 3 = 7 then d1
  else setF d1 MOD_CORES MOD_CORES_SPARES (getF d1 MOD_CORES MOD_CORES_SPARES - 1)

/-- Takeovers on tile t are abandoned (R460). -/
def dropTakeover (d : Dev) (t : Nat) : Dev :=
  let rest := d.flt.takeovers.filter (fun k => k.tile != t)
  setB { d with flt := { d.flt with takeovers := rest } } FLT_STATUS FLT_STATUS_TAKEOVER (!rest.isEmpty)

/-- Sags, trips and shedding of a tile whose die is lost are over: a shed tile that is lost does not come back (R448, R544). -/
def forgetTile (d : Dev) (t : Nat) : Dev :=
  setBitAt { d with
    pwr := { d.pwr with sag := d.pwr.sag.filter (· != t), trip := d.pwr.trip.filter (· != t) }
    heat := { d.heat with fillerShed := d.heat.fillerShed.filter (· != t), shedDue := d.heat.shedDue.filter (· != t) } } THM_SHED_0 t false

/-- The sync objects of tile t are gone, with the entries that wait for them (R31). -/
def dropObjs (d : Dev) (t : Nat) : Dev :=
  { d with regs := d.regs.cut (objAddr (256 * t)) (objAddr (256 * t) + 4096), waits := d.waits.filter (fun w => w.1 / 256 != t) }

/-- Tile t's compute die is lost (R16, R460, R544). -/
def loseCompute (d : Dev) (t : Nat) : Dev :=
  if 64 ≤ t ∨ getF d (TILE_STATE t) TILE_STATE_COMPUTE = 3 then d
  else
    let d1 := dropCores (darkCores (dropTakeover d t) t) t
    newCeiling (markLost (mapAt (setF (forgetTile d1 t) (TILE_STATE t) TILE_STATE_COMPUTE 3) t 0x77777) t)

/-- Stack n is declared lost (R245); committed state in it is lost (R464). -/
def loseStack (d : Dev) (n : Nat) : Dev :=
  if stackLost d n then d
  else
    let d1 := setB d (CC_STATUS (n / 2) (n % 2)) CC_STATUS_STACK_LOST true
    raiseRerun { d1 with flt := { d1.flt with stateLost := true } } .step

/-- Tile t's base die is lost: the tile is dark (R17, R464, R544). -/
def loseBase (d : Dev) (t : Nat) : Dev :=
  if 64 ≤ t ∨ baseLost d t then d
  else
    let d1 := if getF d (TILE_STATE t) TILE_STATE_COMPUTE = 3 then d else dropCores (darkCores (dropTakeover d t) t) t
    let d2 := setB (setB (setF d1 (TILE_STATE t) TILE_STATE_COMPUTE 3) (TILE_STATE t) TILE_STATE_ROUTER_ON false)
      (TILE_STATE t) TILE_STATE_BASE_LOST true
    let d3 := loseStack (loseStack (markLost (mapAt d2 t 0x77777) t) (2 * t)) (2 * t + 1)
    let d4 := forgetTile (dropObjs { d3 with flits := d3.flits.filter (fun f => f.tile != t),
                                             deliveries := d3.deliveries.filter (fun v => v.tile != t) } t) t
    newCeiling (if (ueSt d4 t).busy then ueEnd d4 t else d4)

/-- A port is lost until cold reset (R333, R470). -/
def losePort (d : Dev) (p : Nat) : Dev := showStages (modPort (setGpState d p 4) p emptied)

/-- Edge die k is lost: both its ports and its attachments (R27). -/
def loseEdge (d : Dev) (k : Nat) : Dev :=
  if (edge d k).lost then d
  else
    let e : Edge := { lost := true }
    raiseRerun (losePort (losePort (modEdge d k (fun _ => e)) k) (k + 16)) .step

/- Converters and regulators -/

/-- VCM_FAULT (R421): VCM n is off. -/
def vcmFault (n : Nat) (d : Dev) : Dev :=
  if 72 ≤ n ∨ d.pwr.vcmOff.contains n then d
  else
    let d1 := raiseAlert { d with pwr := { d.pwr with vcmOff := d.pwr.vcmOff ++ [n] } } 2
    let d2 := report d1 { cls := 0x24, kind := 8, unit := n, scope := .step }
    if n < 64 then loseBase d2 n else loseEdge (loseEdge d2 (2 * (n - 64))) (2 * (n - 64) + 1)

/-- IVR_CELL_FAIL (R424, R425): cell i of tile t's regulators fails. -/
def ivrCellFail (t i : Nat) (d : Dev) : Dev :=
  if 64 ≤ t ∨ 48 ≤ i ∨ baseLost d t ∨ getBitAt d (IVR_FAILED_LO t) i then d
  else
    let g := i / 4
    let second := (List.range 4).any (fun j => getBitAt d (IVR_FAILED_LO t) (4 * g + j))
    let ev : Ev := { cls := 0x22, kind := 2, unit := t, sub := i, oper := g, scope := if second then .step else .none }
    let d1 := report (setBitAt d (IVR_FAILED_LO t) i true) ev
    if !second then
      newCeiling (setF d1 (TILE_CEIL t) TILE_CEIL_DERATE
        (min (getF d FREQ_STATUS FREQ_STATUS_F_JOB) (getF d (TILE_CEIL t) TILE_CEIL_DERATE) - 2))
    else if g < 10 then loseCompute d1 t
    else loseBase d1 t

/- Regions on a tile (R366, R369) -/

/-- Region descriptor n. -/
def region (d : Dev) (n : Nat) : Nat := getWords d (PLC_REGION n 0) 16

/-- Valid regions with a slot on tile t. -/
def tileRegions (d : Dev) (t : Nat) : List Nat :=
  ((List.range 256).map (region d)).filter (fun r => bit r 328 && bits r (4 * t) 4 != 0)

/-- A tile carries a foreground region (R447). -/
def carriesFg (d : Dev) (t : Nat) : Bool := (tileRegions d t).any (fun r => !bit r 329)

/-- Shedding of tile t is allowed for each of its regions (R369). -/
def mayShed (d : Dev) (t : Nat) : Bool :=
  (tileRegions d t).all (fun r => bit r 330 && (bit r 329 || d.staged.any (fun p => bits p.hdr 64 64 == lostSet d ||| 2 ^ t)))

/- Temperatures -/

/-- Readings of a tile's working sensors: base sensors 0-3, compute sensors 4 and 5 (R446, R514). -/
def working (d : Dev) (t : Nat) (rs : List Int) : List Int :=
  ((List.range 6).filter (fun i => !d.heat.sensorBad.contains (6 * t + i))).map (fun i => rs.getD i 0)

/-- The median of a list of readings: the lower middle one of an even number (log 31). -/
def median (l : List Int) : Int := (l.mergeSort (· ≤ ·)).getD ((l.length - 1) / 2) 0

/-- A sensor is marked failed (R514). -/
def failSensor (d : Dev) (t i : Nat) : Dev :=
  if d.heat.sensorBad.contains (6 * t + i) then d
  else
    let d1 := setBitAt { d with heat := { d.heat with sensorBad := d.heat.sensorBad ++ [6 * t + i] } } SNS_FAILED_0 t true
    report d1 { cls := 0x23, kind := 2, unit := t, sub := i }

/-- One sensor's reading is judged against the others of its die (R514). -/
def judgeSensor (rs : List Int) (t : Nat) (d : Dev) (i : Nat) : Dev :=
  let x := rs.getD i 0
  let die := if i < 4 then [0, 1, 2, 3] else [4, 5]
  let others := (die.filter (fun j => j != i && !d.heat.sensorBad.contains (6 * t + j))).map (fun j => rs.getD j 0)
  if d.heat.sensorBad.contains (6 * t + i) then d
  else if x < -20 ∨ 150 < x then failSensor d t i
  else
    let off := !others.isEmpty && decide (20 < (x - median others).natAbs)
    let n := if off then d.heat.sensorRun.get (6 * t + i) 0 + 1 else 0
    let d1 := { d with heat := { d.heat with sensorRun := d.heat.sensorRun.put (6 * t + i) n 0 } }
    if 10 ≤ n then failSensor d1 t i else d1

/-- A hard trip of a tile's compute die or base die (R449). -/
def hardTrip (d : Dev) (t : Nat) (base : Bool) : Dev :=
  if (if base then baseLost d t else getF d (TILE_STATE t) TILE_STATE_COMPUTE == 3) then d
  else
    let d1 := raiseAlert (report d { cls := 0x23, kind := 2, unit := t, sub := if base then 0 else 4, scope := .step }) 1
    if base then loseBase d1 t else loseCompute d1 t

def asByte (x : Int) : Nat := min 255 x.toNat

/-- One tile's 1 ms sample (R446, R449, R514). -/
def sampleTile (d : Dev) (x : Nat × List Int) : Dev :=
  let t := x.1
  let rs := x.2
  if 64 ≤ t ∨ baseLost d t then d
  else
    let d1 := (List.range 4).foldl (fun d i => setF d (TILE_TEMP_0 t) ⟨8 * i, 8⟩ (asByte (rs.getD i 0))) d
    let d2 := (List.range 2).foldl (fun d i => setF d (TILE_TEMP_1 t) ⟨8 * i, 8⟩ (asByte (rs.getD (4 + i) 0))) d1
    let d3 := (List.range 6).foldl (judgeSensor rs t) d2
    let ok := fun (i : Nat) => !d3.heat.sensorBad.contains (6 * t + i)
    let j := (working d3 t rs).foldl max 0
    let run := fun (tb : Tbl Nat) (b : Bool) => tb.put t (if b then tb.get t 0 + 1 else 0) 0
    let d4 := { d3 with heat := { d3.heat with
      junction := d3.heat.junction.put t j.toNat 0
      hot := run d3.heat.hot (decide (105 ≤ j))
      cool := run d3.heat.cool (decide (j < 90))
      raised := if j < 90 then d3.heat.raised else d3.heat.raised.put t 0 0 } }
    let baseHot := (List.range 4).any (fun i => ok i && decide (115 ≤ rs.getD i 0)) || !((List.range 4).any ok)
    let compHot := [4, 5].any (fun i => ok i && decide (115 ≤ rs.getD i 0)) || !([4, 5].any ok)
    let d5 := if compHot then hardTrip d4 t false else d4
    if baseHot then hardTrip d5 t true else d5

/-- The hottest junction of the module and its tile (R451). -/
def showMax (d : Dev) : Dev :=
  let ts := (List.range 64).filter (fun t => !baseLost d t)
  let m := ts.foldl (fun m t => max m (d.heat.junction.get t 0)) 0
  setF (setF d THM_MAX THM_MAX_TEMP_C (min 255 m)) THM_MAX THM_MAX_TILE ((ts.find? (fun t => d.heat.junction.get t 0 == m)).getD 0)

/-- THERMAL_EVALUATION (R446, R450): the 10 ms evaluation of every tile. -/
def thermalEvaluation (d : Dev) : Dev :=
  newCeiling ((List.range 64).foldl (fun d t =>
    if baseLost d t then d
    else
      let c := getF d (TILE_CEIL t) TILE_CEIL_THERMAL
      let stack := max (getF d (CC_TEMP t 0) CC_TEMP_TEMP_C) (getF d (CC_TEMP t 1) CC_TEMP_TEMP_C)
      if 10 ≤ d.heat.hot.get t 0 then
        if tileRuns d t && mayShed d t then { d with heat := { d.heat with shedDue := (d.heat.shedDue.filter (· != t)) ++ [t] } }
        else setF d (TILE_CEIL t) TILE_CEIL_THERMAL (c - 8)
      else if 95 < d.heat.junction.get t 0 ∨ 95 < stack then setF d (TILE_CEIL t) TILE_CEIL_THERMAL (c - 1)
      else d) d)

/-- THERMAL_CEILING_RAISE (R446): tile t has been below 90 °C for 100 ms. -/
def thermalCeilingRaise (t : Nat) (d : Dev) : Dev :=
  if 64 ≤ t ∨ d.heat.cool.get t 0 < d.heat.raised.get t 0 + 100 then d
  else
    let d1 := { d with heat := { d.heat with raised := d.heat.raised.put t (d.heat.raised.get t 0 + 100) 0 } }
    newCeiling (setF d1 (TILE_CEIL t) TILE_CEIL_THERMAL (min 80 (getF d (TILE_CEIL t) TILE_CEIL_THERMAL + 1)))

/-- Tiles whose shedding condition holds are shed at this origin (R447). -/
def shedDue (d : Dev) : Dev :=
  d.heat.shedDue.foldl (fun d t =>
    -- a tile shed just before may have taken the lost set its package is for (R369)
    if !tileRuns d t || !mayShed d t then d
    else
      let fg := carriesFg d t
      let d1 := raiseAlert (report (darkCores d t) { cls := 0x23, kind := 2, unit := t, scope := if fg then .step else .none }) 1
      let d2 := setBitAt (setF d1 (TILE_STATE t) TILE_STATE_COMPUTE 2) THM_SHED_0 t true
      newCeiling (if fg then markLost d2 t else { d2 with heat := { d2.heat with fillerShed := d2.heat.fillerShed ++ [t] } }))
    { d with heat := { d.heat with shedDue := [] } }

/-- A shed tile comes back: its cores stage and run from the next origin (R426, R448). -/
def returnTile (d : Dev) (t : Nat) : Dev :=
  let d1 := setBitAt (setF d (TILE_STATE t) TILE_STATE_COMPUTE 1) THM_SHED_0 t false
  let d2 := (List.range 4).foldl (fun d q => match slotCore d t q with
    | some c => closeHdr d c
    | none => d) { d1 with heat := { d1.heat with fillerShed := d1.heat.fillerShed.filter (· != t) } }
  newCeiling d2

/-- SHED_RETURN (R448): a tile shed with filler regions only has had every sensor below 90 °C for 1 s. -/
def shedReturn (t : Nat) (d : Dev) : Dev :=
  if !d.heat.fillerShed.contains t ∨ d.heat.cool.get t 0 < 1000 then d else returnTile d t

/-- STACK_TEMP_READ (R236, R246, R450): stack n's temperature readout. -/
def stackTempRead (n temp : Nat) (d : Dev) : Dev :=
  if 128 ≤ n ∨ baseLost d (n / 2) then d
  else
    let a := CC_STATUS (n / 2) (n % 2)
    let d1 := setB (setF d (CC_TEMP (n / 2) (n % 2)) CC_TEMP_TEMP_C (min 255 temp)) a CC_STATUS_HOT (decide (85 < temp))
    let k := if 105 ≤ temp then d.heat.stackHot.get n 0 + 1 else 0
    let d2 := { d1 with heat := { d1.heat with stackHot := d1.heat.stackHot.put n k 0 } }
    if 10 ≤ k ∧ !stackLost d2 n then loseStack (report d2 { cls := 0x12, kind := 3, unit := n, scope := .step }) n else d2

end Sys2Proof.Machine
end

