-- ==== Sys2Proof/Machine/Member.lean ====
section
/-!
DEFINITION. Machine/Member.lean: joining a job, presence and quorum, fencing, the hold timer and leaving (R355-R361, R411,
R439).
-/
namespace Sys2Proof.Machine

/- The membership record (R356) -/

/-- w bits of byte ofs of a record. -/
def at8 (v ofs w : Nat) : Nat := bits v (8 * ofs) w

def mrJob (v : Nat) : Nat := at8 v 8 64
def mrEpoch (v : Nat) : Nat := at8 v 16 32
def mrM (v : Nat) : Nat := at8 v 20 32
def mrN (v a : Nat) : Nat := at8 v (24 + 2 * a) 16
def mrAnchor (v : Nat) : Nat := at8 v 30 16
def mrNwin (v : Nat) : Nat := at8 v 38 16

/-- Members of a record: module number and position. -/
def mrMembers (v : Nat) : List (Nat × Nat × Nat × Nat) :=
  (List.range (mrM v)).map (fun i =>
    let o := 64 + 8 * i
    (at8 v o 16, at8 v (o + 2) 16, at8 v (o + 4) 16, at8 v (o + 6) 16))

/-- Windows of a record: number, six zero bytes, image. -/
def mrWins (v : Nat) : List (Nat × Nat × Nat) :=
  (List.range (mrNwin v)).map (fun i =>
    let o := 64 + 8 * mrM v + 72 * i
    (at8 v o 16, at8 v (o + 2) 48, at8 v (o + 8) 512))

/-- The record passes every check of R356. -/
def mrOk (d : Dev) (v n : Nat) : Bool :=
  let ms := mrMembers v
  let ws := mrWins v
  let ps := ms.map (·.2)
  decide (64 ≤ n) && at8 v 0 32 == 1 && at8 v 4 32 == n && decide (1 ≤ mrM v) && decide (mrM v ≤ 65536) && decide (mrNwin v ≤ 8192) &&
    n == 64 + 8 * mrM v + 72 * mrNwin v && at8 v 40 192 == 0 && ws.all (fun w => w.2.1 == 0) &&
    mrEpoch v != 0 && mrEpoch v != d.fab.mem.prevEpoch &&
    [0, 1, 2].all (fun a => decide (1 ≤ mrN v a) && decide (mrN v a ≤ 4096)) && mrN v 0 * mrN v 1 * mrN v 2 == mrM v &&
    (ms.map (·.1)).eraseDups.length == ms.length && ps.eraseDups.length == ms.length &&
    ps.all (fun p => decide (p.1 < mrN v 0) && decide (p.2.1 < mrN v 1) && decide (p.2.2 < mrN v 2)) &&
    ms.any (fun m => m.1 == myMod d) && ms.contains (mrAnchor v, 0, 0, 0) &&
    decide (10 ≤ at8 v 32 16 ∧ at8 v 32 16 ≤ 10000) && decide (100 ≤ at8 v 34 16 ∧ at8 v 34 16 ≤ 10000) &&
    decide (1 ≤ at8 v 36 16 ∧ at8 v 36 16 ≤ 3600) &&
    (ws.map (·.1)).eraseDups.length == ws.length && ws.all (fun w => winOk d w.1 w.2.2 (mrEpoch v))

/-- One ring of the record: the members that share the module's other two coordinates, by position (R297). -/
def mrRing (v a : Nat) (me : Nat × Nat × Nat) : List (Nat × Nat) :=
  (mrMembers v).filterMap (fun m =>
    let p := m.2
    match a with
    | 0 => if p.2.1 = me.2.1 ∧ p.2.2 = me.2.2 then some (p.1, m.1) else none
    | 1 => if p.1 = me.1 ∧ p.2.2 = me.2.2 then some (p.2.1, m.1) else none
    | _ => if p.1 = me.1 ∧ p.2.1 = me.2.1 then some (p.2.2, m.1) else none)

/-- Entry i of ring a. -/
def setRing (d : Dev) (a : Nat) (e : Nat × Nat) : Dev :=
  let r := JOB_RING a (e.1 / 2)
  setR d r (insBits (getR d r) (16 * (e.1 % 2)) 16 e.2)

/-- The record's members, geometry and limits loaded (R297, R356). -/
def loadGeometry (d : Dev) (v : Nat) : Dev :=
  let me := (((mrMembers v).find? (fun m => m.1 == myMod d)).map (·.2)).getD (0, 0, 0)
  let d1 := setR (setR d JOB_POS_0 (me.1 + me.2.1 <<< 16)) JOB_POS_1 me.2.2
  let d2 := setR (setR d1 JOB_SIZE_0 (mrN v 0 - 1 + (mrN v 1 - 1) <<< 16)) JOB_SIZE_1 (mrN v 2 - 1)
  let d3 := setR (setR (set64 (setR d2 JOB_ANCHOR (mrAnchor v)) FAB_JOB_LO FAB_JOB_HI (mrJob v)) FAB_MEMBERS (mrM v))
    FAB_MCAST_HOLD (at8 v 32 16)
  let d4 := setR (setR d3 FAB_TXN_TO (at8 v 34 16)) FAB_VHOLD (at8 v 36 16)
  showRoots ([0, 1, 2].foldl (fun d a => (mrRing v a me).foldl (fun d e => setRing d a e) d) d4)

/- JOIN packets (R357) -/

/-- The JOIN parts of this module: its windows in parts of 1,012, at least one part. -/
def joinParts (wins : List Nat) : List (List Nat) :=
  (List.range (max 1 (ceilDiv wins.length 1012))).map (fun i => (wins.drop (1012 * i)).take 1012)

/-- The W1 setting of the foreground context (R98). -/
def fgW1 (d : Dev) : Nat := match d.res.fg with
  | some c => ctxBits d c 3 1
  | none => 0

/-- The rows of one JOIN part. -/
def joinRows (d : Dev) (job epoch part parts : Nat) (wins : List Nat) : List Row :=
  let head := fv 0 64 job + fv 64 32 epoch + fv 96 8 (getF d FAB_LEVEL FAB_LEVEL_NUM_LEVEL) +
    fv 104 8 (getF d FAB_LEVEL FAB_LEVEL_LINK_LEVEL) + fv 112 1 (fgW1 d) + fv 128 16 wins.length + fv 144 16 part +
    fv 160 16 parts + fv 192 64 (get64 d STEP_EPOCH_LO STEP_EPOCH_HI) + fv 256 64 (stepNo d)
  let v := (wins.zip (List.range wins.length)).foldl (fun acc w =>
    acc + (fv 0 13 w.1 + fv 16 16 (wGen (winDesc d w.1))) <<< (384 + 32 * w.2)) head
  (List.range (ceilDiv (48 + 4 * wins.length) 128)).map (fun i => BitVec.ofNat 1024 (v >>> (1024 * i)))

/-- The JOIN of this module sent to one member: a JOIN part's rows travel in packets of up to 32 rows, one packet a part. -/
def sendJoin (job epoch : Nat) (d : Dev) (m : Nat) : Dev :=
  let ps := joinParts d.fab.mem.joinWins
  (ps.zip (List.range ps.length)).foldl (fun d p =>
    let rows := joinRows d job epoch p.2 ps.length p.1
    let h := fv 0 4 12 + fv 8 6 rows.length + fv 16 16 (myMod d) + fv 32 16 m +
      fv 64 7 (getF d FREQ_STATUS FREQ_STATUS_CEIL_MOD) + fv 176 32 epoch
    (sendByGroup d { hdr := BitVec.ofNat 256 h, rows := rows, pois := rows.map (fun _ => false) }).2) d

def setMem (d : Dev) (m : Member) : Dev := { d with fab := { d.fab with mem := m } }

/-- Windows that are closed when a join fails or the module leaves: those of the record and every one of the epoch (R345). -/
def closeJobWins (d : Dev) (epoch : Nat) : Dev :=
  let ws := d.fab.mem.joinWins ++ (if epoch = 0 then [] else openWins d (fun w => wEpoch w == epoch))
  ws.eraseDups.foldl (fun d n => if wValid (winDesc d n) then closeWin d n none else d) d

/-- The control-block geometry of no job. -/
def noGeometry (d : Dev) : Dev :=
  let d1 := setR (setR (setR (setR (setR d JOB_POS_0 0) JOB_POS_1 0) JOB_SIZE_0 0) JOB_SIZE_1 0) JOB_ANCHOR 0
  let d2 := setB (setB (setR (set64 (setR d1 FAB_MEMBERS 0) FAB_JOB_LO FAB_JOB_HI 0) FAB_REACH 0) VRD_STATUS VRD_STATUS_ROOT_X false)
    VRD_STATUS VRD_STATUS_ANCHOR false
  { d2 with regs := (d2.regs.cut (FAB_PRESENT 0) (FAB_PRESENT 2048)).cut (JOB_RING 0 0) (JOB_RING 3 0) }

/-- A join under way fails with a status (R355, R357). -/
def failJoin (d : Dev) (status : Nat) : Dev :=
  match d.fab.mem.joining with
  | none => d
  | some (e, tag) =>
    let d1 := setF (noGeometry (closeJobWins d e)) FAB_STATE FAB_STATE_STATE 0
    postCq (setMem d1 { d1.fab.mem with joining := none, joinWins := [], members := [], joins := [] }) 1 status tag 0 0 0

/- WGEN (R357) -/

/-- The generation a member listed for one of its windows. -/
def listedGen (d : Dev) (m win : Nat) : Option Nat :=
  if m = myMod d then (if wValid (winDesc d win) then some (wGen (winDesc d win)) else none)
  else match d.fab.mem.joins.find? (fun j => j.src == m) with
    | some j => (j.wins.find? (fun w => w.1 == win)).map (·.2)
    | none => none

/-- The module is named in the record under load. -/
def isMember (d : Dev) (m : Nat) : Bool := d.fab.mem.members.any (fun x => x.1 == m)

/-- WGEN fields of the transfer descriptors of die k filled; false where a member did not list the window. -/
def fillXfer (s : Bool × Dev) (k : Nat) : Bool × Dev :=
  (List.range (getF s.2 (XFER_QLEN k) XFER_QLEN_LEN)).foldl (fun s n =>
    let x := xferDesc s.2 k n
    if tdOp x = 3 ∨ !isMember s.2 (tdDst x) then s
    else match listedGen s.2 (tdDst x) (bits x 160 13) with
      | some g => (s.1, setWords s.2 (XFER_DESC k n 0) 16 (insBits x 176 16 g))
      | none => (false, s.2)) s

/-- WGEN fields of the multicast lists of die k filled. -/
def fillMcast (s : Bool × Dev) (k : Nat) : Bool × Dev :=
  (List.range 1024).foldl (fun s i =>
    let e := mcEntry s.2 k (i / 64) (i % 64)
    if !bit e 31 ∨ !isMember s.2 (bits e 0 16) then s
    else match listedGen s.2 (bits e 0 16) (bits e 16 13) with
      | some g => (s.1, setWords s.2 (MCP_LIST k (i / 64) (i % 64) 0) 2 (insBits e 32 16 g))
      | none => (false, s.2)) s

/-- Entries of the expert directory that are in use. -/
def dirEntries (d : Dev) : List Nat :=
  ((d.regs.filter (fun c => decide (EXP_DIR 0 0 ≤ c.1) && decide (c.1 < EXP_DIR 32768 0))).map (fun c => (c.1 - EXP_DIR 0 0) / 16)).eraseDups.filter
    (fun n => xdValid (expDir d n))

/-- WGEN fields of the expert directory filled; false also where an entry names a module off the Y ring (R380). -/
def fillDir (s : Bool × Dev) : Bool × Dev :=
  (dirEntries s.2).foldl (fun s n =>
    let e := expDir s.2 n
    let onY := (List.range (ringM1 s.2 1 + 1)).any (fun i => ringMod s.2 1 i == xdModule e)
    match listedGen s.2 (xdModule e) (xdWin e) with
    | some g => (s.1 && onY, setWords s.2 (EXP_DIR n 0) 4 (insBits e 64 16 g))
    | none => (false, s.2)) s

/-- Every WGEN filled from the members' lists; false where a member did not list a window. -/
def fillWgens (d : Dev) : Bool × Dev :=
  fillDir ((List.range 16).foldl fillMcast ((List.range 16).foldl fillXfer (true, d)))

/- Link session keys (R411) -/

/-- The session key of a context's link key for a job and an epoch. -/
def sessionKey (kl job epoch : Nat) : BitVec 256 :=
  BitVec.ofNat 256 (natOfBytes ((sha384 ([79, 90, 87, 50, 32, 76, 73, 78, 75] ++ bytesOf 32 kl ++ bytesOf 8 job ++ bytesOf 4 epoch)).take 32))

/-- Contexts that are defined. -/
def definedCtxs (d : Dev) : List Nat :=
  ((d.regs.filter (fun c => decide (CTX_DESC 0 0 ≤ c.1) && decide (c.1 < CTX_DESC 16384 0))).map (fun c => (c.1 - CTX_DESC 0 0) / 64)).eraseDups.filter
    (fun n => ctxBits d n 0 1 == 1)

/-- The link slots of the protected contexts of a job hold its session keys; every port's counters for them start at 1. -/
def installKeys (d : Dev) (job epoch : Nat) : Dev :=
  (definedCtxs d).foldl (fun d c =>
    let s := ctxBits d c 16 8
    if ctxBits d c 1 1 = 1 ∧ ctxBits d c 128 64 = job ∧ 2 ≤ ctxBits d c 5 3 ∧ s ≠ 0 then
      let d1 := { d with fab := { d.fab with
        linkKeys := d.fab.linkKeys.put s (sessionKey (d.ctxKeys.get c {}).kl.toNat job epoch) 0 } }
      (List.range 32).foldl (fun d p => modPort d p (fun g =>
        let ws := g.wins.filter (fun w => w.slot != s)
        { g with sealCtr := g.sealCtr.put s 1 1, wins := ws })) d1
    else d) d

/- Presence and quorum (R359, R360) -/

/-- Member m is reachable. -/
def reachable (d : Dev) (m : Nat) : Bool := m == myMod d || getBitAt d (FAB_PRESENT 0) m

/-- Reachability counted again: R, quorum, fencing; paused work resumes when quorum returns. -/
def judgeQuorum (d : Dev) : Dev :=
  if !inJob d then d
  else
    let ms := d.fab.mem.members.map (·.1)
    let r := (ms.filter (reachable d)).length
    let m := ms.length
    let q := decide (m < 2 * r) || (2 * r == m && reachable d (getF d JOB_ANCHOR JOB_ANCHOR_MODULE))
    let was := fenced d
    let d1 := setB (setF (setR d FAB_REACH r) FAB_STATE FAB_STATE_STATE (if q then 2 else 3)) FAB_STATE FAB_STATE_QUORUM q
    let d2 := (List.range 16).foldl (fun d k =>
      let d1 := setB d (XFER_STATUS k) XFER_STATUS_PAUSED (!q)
      if 8 ≤ k then setB d1 (XCH_STATUS (k - 8)) XCH_STATUS_PAUSED (!q) else d1) d1
    if was && q then flushSync d2 else d2

/-- The hold timer starts, if it does not run (R361). -/
def startHold (d : Dev) : Dev :=
  if !inJob d ∨ d.fab.mem.hold.isSome then d
  else setB (setMem d { d.fab.mem with hold := some d.now }) FAB_STATE FAB_STATE_HOLDING true

/-- The hold timer stops: a final verdict record has been applied (R361). -/
def stopHold (d : Dev) : Dev := setB (setMem d { d.fab.mem with hold := none }) FAB_STATE FAB_STATE_HOLDING false

/- Joining -/

/-- A JOIN of member m is complete (R357). -/
def joinDone (d : Dev) (m job epoch : Nat) : Bool :=
  d.fab.mem.joins.any (fun j => j.src == m && j.job == job && j.epoch == epoch && decide (j.parts ≤ j.seen.length))

/-- The join completes once every member's JOIN has arrived (R355, R357, R411, R439); another member is reachable from its first BEACON
of the epoch on (R359). -/
def tryJoin (d : Dev) : Dev :=
  match d.fab.mem.joining with
  | none => d
  | some (e, tag) =>
    let job := get64 d FAB_JOB_LO FAB_JOB_HI
    let ps := peers d
    if !ps.all (fun m => joinDone d m job e) then d
    else
      let js := d.fab.mem.joins.filter (fun j => ps.contains j.src && j.job == job && j.epoch == e)
      if js.any (fun j => j.level != getF d FAB_LEVEL FAB_LEVEL_NUM_LEVEL) then failJoin d 6
      else if js.any (fun j => j.w1 != fgW1 d) then failJoin d 7
      else if js.any (fun j => j.resEpoch != get64 d STEP_EPOCH_LO STEP_EPOCH_HI || j.resStep != stepNo d) then failJoin d 0xB
      else
        let f := fillWgens (setMem d { d.fab.mem with joins := js })
        if !f.1 then failJoin d 0xA
        else
          let d1 := setF (setR f.2 FAB_MEPOCH e) FAB_STATE FAB_STATE_STATE 2
          let d2 := setBitAt d1 (FAB_PRESENT 0) (myMod d1) true
          let m1 := d2.fab.mem
          let d3 := setMem d2 { m1 with joining := none, prevEpoch := e, hold := none,
                                        ceils := js.foldl (fun t j => t.put j.src j.ceil 80) [] }
          flushSync (agree (judgeQuorum (showStages (installKeys (postCq d3 1 0 tag 0 0 0) job e))))

/-- A membership record is loaded: geometry, limits and windows; JOIN packets go to every member (R355-R357). -/
def startJoin (d : Dev) (tag v : Nat) : Dev :=
  let d1 := loadGeometry d v
  let ws := mrWins v
  let d2 := ws.foldl (fun d w => openWin d w.1 w.2.2) d1
  let m := d2.fab.mem
  let d3 := setF (setMem d2 { m with members := mrMembers v, joining := some (mrEpoch v, tag), joinWins := ws.map (·.1), ceils := [] })
    FAB_STATE FAB_STATE_STATE 1
  tryJoin ((peers d3).foldl (sendJoin (mrJob v) (mrEpoch v)) d3)

/-- JOIN_PACKET (R355, R357): a JOIN part arrives. -/
def joinPacket (p n : Nat) (d : Dev) : Dev :=
  match takePkt d p n 12 with
  | (some x, d1) => match openRows d1 p x with
    | (none, d2) => integrityFault d2 p x.p.hdr.toNat
    | (some rows, d2) =>
      let h := x.p.hdr.toNat
      let v := (rows.zip (List.range rows.length)).foldl (fun acc r => acc + r.1.data.toNat <<< (1024 * r.2)) 0
      let nw := bits v 128 16
      let part := bits v 144 16
      let same := fun (j : JoinRx) => j.src == hSrc h && j.job == bits v 0 64 && j.epoch == bits v 64 32
      let j0 : JoinRx := (d2.fab.mem.joins.find? same).getD
        { src := hSrc h, job := bits v 0 64, epoch := bits v 64 32, parts := bits v 160 16, seen := [],
          level := bits v 96 8, w1 := bits v 112 1, resEpoch := bits v 192 64, resStep := bits v 256 64, ceil := bits h 64 7 }
      if j0.seen.contains part ∨ j0.parts ≤ part then d2
      else
        let ws := (List.range (min nw 1012)).map (fun i => (bits v (384 + 32 * i) 13, bits v (400 + 32 * i) 16))
        let j1 : JoinRx := { j0 with seen := j0.seen ++ [part], wins := j0.wins ++ ws }
        let m := d2.fab.mem
        tryJoin (setMem d2 { m with joins := m.joins.filter (fun j => !same j) ++ [j1] })
  | (none, _) => d

/-- JOIN_TIMEOUT (R355): a join has not completed within 10 s. -/
def joinTimeout (d : Dev) : Dev := failJoin d 8

/-- BEACON (R359, R439): a member is reachable, and its ceiling is known. -/
def beaconIn (p n : Nat) (d : Dev) : Dev :=
  match takePkt d p n 11 with
  | (some x, d1) =>
    let h := x.p.hdr.toNat
    if !epochOk d1 h || !isMember d1 (hSrc h) || !inJob d1 then d1
    else
      let m := d1.fab.mem
      let d2 := setMem d1 { m with ceils := m.ceils.put (hSrc h) (bits h 64 7) 80 }
      judgeQuorum (agree (setBitAt d2 (FAB_PRESENT 0) (hSrc h) true))
  | (none, _) => d

/-- REACH_TIMEOUT (R359-R361): no BEACON of member m is less than 5 ms old. -/
def reachTimeout (m : Nat) (d : Dev) : Dev :=
  if !inJob d || m == myMod d || !isMember d m || !reachable d m then d
  else startHold (judgeQuorum (setBitAt d (FAB_PRESENT 0) m false))

/- Leaving (R358, R361) -/

/-- The step under way ends without a verdict; its request completes with STATE (log 32). -/
def dropStep (d : Dev) : Dev :=
  let d1 := match d.pan.step with
    | some s => postCq { d with pan := { d.pan with step := none } } 1 2 s.tag 0 0 0
    | none => d
  let d2 := uesIdle d1
  { d2 with inStep := false, rerunStep := false, rerunUpd := false, flt := { d2.flt with repair := [] } }

/-- No engine of the module is paused (R360, R364). -/
def unpause (d : Dev) : Dev :=
  (List.range 16).foldl (fun d k =>
    let d1 := setB d (XFER_STATUS k) XFER_STATUS_PAUSED false
    if hasXch k then setB d1 (XCH_STATUS (k - 8)) XCH_STATUS_PAUSED false else d1) d

/-- The module leaves its job: no verdict is applied, the job's windows close, FAB_MEPOCH becomes 0, the link slots are cleared, no
engine stays paused and no die carries a verdict stage (R313, R361, R364, R411). -/
def leaveJob (d : Dev) : Dev :=
  let d1 := noGeometry (closeJobWins d (getR d FAB_MEPOCH))
  let d2 := setF (setF (setR d1 FAB_MEPOCH 0) FAB_STATE FAB_STATE_STATE 0) FAB_STATE FAB_STATE_QUORUM 0
  let v : Verd := {}
  let m := d2.fab.mem
  let d3 := setF (setVerd (stopHold (setMem d2 { m with members := [], joining := none, joinWins := [], joins := [], ceils := [] })) v)
    VRD_STATUS VRD_STATUS_STATE 0
  let d4 := showStages (unpause { d3 with fab := { d3.fab with linkKeys := [] } })
  agree (if d4.pan.step.isSome || d4.inStep then dropStep d4 else d4)

/-- The module leaves its job other than by LEAVE: a job end record with a status, and in DETAIL whether it holds
quorum (R361, R464, R465). -/
def endJob (d : Dev) (status : Nat) : Dev :=
  leaveJob (postCq d 6 status 0 (get64 d STEP_EPOCH_LO STEP_EPOCH_HI) (getF d FAB_STATE FAB_STATE_QUORUM) 0)

/-- HOLD_TIMER_EXPIRE (R361): the verdict hold limit has passed. -/
def holdTimerExpire (d : Dev) : Dev :=
  if !inJob d ∨ d.fab.mem.hold.isNone then d
  else endJob d 0x10

end Sys2Proof.Machine
end

