-- ==== Sys2Proof/Machine/Package.lean ====
section
/-!
DEFINITION. Machine/Package.lean: placement packages: their checks and what loading their sections writes (R64, R72, R73,
R149, R169, R178, R202-R206, R255, R262-R265, R270-R277, R296, R303, R326, R352, R366-R380). The arrangement of a section's
body is log 34's.
-/
namespace Sys2Proof.Machine

/- The header (R370) -/

def pkKind (p : Pkg) : Nat := bits p.hdr 8 2
def pkLost (p : Pkg) : Nat := bits p.hdr 64 64
def pkJob (p : Pkg) : Nat := bits p.hdr 256 64
def pkEpoch (p : Pkg) : Nat := bits p.hdr 320 64

/-- The sections from byte ofs of an image of `total` bytes; none where a length disagrees (R371). -/
def parseSecs (v total : Nat) : Nat → Nat → Option (List Sec)
  | 0, ofs => if ofs = total then some [] else none
  | k + 1, ofs =>
    let h := bits v (8 * ofs) 128
    let len := bits h 64 32
    if total < ofs + 16 + len then none
    else (parseSecs v total k (ofs + 16 + len)).map (fun r =>
      { typ := bits h 0 8, idx := bits h 16 16, len := len, body := bits v (8 * (ofs + 16)) (8 * len),
        resv := bits h 8 8 != 0 || bits h 32 32 != 0 || bits h 96 32 != 0 } :: r)

/-- A package from its n bytes; none where LENGTH disagrees with the sections. -/
def parsePkg (v n : Nat) : Option Pkg :=
  let h := bits v 0 512
  if n < 64 ∨ bits h 192 64 ≠ n then none
  else (parseSecs v n (bits h 160 16) 64).map (fun s => { hdr := h, secs := s, dig := natOfBytes (sha384 (bytesOf n v)) })

/-- Section of a type and index. -/
def secOf (p : Pkg) (t i : Nat) : Option Sec := p.secs.find? (fun s => s.typ == t && s.idx == i)

/-- Field i, of w bits, of a section's body from byte ofs. -/
def secAt (s : Sec) (ofs w i : Nat) : Nat := bits s.body (8 * ofs + w * i) w

/-- Entries of w bytes a section holds after byte ofs. -/
def secCount (s : Sec) (ofs w : Nat) : Nat := (s.len - ofs) / w

/-- Every entry of w bytes after byte ofs passes a check; the length is a whole number of at most m entries. -/
def secAll (s : Sec) (ofs w m : Nat) (f : Nat → Bool) : Bool :=
  decide (ofs ≤ s.len) && (s.len - ofs) % w == 0 && decide (secCount s ofs w ≤ m) &&
    (List.range (secCount s ofs w)).all (fun i => f (secAt s ofs (8 * w) i))

/- What the checks look up -/

/-- Region n as a package leaves it: a filler's regions are those loaded (R366, R367). -/
def pkgRegion (d : Dev) (p : Pkg) (n : Nat) : Nat :=
  match secOf p 1 0 with
  | some s => secAt s 0 512 n
  | none => region d n

/-- KIND of a chunk's entry in a package's maps, by module-local chunk number; plain where the package holds no map. -/
def pkgChunk (p : Pkg) (g : Nat) : Nat :=
  match secOf p 9 (g / 18432) with
  | some s => secAt s 0 128 (g % 18432)
  | none => 0

/-- n rows from an address all lie in plain chunks of the Cellar. -/
def plainRows (p : Pkg) (a n : Nat) : Bool :=
  a % 128 == 0 && decide (1 ≤ n) && decide (a + 128 * n ≤ 128 * stackSize) &&
    (List.range ((a + 128 * n - 1) / chunkSize + 1 - a / chunkSize)).all (fun i => bits (pkgChunk p (a / chunkSize + i)) 30 2 == 0)

/-- n bytes from an address lie in plain chunks of the Cellar or in a larder (R352, R382). -/
def areaOk (p : Pkg) (a n : Nat) : Bool :=
  plainRows p (a / 128 * 128) (ceilDiv (a % 128 + n) 128) ||
    (decide (larderBase ≤ a) && decide (a + n ≤ larderBase + 64 * larderSize) && (a - larderBase) / larderSize == (a + n - 1 - larderBase) / larderSize)

/-- The attachment of an edge die that router port EA or EB of tile t carries (R24, R63). -/
def hasAttach (t p : Nat) : Bool :=
  let x := t % 8; let y := t / 8
  if p = 4 then x == 0 || x == 7 else y == 0 || y == 7

/-- A router port that is present on tile t (R63, R73). -/
def portThere (d : Dev) (t p : Nat) : Bool :=
  if p < 4 then (neighbour t p).isSome
  else if p < 6 then hasAttach t p
  else if p < 10 then (slotCore d t (p - 6)).isSome
  else true

/-- The tile's base die is there. -/
def tileThere (d : Dev) (t : Nat) : Bool := decide (t < 64) && !baseLost d t

/- Checks of one section -/

/-- A region descriptor's reserved bits (R366). -/
def regionOk (r : Nat) : Bool := bits r 331 5 == 0 && bits r 352 160 == 0

/-- The clause header that a sequence entry of core slot q names (R206, R367). -/
def headerOk (d : Dev) (p : Pkg) (s : Sec) (q e : Nat) : Bool :=
  let st := bits e 0 13
  let h := secAt s 0 128 st
  let r := pkgRegion d p (bits h 24 8)
  bit e 13 ||
    (decide (st + bits h 0 13 ≤ 8191) && decide (bits h 16 4 ≤ bits h 0 13 - 1) && decide (1 ≤ bits h 0 13) && decide (bits h 40 5 ≤ 20) &&
      bits h 14 2 == 0 && bits h 20 4 == 0 && bits h 45 3 == 0 && bit r 328 && bit r q && decide (bits h 32 8 ≤ bits r 320 8))

/-- The package's image of a sync object has WAKE set (R322). -/
def pkgWakes (p : Pkg) (o : Nat) : Bool := match secOf p 0x10 (o / 256) with
  | some s => oWake (secAt s 0 128 (o % 256))
  | none => false

/-- The SYNCWAITs of the clause a sequence entry names wait on objects that wake (R322). -/
def waitsOk (p : Pkg) (s : Sec) (e : Nat) : Bool :=
  let h := secAt s 0 128 (bits e 0 13)
  bit e 13 || (List.range (bits h 0 13 - bits h 16 4)).all (fun k =>
    match CtlOp.ofWord (BitVec.ofNat 32 (bits (secAt s 0 128 (bits e 0 13 + 1 + bits h 16 4 + k)) 96 32)) with
    | some (.syncwait o _) => pkgWakes p o.toNat
    | _ => true)

/-- Clause store and sequence (R202-R206, R322). -/
def clauseOk (d : Dev) (p : Pkg) (s : Sec) : Bool :=
  let n := secCount s 131072 8
  secAll s 131072 8 2048 (fun e => bits e 15 1 == 0 && bits e 32 32 == 0 && headerOk d p s s.idx e && waitsOk p s e) && decide (1 ≤ n) &&
    bit (secAt s 131072 64 (n - 1)) 14

/-- The core a slot's sections are loaded into (R368). -/
def secCore (d : Dev) (s : Sec) : Option Nat := slotCore d (s.idx / 4) (s.idx % 4)

/-- FG_ROWS and handle entries (R144, R149, R151): a core that holds the other context keeps its FG_ROWS. -/
def handlesOk (d : Dev) (fill : Bool) (s : Sec) : Bool :=
  let fg := secAt s 0 64 0
  let other := (secCore d s).any (fun c => (residentOf d c (!fill)).isSome && getF d (SHF_PART c) SHF_PART_FG_ROWS != fg)
  decide (fg ≤ 32) && !other && secAll s 8 8 256 (fun h => if fill then hWf h fg 32 else hWf h 0 fg)

/-- A program entry's reserved bits (R173, R183). -/
def progOk (e : Nat) : Bool :=
  match bits e 0 2 with
  | 0 => bits e 4 1 == 0 && bits e 7 1 == 0 && bits e 22 10 == 0 && bits e 464 48 == 0
  | 3 => false
  | _ => bits e 2 2 != 3 && bits e 7 9 == 0 && bits e 22 10 == 0 && bits e 272 16 == 0 && bits e 403 109 == 0

/-- A port map's entries (R178). -/
def portMapOk (s : Sec) : Bool := secAll s 0 2 8192 (fun e => bits e 7 1 == 0 && bits e 15 1 == 0)

/-- A filler's port map entries stand only in slots the foreground package leaves free (R372). -/
def portFree (d : Dev) (s : Sec) : Bool :=
  let fg := (d.pkgs.find? (fun x => d.res.fg == some x.1)).bind (fun x => secOf x.2 5 s.idx)
  (secCore d s).isSome && (List.range (secCount s 0 2)).all (fun i =>
    secAt s 0 16 i == 0 || (match fg with
      | some t => secAt t 0 16 i == 0
      | none => true))

/-- A flit at input p of router t in cycle c comes to an adder with a second operand, on its way through `fuel` entries (R64, R67, R296). -/
def meetsAdder (d : Dev) : Nat → Nat → Nat → Nat → Bool
  | 0, _, _, _ => false
  | fuel + 1, t, c, p => match entryIndex d t c with
    | none => false
    | some i =>
      let e := slotEntry d t i
      let a := bits e 60 4
      let b := bits e 64 4
      let there := fun (n : Nat) => bits e (4 * n) 4 == p && n != p && (match neighbour t n with
        | some x => meetsAdder d fuel x.1 (c + 3) x.2
        | none => false)
      (a != 15 && b != 15 && (a == p || b == p)) || (a != 15 && a == p && b == 15 && meetsAdder d fuel t (c + 2) 15) ||
        [0, 1, 2, 3].any there

/-- A flit at input p of router t in cycle c has come through an adder with a second operand within `fuel` entries (R64, R67, R296). -/
def metAdder (d : Dev) : Nat → Nat → Nat → Nat → Bool
  | 0, _, _, _ => false
  | fuel + 1, t, c, p =>
    if p = 15 then match entryIndex d t (c - 2) with
      | some i =>
        let a := bits (slotEntry d t i) 60 4
        decide (2 ≤ c) && a != 15 && (bits (slotEntry d t i) 64 4 != 15 || metAdder d fuel t (c - 2) a)
      | none => false
    else match neighbour t p with
      | some x => match entryIndex d x.1 (c - 3) with
        | some i =>
          let q := bits (slotEntry d x.1 i) (4 * x.2) 4
          decide (3 ≤ c) && q != x.2 && metAdder d fuel x.1 (c - 3) q
        | none => false
      | none => false

/-- The router cycles of the window in which tile t applies entry i (R65). -/
def cyclesOf (d : Dev) (t i : Nat) : List Nat :=
  if getB d (SLOT_CTL t) SLOT_CTL_REPEAT then
    (List.range (ceilDiv (windowCycles d) (slotPeriod d t))).map (fun k => i % slotPeriod d t + k * slotPeriod d t)
  else [i]

/-- No route of a filler's port-map entries passes an adder with a second operand (R296): a read enters the mesh in the entry's
cycle, a row is delivered in the cycle after. -/
def routesOk (d : Dev) (s : Sec) : Bool :=
  let t := s.idx / 4
  let n := 6 + s.idx % 4
  (List.range (secCount s 0 2)).all (fun i =>
    let e := secAt s 0 16 i
    (!bit e 14 || (cyclesOf d t i).all (fun c => !meetsAdder d 128 t c n)) &&
    (!bit e 6 || (cyclesOf d t i).all (fun c => match entryIndex d t (c - 1) with
      | some j =>
        let q := bits (slotEntry d t j) (4 * n) 4
        c == 0 || q == n || !metAdder d 128 t (c - 1) q
      | none => true)))

/-- The load limit of a controller's port map (R255): in any 64 consecutive indices at most 44 transfers in one direction, 40
in both. -/
def loadOk (per : Nat) (rep : Bool) (s : Sec) : Bool :=
  let ins := fun i => if i < per ∧ bit (secAt s 0 16 i) 6 then 1 else 0
  let outs := fun i => if i < per ∧ bit (secAt s 0 16 i) 14 then 1 else 0
  let starts := if rep then per else per - 63
  (List.range starts).all (fun b =>
    let is := (List.range 64).map (fun j => (b + j) % (if rep then per else 8192))
    let a := (is.map ins).foldl (· + ·) 0
    let c := (is.map outs).foldl (· + ·) 0
    if a = 0 ∨ c = 0 then decide (a + c ≤ 44) else decide (a + c ≤ 40))

/-- SLOT_CTL and the slot table of tile t (R64, R65, R73). -/
def slotsOk (d : Dev) (s : Sec) : Bool :=
  let ctl := secAt s 0 32 0
  let per := if bits ctl 16 13 = 0 then 8192 else bits ctl 16 13
  ctl == fv 0 1 ctl + fv 16 13 (bits ctl 16 13) + fv 29 1 (bits ctl 29 1) && secAt s 4 96 0 == 0 && decide (per ≤ secCount s 16 16) &&
    secAll s 16 16 8192 (fun e => bits e 69 59 == 0 && (bits e 64 4 == 15 || portThere d s.idx (bits e 64 4)) &&
      (List.range 16).all (fun n => bits e (4 * n) 4 == n || (portThere d s.idx n && portThere d s.idx (bits e (4 * n) 4))))

/-- A bulk slot map's entries name units of tiles that are there (R72, R73). -/
def bulkOk (d : Dev) (s : Sec) : Bool :=
  s.len % 4 == 0 && secAll s 0 2 16384 (fun e =>
    (bits e 6 2 == 3 || tileThere d (bits e 0 6)) && (bits e 14 2 == 3 || tileThere d (bits e 8 6)))

/-- A chunk map (R270, R271): each mapped entry pairs its own chunk with one pool chunk, each pool chunk with one entry. -/
def chunkMapOk (s : Sec) : Bool :=
  let es := (List.range 18432).map (fun c => (c, secAt s 0 128 c))
  let pairOf := fun (x : Nat × Nat) => if meLive x.2 = x.1 then meLoft x.2 else meLive x.2
  let mapped := es.filter (fun x => meKind x.2 == 1)
  let pool := (es.filter (fun x => meKind x.2 == 2)).map (·.1)
  s.len == 294912 && es.all (fun x => meKind x.2 != 3 && bits x.2 32 32 == 0) &&
    mapped.all (fun x => (meLive x.2 == x.1 || meLoft x.2 == x.1) && pool.contains (pairOf x)) &&
    (mapped.map pairOf).length == pool.length && (mapped.map pairOf).eraseDups.length == pool.length

/-- The rule entry a shard names, from the package. -/
def pkgRule (p : Pkg) (n : Nat) : Nat := match secOf p 0xB 0 with
  | some s => secAt s 0 512 n
  | none => 0

/-- Chunk ids (R263) of array a of a shard: its first and how many. A sparse shard has at least the panels its elements fill; how many
more its coordinates name no package says (log 99). -/
def shardSpan (p : Pkg) (x a : Nat) : Nat × Nat :=
  let n := ceilDiv (sdCount x) (panelElems x)
  match a with
  | 7 => (sdGrad x, ceilDiv (4 * sdCount x) chunkSize)
  | 8 => (sdCoord x, if sdCoord x = 0 then 0 else ceilDiv (4 * sdCount x) chunkSize)
  | _ => (sdChunk x a, ceilDiv (arrayBytes x (pkgRule p (sdRule x)) a n) chunkSize)

/-- A shard descriptor of tile t (R264, R265, R282, R322). -/
def shardOk (p : Pkg) (t x : Nat) : Bool :=
  let r := pkgRule p (sdRule x)
  let kind := shardKind x r
  let dense := sdCoord x == 0
  bits x 14 2 == 0 && bits x 254 2 == 0 && bits x 316 196 == 0 && decide (1 ≤ sdCount x) && sdToken x / 256 == t &&
    pkgWakes p (sdToken x) && !(sdSpanel x && sdCoord x == 0) &&
    (kind == 0 || (bits x 256 8 != 0 && bits x 264 8 != 0 &&
      (!dense || (sdPR x % 8 == 0 && sdPC x % 16 == 0 && sdCount x % panelElems x == 0)))) &&
    (kind != 2 || bits x 294 22 != 0) &&
    (List.range 9).all (fun a =>
      let sp := shardSpan p x a
      (List.range sp.2).all (fun i =>
        let c := sp.1 + i
        c / 65536 == t && decide (c % 32768 < 18432) && (c / 32768 == sp.1 / 32768) &&
          meKind (pkgChunk p (c / 32768 * 18432 + c % 32768)) == (if a < 7 then 1 else 0)))

/-- An update order: its shards, no chunk in two (R264). -/
def orderOk (p : Pkg) (s : Sec) : Bool :=
  let xs := (List.range (secCount s 0 64)).map (secAt s 0 512)
  let cs := xs.flatMap (fun x => (List.range 9).flatMap (fun a => let sp := shardSpan p x a; (List.range sp.2).map (fun i => sp.1 + i)))
  secAll s 0 64 1024 (shardOk p s.idx) && cs.eraseDups.length == cs.length

/-- A rule table entry: reserved fields and values (R277). -/
def ruleOk (r : Nat) : Bool :=
  bits r 37 27 == 0 && decide (rlKind r ≤ 2) && rlSched r != 3 && (rlKind r != 1 || rlNsIter r != 0) &&
    (rlKind r != 2 || (rlRefresh r != 0 && rlRootIter r != 0))

/-- A rule table (R277, R296). -/
def rulesOk (s : Sec) : Bool := s.len == 16384 && secAll s 0 64 256 ruleOk

/-- A collective descriptor of die k (R303). -/
def rdxOk (p : Pkg) (k x : Nat) : Bool :=
  cdOp x != 0 && bits x 3 13 == 0 && bits x 30 2 == 0 && bits x 46 18 == 0 && bits x 112 16 == 0 && bits x 176 16 == 0 &&
    bits x 224 288 == 0 && (portAxis (k + 16 * cdPort x)).isSome && plainRows p (cdSrc x) (cdCount x) && plainRows p (cdDst x) (cdCount x)

/-- A transfer descriptor of die k (R349, R352). -/
def xferOk (d : Dev) (p : Pkg) (k x : Nat) : Bool :=
  decide (1 ≤ tdOp x) && decide (tdOp x ≤ 3) && tdTc x != 0 && bits x 7 9 == 0 && bits x 30 2 == 0 && bits x 46 2 == 0 && bits x 63 1 == 0 &&
    bits x 173 3 == 0 && bits x 240 272 == 0 && decide (1 ≤ tdRows x) && tdLocal x % 128 == 0 && tdOfs x % 128 == 0 &&
    areaOk p (tdLocal x) (128 * tdRows x) && (if tdOp x = 3 then decide (tdDst x < 16) else true) &&
    !((portAxis (k + 16 * tdPort x)).isNone && tdOp x != 3 && isMember d (tdDst x))

/-- A multicast list entry's reserved bits (R353). -/
def mcEntryOk (e : Nat) : Bool := bits e 29 2 == 0 && bits e 48 16 == 0

/-- Directory entry n of a package. -/
def pkgDir (p : Pkg) (n : Nat) : Nat := match secOf p 0xF 0 with
  | some s => secAt s 0 128 n
  | none => 0

/-- Handle h is valid in the initial table of core slot q. -/
def pkgHandle (p : Pkg) (q h : Nat) : Bool := match secOf p 3 q with
  | some s => bit (secAt s 8 64 h) 0
  | none => false

/-- An exchange descriptor (R380-R382); a DISPATCH has no output area (log 103). -/
def xchOk (p : Pkg) (x : Nat) : Bool :=
  let n := xeTiles x
  let s := xdShare (pkgDir p (xeDir x))
  let w := xeW x
  let rows := xeExperts x * s * xeFeat x
  let src := if xeOp x = 1 then n * xeFeat x else rows
  (xeOp x == 1 || xeOp x == 2) && xeAfmt x != 3 && bits x 7 9 == 0 && bits x 30 2 == 0 && bits x 46 2 == 0 && bits x 63 1 == 0 &&
    bits x 74 6 == 0 && bits x 144 16 == 0 && bits x 208 16 == 0 && bits x 272 16 == 0 && bits x 336 16 == 0 && bits x 400 16 == 0 &&
    bits x 464 16 == 0 && xeFeat x % 16 == 0 && xeFirst x % 16 == 0 && xeCount x % 16 == 0 && decide (xeFirst x + xeCount x ≤ xeFeat x) &&
    decide (n * 128 * xeK x ≤ 262144) && decide (n * xeFeat x ≤ xeStride x) &&
    [xeSrc x, xeIdx x, xeDst x].all (· % 128 == 0) && [xeSrcHdr x, xeDstHdr x].all (· % 8 == 0) && areaOk p (xeSrc x) (128 * w * src) && areaOk p (xeIdx x) (256 * n * xeK x) &&
    (w == 2 || areaOk p (xeSrcHdr x) (8 * src)) &&
    (xeOp x == 1 ||
      (let out := (xeK x - 1) * xeStride x + n * xeFeat x
       areaOk p (xeDst x) (128 * w * out) && (w == 2 || areaOk p (xeDstHdr x) (8 * out)))) &&
    (List.range (xeExperts x)).all (fun e => xdValid (pkgDir p (xeDir x + e)) && xdShare (pkgDir p (xeDir x + e)) == s) && decide (1 ≤ s)

/-- A directory entry (R379, R380). -/
def dirOk (d : Dev) (p : Pkg) (e : Nat) : Bool :=
  bits e 2 6 == 0 && bits e 24 8 == 0 && bits e 61 3 == 0 && bits e 88 8 == 0 && bits e 111 17 == 0 &&
    (!xdValid e || xdModule e != myMod d ||
      (List.range 256).all (fun q => !bit (pkgRegion d p (xdRegion e)) q || (slotCore d (q / 4) (q % 4)).isNone || pkgHandle p q (xdHandle e)))

/-- A sync object image: zero, or one of the context's own (R319, R326, R486). -/
def syncOk (d : Dev) (ctx t : Nat) (s : Sec) : Bool :=
  s.len == 4096 && (List.range 256).all (fun i =>
    let e := secAt s 0 128 i
    let now := objEntry d (256 * t + i)
    e == 0 || (bit e 83 == false && bits e 94 2 == 0 && bits e 126 2 == 0 && oCtx e == ctx && !(oHost e && decide (oVec e < 4)) &&
      (now == 0 || oCtx now == ctx)))

/-- The chunks of a stack that a context takes: mapped and pool chunks and plain ones whose entry names itself as LIVE
(log 35). -/
def ownedChunk (e c : Nat) : Bool := meKind e != 0 || meLive e == c

/-- No chunk the package takes is held for another context (log 35). -/
def chunksFree (d : Dev) (ctx n : Nat) (s : Sec) : Bool :=
  (List.range 18432).all (fun c =>
    !ownedChunk (secAt s 0 128 c) c || chunkTag d n c == 0 || chunkTag d n c == ctxBits d ctx 8 8)

/-- The checks of one section; `fill` for a filler package. -/
def secOk (d : Dev) (ctx : Nat) (fill : Bool) (p : Pkg) (s : Sec) : Bool :=
  let i := s.idx
  !s.resv &&
  (match s.typ with
  | 0x01 => !fill && i == 0 && s.len == 16384 && secAll s 0 64 256 regionOk
  | 0x02 => decide (i < 256) && clauseOk d p s
  | 0x03 => decide (i < 256) && handlesOk d fill s
  | 0x04 => decide (i < 256) && secAll s 0 64 128 progOk
  | 0x05 => decide (i < 256) && portMapOk s && (!fill || (portFree d s && routesOk d s))
  | 0x06 => !fill && decide (i < 64) && slotsOk d s
  | 0x07 => !fill && decide (i < 16) && bulkOk d s
  | 0x08 => !fill && decide (i < 192) && portMapOk s &&
      (decide (128 ≤ i) || (match secOf p 6 (i / 2) with
        | some c => loadOk (if secAt c 0 32 0 / 65536 % 8192 = 0 then 8192 else secAt c 0 32 0 / 65536 % 8192) (bit (secAt c 0 32 0) 29) s
        | none => true))
  | 0x09 => !fill && decide (i < 128) && chunkMapOk s && chunksFree d ctx i s
  | 0x0A => !fill && decide (i < 64) && orderOk p s
  | 0x0B => !fill && i == 0 && rulesOk s
  | 0x0C => !fill && decide (i < 16) && secAll s 0 64 256 (rdxOk p i)
  | 0x0D => !fill && decide (i < 16) && decide (8192 ≤ s.len) && secAll s 8192 64 256 (xferOk d p i) &&
      (List.range 1024).all (fun j => mcEntryOk (secAt s 0 64 j))
  | 0x0E => !fill && hasXch i && secAll s 0 64 256 (xchOk p)
  | 0x0F => !fill && i == 0 && secAll s 0 16 32768 (dirOk d p)
  | 0x10 => decide (i < 64) && syncOk d ctx i s
  | _ => false)

/-- Sections that a package must hold for the units present (R371): a filler's, for the core slots it uses. -/
def needed (d : Dev) (fill : Bool) (p : Pkg) : List (Nat × Nat) :=
  let slots := (List.range 256).filter (fun q =>
    if fill then p.secs.any (fun s => decide (2 ≤ s.typ) && decide (s.typ ≤ 5) && s.idx == q)
    else (slotCore d (q / 4) (q % 4)).isSome && !bit (pkLost p) (q / 4))
  let tiles := (List.range 64).filter (tileThere d)
  let dies := (List.range 16).filter (fun k => !(edge d k).lost)
  let perSlot := slots.flatMap (fun q => [(2, q), (3, q), (4, q), (5, q)])
  if fill then perSlot ++ ((slots.map (· / 4)).eraseDups).map (fun t => (0x10, t))
  else [(1, 0)] ++ perSlot ++ tiles.map (fun t => (6, t)) ++ dies.map (fun k => (7, k)) ++
    tiles.flatMap (fun t => [(8, 2 * t), (8, 2 * t + 1)]) ++ tiles.map (fun t => (8, 128 + t)) ++
    tiles.flatMap (fun t => [(9, 2 * t), (9, 2 * t + 1)]) ++ tiles.map (fun t => (0xA, t)) ++ [(0xB, 0)] ++
    dies.map (fun k => (0xC, k)) ++ dies.map (fun k => (0xD, k)) ++ (dies.filter (fun k => hasXch k)).map (fun k => (0xE, k)) ++ [(0xF, 0)] ++
    tiles.map (fun t => (0x10, t))

/-- Lengthened for 1.0 GHz, the header's sentence stays within 1 ms (R52): (LEN - 1.064) f_b ≤ (1000 - 1.064) 1.0 GHz. -/
def lengthOk (h : Nat) : Bool := decide ((1000 * bits h 32 10 - 1064) * (1000 + 25 * bits h 48 7) ≤ (1000000 - 1064) * 1000)

/-- The header's own checks for a package loaded as KIND k (R52, R98, R275, R371). -/
def pkgHdrOk (d : Dev) (ctx k : Nat) (p : Pkg) : Bool :=
  let h := p.hdr
  bits h 0 8 == 1 && bits h 8 2 == k && bits h 10 6 == 0 && bits h 16 8 == getF d FAB_LEVEL FAB_LEVEL_NUM_LEVEL &&
    bits h 24 1 == ctxBits d ctx 3 1 && bits h 25 7 == 0 && decide (4 ≤ bits h 32 10) && decide (bits h 32 10 ≤ 1000) &&
    bits h 42 6 == 0 && decide (bits h 48 7 ≤ 80) && lengthOk h && bits h 55 9 == 0 && (k == 1 || pkLost p == 0) && bits h 176 16 == 0 &&
    (if k = 0 then pkEpoch p != 0 || (bits h 384 64 == 0 && bits h 448 64 == 0) else bits h 320 192 == 0)

/-- Two sections hold the same bytes. -/
def sameSec (a b : Option Sec) : Bool := match a, b with
  | some x, some y => x.len == y.len && x.body == y.body
  | none, none => true
  | _, _ => false

/-- REGION and RPOS of every clause that a section's sequence names (R203, R207). -/
def secSlices (s : Sec) : List Nat :=
  (List.range (secCount s 131072 8)).filterMap (fun i =>
    let e := secAt s 131072 64 i
    if bit e 13 then none else some (bits (secAt s 0 128 (bits e 0 13)) 24 16))

/-- REGION and RPOS of every clause of a package. -/
def pkgSlices (p : Pkg) : List Nat := (p.secs.filter (fun s => s.typ == 2)).flatMap secSlices

/-- A degraded package against its primary (R370, R374, R375): state maps, orders and rules equal; the directory equal but for
HANDLE; the clauses those of the same REGION and RPOS (log 109). -/
def agreesWith (p q : Pkg) (s : Sec) : Bool :=
  match s.typ with
  | 0x02 => (secSlices s).all (pkgSlices q).contains && (pkgSlices q).all (pkgSlices p).contains
  | 0x09 => sameSec (some s) (secOf q 9 s.idx)
  | 0x0A => sameSec (some s) (secOf q 0xA s.idx)
  | 0x0B => sameSec (some s) (secOf q 0xB 0)
  | 0x0F => pkJob p == pkJob q && (match secOf q 0xF 0 with
      | some t => s.len == t.len && (List.range (secCount s 0 16)).all (fun i =>
          insBits (secAt s 0 128 i) 8 8 0 == insBits (secAt t 0 128 i) 8 8 0)
      | none => false)
  | _ => true

/-- The first failed check of a package: TYPE and INDEX, or none (R371). For a degraded package the primary is given. -/
def pkgRefusal (d : Dev) (ctx k : Nat) (p : Pkg) (primary : Option Pkg) : Option (Nat × Nat) :=
  let fill := k == 2
  if !pkgHdrOk d ctx k p || primary.any (fun q => pkJob p != pkJob q) then some (0, 0)
  else
    let bad := (p.secs.zip (List.range p.secs.length)).find? (fun s =>
      !secOk d ctx fill p s.1 || (p.secs.take s.2).any (fun x => x.typ == s.1.typ && x.idx == s.1.idx) ||
        primary.any (fun q => !agreesWith p q s.1))
    match bad with
    | some s => some (s.1.typ, s.1.idx)
    | none => (needed d fill p).find? (fun n => (secOf p n.1 n.2).isNone)

/-- The refusal of a package shows (R371). -/
def showRefusal (d : Dev) (k : Nat) (r : Nat × Nat) : Dev :=
  let d1 := setR d PLC_REFUSE (fv 0 8 r.1 + fv 8 16 r.2)
  if k = 0 then setF d1 PLC_STATUS PLC_STATUS_STATE 3 else d1

/- Loading -/

/-- n entries of a table written from a section's body, w bytes each after byte ofs. -/
def putAll {α : Type} [DecidableEq α] (t : Tbl α) (base : Nat) (s : Sec) (ofs w : Nat) (f : Nat → α) (z : α) : Tbl α :=
  (List.range (secCount s ofs w)).foldl (fun t i => t.put (base + i) (f (secAt s ofs (8 * w) i)) z) t

/-- A descriptor list of 64 B entries into registers, and its length. -/
def putDescs (d : Dev) (s : Sec) (ofs : Nat) (a : Nat → Nat) (qlen : Nat) : Dev :=
  setR ((List.range (secCount s ofs 64)).foldl (fun d i => setWords d (a i) 16 (secAt s ofs 512 i)) d) qlen (secCount s ofs 64)

/-- The foreground's or the filler's sections of one core slot loaded into core c (R368). -/
def loadCoreSec (d : Dev) (fill : Bool) (c : Nat) (s : Sec) : Dev :=
  match s.typ with
  | 0x02 =>
    let kb := c * 16384 + (if fill then 8192 else 0)
    let ks := c * 4096 + (if fill then 2048 else 0)
    let st := (List.range 8192).foldl (fun t i => Tbl.put t (kb + i) (BitVec.ofNat 128 (secAt s 0 128 i)) 0) d.clauseStore
    { d with clauseStore := st, clauseSeq := putAll (d.clauseSeq.cut ks (ks + 2048)) ks s 131072 8 (BitVec.ofNat 64) 0 }
  | 0x03 =>
    let n0 := if fill then 256 else 0
    let fg := secAt s 0 64 0
    let old := min (getF d (SHF_PART c) SHF_PART_FG_ROWS) 32
    -- every physical row that changes owner is wiped (R145)
    let d1 := (List.range 32).foldl (fun d r =>
      if decide (r < old) != decide (r < fg) then wipeRows d (shelfRowAddr c 0 r) 128 else d) d
    (List.range 256).foldl (fun d i => setHt d c (n0 + i) (if i < secCount s 8 8 then secAt s 8 64 i else 0))
      (setF d1 (SHF_PART c) SHF_PART_FG_ROWS fg)
  | 0x04 =>
    let n0 := if fill then 256 else 0
    (List.range 256).foldl (fun d i =>
      setWords d (STR_PROG c (n0 + i) 0) 16 (if i < secCount s 0 64 ∧ i < 128 then secAt s 0 512 i else 0)) d
  | 0x05 =>
    if fill then
      { d with portMap := (List.range (secCount s 0 2)).foldl (fun t i =>
          if secAt s 0 16 i = 0 then t else Tbl.put t (c * 8192 + i) (BitVec.ofNat 16 (secAt s 0 16 i)) 0) d.portMap }
    else { d with portMap := putAll (d.portMap.cut (c * 8192) (c * 8192 + 8192)) (c * 8192) s 0 2 (BitVec.ofNat 16) 0 }
  | _ => d

/-- The committed-step epoch a primary package resumes at (R275). -/
def resumeEpoch (p : Pkg) : Nat := if pkEpoch p = 0 then 1 else pkEpoch p

/-- Entry c of a chunk map as the management core builds it (R274). -/
def builtEntry (e c ep : Nat) : Nat :=
  if meKind e = 1 then mkMapEntry c (if meLive e = c then meLoft e else meLive e) 1 (ep + 1)
  else mkMapEntry (meLive e) (meLoft e) (meKind e) 0

/-- The chunks of a stack that the package takes are given the context's tag; one whose tag changes is wiped (R252; log 35). -/
def takeChunks (d : Dev) (ctx n : Nat) (s : Sec) : Dev :=
  let tag := ctxBits d ctx 8 8
  (List.range 18432).foldl (fun d c =>
    if ownedChunk (secAt s 0 128 c) c && chunkTag d n c != tag then retagChunk d n c tag else d) d

/-- One section of a package takes effect (R368, R397). -/
def loadSec (ctx : Nat) (fill : Bool) (ep : Nat) (d : Dev) (s : Sec) : Dev :=
  let i := s.idx
  match s.typ with
  | 0x01 => (List.range 256).foldl (fun d n => setWords d (PLC_REGION n 0) 16 (secAt s 0 512 n)) d
  | 0x06 =>
    { (setR d (SLOT_CTL i) (secAt s 0 32 0)) with
      slotTable := putAll (d.slotTable.cut (i * 8192) (i * 8192 + 8192)) (i * 8192) s 16 16 (BitVec.ofNat 128) 0 }
  | 0x07 =>
    let h := s.len / 4
    [0, 1].foldl (fun d a => (List.range 4096).foldl (fun d w =>
      setR d (BULK_MAP i a w) (if 2 * w < h then secAt s (2 * h * a) 32 w else 0)) d) d
  | 0x08 =>
    let u := (if 128 ≤ i then 320 + (i - 128) else 384 + i) * 8192
    { d with portMap := putAll (d.portMap.cut u (u + 8192)) u s 0 2 (BitVec.ofNat 16) 0 }
  | 0x09 =>
    takeChunks { d with cmap := (List.range 18432).foldl (fun t c =>
      Tbl.put t (i * 18432 + c) (BitVec.ofNat 128 (builtEntry (secAt s 0 128 c) c ep)) 0) d.cmap } ctx i s
  | 0x0A =>
    setR { d with upd := { d.upd with order := putAll (d.upd.order.cut (i * 1024) (i * 1024 + 1024)) (i * 1024) s 0 64 (BitVec.ofNat 512) 0 } }
      (UE_ORDER i) (fv 16 11 (secCount s 0 64))
  | 0x0B => (List.range 64).foldl (fun d t => (List.range 256).foldl (fun d n => setWords d (UE_RULE t n 0) 16 (secAt s 0 512 n)) d) d
  | 0x0C => putDescs d s 0 (fun n => RDX_DESC i n 0) (RDX_QLEN i)
  | 0x0D =>
    (List.range 1024).foldl (fun d j => setWords d (MCP_LIST i (j / 64) (j % 64) 0) 2 (secAt s 0 64 j))
      (putDescs d s 8192 (fun n => XFER_DESC i n 0) (XFER_QLEN i))
  | 0x0E => putDescs d s 0 (fun n => XCH_DESC (i - 8) n 0) (XCH_QLEN (i - 8))
  | 0x0F =>
    (List.range (secCount s 0 16)).foldl (fun d n => setWords d (EXP_DIR n 0) 4 (secAt s 0 128 n))
      { d with regs := d.regs.cut (EXP_DIR 0 0) (EXP_DIR 32768 0) }
  | 0x10 => (List.range 256).foldl (fun d n => if secAt s 0 128 n = 0 then d else setObj d (256 * i + n) (secAt s 0 128 n)) d
  | _ => match secCore d s with
    | some c => loadCoreSec d fill c s
    | none => d

/-- The sequence position of a context of core c (R204). -/
def setPos (d : Dev) (c : Nat) (fill : Bool) (p : Nat × Nat) : Dev :=
  if fill then modCore d c (fun k => { k with fillPos := p.1, fillRep := p.2 })
  else setF (setF d (CL_STATUS c) CL_STATUS_SEQ_POS p.1) (CL_STATUS c) CL_STATUS_REP p.2

/-- Channel n of core c is free: no stream has occupied it, its registers but the fault bits read 0 (R172, R199). -/
def freeChan (c : Nat) (d : Dev) (n : Nat) : Dev :=
  [STR_CTL c n, STR_LANDED c n, STR_TOTAL c n, STR_STAGE c n, STR_PRED_MISS c n, STR_ROW_OFS c n].foldl (fun d a => setR d a 0)
    (setChan d c n {})

/-- Whether channel n of core c is assigned to a half's context (R62). -/
def isOwned (d : Dev) (c : Nat) (fill : Bool) (n : Nat) : Bool :=
  getB d (STR_CTL c n) STR_CTL_ASSIGNED && getB d (STR_CTL c n) STR_CTL_OWNER == fill

/-- The channels of a half of core c are free. -/
def freeChans (d : Dev) (c : Nat) (fill : Bool) : Dev := ((List.range 16).filter (isOwned d c fill)).foldl (freeChan c) d

/-- The channels that a context's descriptor names are its own on core c, each as one that no stream has occupied (R62, R171, R172,
R391); those it had already stay as they are. -/
def assignChans (d : Dev) (c ctx : Nat) (fill : Bool) : Dev :=
  ((List.range 16).filter (fun n => bit (ctxBits d ctx 32 16) n && !isOwned d c fill n)).foldl (fun d n =>
    setB (setB (freeChan c d n) (STR_CTL c n) STR_CTL_ASSIGNED true) (STR_CTL c n) STR_CTL_OWNER fill) d

/-- Core c is given to a context: its residency, its position and its channels (R39, R62, R204). -/
def giveCore (ctx : Nat) (fill : Bool) (d : Dev) (q : Nat) : Dev :=
  match slotCore d (q / 4) (q % 4) with
  | some c =>
    let d1 := modCore d c (fun k => if fill then { k with resFill := some ctx, fillYielded := false } else { k with resFg := some ctx })
    assignChans (setPos d1 c fill (0, 0)) c ctx fill
  | none => d

/-- Core slots a package has sections for. -/
def pkgSlots (p : Pkg) : List Nat := (p.secs.filter (fun s => s.typ == 2)).map (·.idx)

/-- Requests and buffered copies of descriptors that a restart has left behind: they still end as R350 says, for no descriptor. -/
def orphan (d : Dev) : Dev :=
  let out := d.fab.outst.map (fun o => { o with eng := 8 + o.eng % 8 })
  (List.range 16).foldl (fun d k => modEdge d k (fun y => { y with mcp := y.mcp.map (fun m => { m with old := true }) }))
    { d with fab := { d.fab with outst := out } }

/-- Every engine's queue at its first descriptor (R302, R349, R381). -/
def restartQueues (d : Dev) : Dev :=
  (List.range 16).foldl (fun d k =>
    let d1 := xferAt (rdxAt d k 0) k 0
    if hasXch k then xchAt d1 k 0 else d1) (orphan d)

/-- The schedule fields of a package's header (R50, R52, R370). -/
def loadHeader (d : Dev) (p : Pkg) : Dev :=
  let d1 := setF (setF d TG_SENT_LEN TG_SENT_LEN_LEN (bits p.hdr 32 10)) TG_BUDGET TG_BUDGET_FB (bits p.hdr 48 7)
  let d2 := set64 (setR d1 STEP_CLIP (bits p.hdr 128 32)) PLC_LOST_0 PLC_LOST_1 (pkLost p)
  newCeiling (setF (setF d2 PLC_STATUS PLC_STATUS_KIND (pkKind p)) PLC_STATUS PLC_STATUS_STATE 2)

/-- The step registers a primary package resumes from (R275). -/
def resumeFrom (d : Dev) (p : Pkg) : Dev :=
  let d1 := set64 (set64 d STEP_EPOCH_LO STEP_EPOCH_HI (resumeEpoch p)) STEP_COUNT_LO STEP_COUNT_HI (bits p.hdr 384 64)
  let d2 := setR (setR (setR (setR d1 STEP_LAST 0) STEP_SKIPS 0) STEP_RERUNS 0) STEP_RECLIPS 0
  recomputeBias (set64 d2 STEP_APPLIED_LO STEP_APPLIED_HI (bits p.hdr 448 64))

/-- Every sync object of a context set to 0 (R326). -/
def clearObjs (ctx : Nat) (d : Dev) : Dev :=
  (listedObjs d).foldl (fun d o => if objEntry d o != 0 && oCtx (objEntry d o) == ctx then setObj d o 0 else d) d

/-- Core slot q's core has no foreground. -/
def unassign (d : Dev) (q : Nat) : Dev :=
  match slotCore d (q / 4) (q % 4) with
  | some c => modCore d c (fun x => { x with resFg := none })
  | none => d

/-- The foreground's cores and objects before its package is placed again (R376). -/
def unplace (ctx : Nat) (d : Dev) : Dev := clearObjs ctx ((List.range 256).foldl unassign d)

/-- Cores that the foreground's new placement does not use lose its channels. -/
def freeUnplaced (d : Dev) : Dev :=
  (List.range 320).foldl (fun d c => if (core d c).resFg.isNone then freeChans d c false else d) d

/-- The package of a context. -/
def givePkg (d : Dev) (ctx : Nat) (p : Pkg) : Dev := { d with pkgs := d.pkgs.filter (fun x => x.1 != ctx) ++ [(ctx, p)] }

/-- The foreground's header, queues and step state from its package; `first` where no primary package was loaded (R376, R397). -/
def placeFg (d : Dev) (p : Pkg) (first : Bool) : Dev :=
  let d4 := restartQueues (loadHeader d p)
  if first then resumeFrom { d4 with primary := some p } p else if inJob d4 then (fillWgens d4).2 else d4

/-- A package's sections take effect (R397); a degraded one, or the primary that returns for an empty
lost set, leaves state maps, orders and rules in place (R370, R375, R448). -/
def applyPkg (d : Dev) (ctx : Nat) (p : Pkg) : Dev :=
  let fill := pkKind p == 2
  let again := !fill && d.primary.isSome
  let secs := p.secs.filter (fun s => !again || !(s.typ == 9 || s.typ == 0xA || s.typ == 0xB))
  let d1 := secs.foldl (loadSec ctx fill (resumeEpoch p)) (if again then unplace ctx d else d)
  let d2 := (pkgSlots p).foldl (giveCore ctx fill) d1
  let d3 := givePkg (if again then freeUnplaced d2 else d2) ctx p
  if fill then d3 else placeFg d3 p (pkKind p == 0 && d.primary.isNone)

end Sys2Proof.Machine
end

