-- ==== Sys2Proof/Machine/Ctx.lean ====
section
/-!
DEFINITION. Machine/Ctx.lean: the pantry (R478-R482) and its requests: contexts, packages, rules, steps, blobs, checkpoints,
copies, windows and tiles (R277, R345, R355, R361, R374, R376, R391-R397, R402, R409, R410, R448).
-/
namespace Sys2Proof.Machine

/- Taking descriptors (R478, R479) -/

/-- The OP values of Table "Pantry operations". -/
def knownOp (op : Nat) : Bool := decide (1 ≤ op) && decide (op ≤ 0x12)

/-- FLAGS bits an OP uses (R481). -/
def opFlags (op : Nat) : Nat := if op = 1 then 15 else if op = 3 ∨ op = 0xF ∨ op = 0x12 then 1 else 0

/-- Bytes of ARGS an OP uses (R481; log 38). -/
def opArgs (op : Nat) : Nat :=
  match op with
  | 0x01 => 26 | 0x08 => 144 | 0x0B => 8 | 0x0C => 8 | 0x0D => 20 | 0x0E => 1 | 0x0F => 66 | 0x10 => 1 | 0x11 => 4 | 0x12 => 1
  | _ => 0

/-- A descriptor's 256 bytes as a request. -/
def toReq (x : Nat) : PReq :=
  let op := bits x 8 8
  { op := op, flags := bits x 16 16, tag := bits x 32 32, ctx := bits x 64 14, paddr := bits x 128 64, plen := bits x 192 32,
    pspace := bits x 224 8, args := BitVec.ofNat 1792 (bits x 256 1792),
    bad := bits x 1 7 != 0 || bits x 78 50 != 0 || bits x 232 24 != 0 || decide (1 < bits x 224 8) || !knownOp op ||
      bits x 16 16 != bits x 16 16 % (opFlags op + 1) || bits x (256 + 8 * opArgs op) (1792 - 8 * opArgs op) != 0 }

/-- A request completes: its completion record (R483). -/
def finish (d : Dev) (tag status detail : Nat) : Dev := postCq d 1 status tag 0 detail 0

/-- The device samples up to n slots (R479); a malformed descriptor is refused at once (R481), and in maintenance mode every OP
below POWER, RESET and FW_UPDATE (R521). -/
def samplePantry : Nat → Dev → Dev
  | 0, d => d
  | n + 1, d =>
    let i := getF d HIF_PAN_CONS HIF_PAN_CONS_INDEX
    let ph := getF d HIF_PAN_CONS HIF_PAN_CONS_PHASE
    let x := bytesAt d.pantry (256 * i) 256
    if 192 < getF d HIF_CQ_PEND HIF_CQ_PEND_COUNT ∨ getB d HIF_STATUS HIF_STATUS_D3HOT ∨ !getB d HIF_STATUS HIF_STATUS_READY ∨
        d.boot.restart ∨ bits x 0 1 ≠ ph then d
    else
      let d1 := setF d HIF_PAN_CONS HIF_PAN_CONS_INDEX (i + 1)
      let d2 := if i = 1023 then setF d1 HIF_PAN_CONS HIF_PAN_CONS_PHASE (1 - ph) else d1
      let d3 := incF (setR d2 HIF_PAN_TAKEN (getR d2 HIF_PAN_TAKEN + 1)) HIF_PAN_ACTIVE HIF_PAN_ACTIVE_COUNT
      let r := toReq x
      samplePantry n (if r.bad then finish d3 r.tag 1 0
        else if getF d FW_STATUS FW_STATUS_MODE = 1 ∧ r.op < 0x10 then finish d3 r.tag 2 0
        else { d3 with pan := { d3.pan with taken := d3.pan.taken ++ [r] } })

/-- PANTRY_POLL (R479): with the tick generator stopped, a 25 µs timer samples the pantry. -/
def pantryPoll (d : Dev) : Dev :=
  if getB d TG_CTL TG_CTL_RUN then d else samplePantry 16 { d with boot := { d.boot with d0wait := false } }

/- Starting requests (R480) -/

/-- A load or eviction of the foreground is under way, or a join. -/
def boundaryBusy (d : Dev) : Bool :=
  d.fab.mem.joining.isSome || d.pan.works.any (fun w => (w.op == 2 || w.op == 3 || w.op == 4) && !ctxFiller d w.ctx)

/-- A request of a kind that waits for a step boundary (R395, R480). -/
def waitsBoundary (d : Dev) (r : PReq) : Bool :=
  r.op == 6 || r.op == 7 || r.op == 9 || ((r.op == 2 || r.op == 3) && !ctxFiller d r.ctx) || (r.op == 4 && d.res.fg == some r.ctx)

/-- A FW_UPDATE is running: LOAD, JOIN and STEP are refused, a second one waits (R523). -/
def fwBusy (d : Dev) : Bool := getB d FW_STATUS FW_STATUS_BUSY

/-- A request whose payload bus-master reads fetch as it starts (R478). -/
def fetches (r : PReq) : Bool := r.pspace == 0 && (r.op == 2 || r.op == 5 || r.op == 6 || r.op == 9 || r.op == 0x12)

/-- A request that cannot start now (R476, R480, R508, R523; log 36). -/
def isHeld (d : Dev) (r : PReq) : Bool :=
  if fetches r && !busMaster d then true
  else if r.op = 8 then d.pan.step.isSome || boundaryBusy d
  else if r.op = 0x10 then d.boot.ptrans.isSome
  else if r.op = 0x12 then fwBusy d
  else waitsBoundary d r && (d.inStep || boundaryBusy d)

/-- The first request taken that satisfies p, if it and nothing ahead of it may start; taken from the list (R480). -/
def takeReq (d : Dev) (p : PReq → Bool) : Option (PReq × Dev) :=
  match d.pan.taken.find? (fun r => !isHeld d r) with
  | some r => if p r then some (r, { d with pan := { d.pan with taken := d.pan.taken.erase r } }) else none
  | none => none

/-- A row read for the management core (R251); none where no memory answers. -/
def mgmtRow (d : Dev) (a : Nat) : Option FRow × Dev := unitRead d a { tag := 0, mgmt := true }

/-- n rows from an address as one number; none where one is refused. -/
def mgmtRows (a : Nat) : Nat → Dev → Option Nat × Dev
  | 0, d => (some 0, d)
  | n + 1, d =>
    let r := mgmtRow d a
    let rs := mgmtRows (a + 128) n r.2
    (match r.1, rs.1 with
      | some x, some v => some (x.data.toNat + v <<< 1024)
      | _, _ => none, rs.2)

/-- The payload of a request: from the host (none: its fetch has failed) or from module-local memory; a status where there is
none (R478, R481). -/
def payload (d : Dev) (r : PReq) (host : Option Nat) : (Option Nat × Nat) × Dev :=
  if r.pspace = 0 then
    match host with
    | some v => ((some (v % 2 ^ (8 * r.plen)), 0), d)
    | none => ((none, 4), d)
  else
    let a := r.paddr
    let m := mgmtRows (a / 128 * 128) (ceilDiv (a % 128 + r.plen) 128) d
    match m.1 with
    | some v => ((some (bits v (8 * (a % 128)) (8 * r.plen)), 0), m.2)
    | none => ((none, 5), m.2)

/-- Byte ofs of ARGS, w bits. -/
def arg (r : PReq) (ofs w : Nat) : Nat := bits r.args.toNat (8 * ofs) w

/- Contexts (R391, R392) -/

def ctxState (d : Dev) (n : Nat) : Nat := ctxBits d n 5 3
def ctxProt (d : Dev) (n : Nat) : Bool := ctxBits d n 1 1 == 1
def ctxTag (d : Dev) (n : Nat) : Nat := ctxBits d n 8 8
def setCtx (d : Dev) (n v : Nat) : Dev := setWords d (CTX_DESC n 0) 16 v
def setCtxField (d : Dev) (n lo w v : Nat) : Dev := setCtx d n (insBits (getWords d (CTX_DESC n 0) 16) lo w v)

/-- A context's keys and logs. -/
def keysOf (d : Dev) (n : Nat) : CtxKeys := d.ctxKeys.get n {}
def setKeys (d : Dev) (n : Nat) (k : CtxKeys) : Dev := { d with ctxKeys := d.ctxKeys.put n k {} }

/-- The lowest key tag that no context holds (R392). -/
def freeTag (d : Dev) : Option Nat := ((List.range 255).map (· + 1)).find? (fun t => !getBitAt d (SEC_TAGS 0) t)

/-- The deployed life-cycle state (R415). -/
def lcState (d : Dev) : Nat := getF d SEC_LC SEC_LC_STATE

/-- A fresh ephemeral key pair (R404). -/
def drawEph (d : Dev) (n : Nat) : Dev :=
  let a := fresh d
  let b := fresh a.2
  setKeys b.2 n { (keysOf b.2 n) with eph := some (a.1 % 2 ^ 256, b.1 % 2 ^ 512), fails := 0, report := none }

/-- DEFINE (R392, R402). -/
def define (d : Dev) : Dev :=
  match takeReq d (fun r => r.op == 1) with
  | none => d
  | some (r, d1) =>
    let prot := bit r.flags 0
    let base := arg r 18 32
    let len := arg r 22 32
    if base + len > 98304 then finish d1 r.tag 1 0
    else if ctxBits d1 r.ctx 0 1 = 1 ∨ lcState d1 = 4 ∨ (prot && (lcState d1 != 2 || (freeTag d1).isNone)) then finish d1 r.tag 2 0
    else
      let tag := if prot then (freeTag d1).getD 0 else 0
      let v := 1 + fv 1 1 (b2n prot) + fv 2 1 (b2n (bit r.flags 1)) + fv 3 1 (b2n (bit r.flags 2)) + fv 4 1 (b2n (bit r.flags 3)) +
        fv 5 3 (b2n prot) + fv 8 8 tag + fv 32 16 (arg r 16 16) + fv 64 64 (arg r 0 64) + fv 128 64 (arg r 8 64) + fv 192 17 base +
        fv 209 17 len
      let d2 := setKeys (setCtx d1 r.ctx v) r.ctx {}
      finish (if prot then drawEph (setBitAt d2 (SEC_TAGS 0) tag true) r.ctx else d2) r.tag 0 0

/-- A package extends a context's log (R402). -/
def logPkg (d : Dev) (n : Nat) (p : Pkg) : Dev :=
  let k := keysOf d n
  setKeys d n { k with pkgLog := natOfBytes (sha384 (bytesOf 48 k.pkgLog ++ bytesOf 48 p.dig)), pkgCount := k.pkgCount + 1 }

/-- Core slots the context of a package would use. -/
def slotCores (d : Dev) (p : Pkg) : List Nat := (pkgSlots p).filterMap (fun q => slotCore d (q / 4) (q % 4))

/-- A LOAD that residency, with the loads under way counted in, forbids (R394, R396, R415, R489, R523). -/
def loadRefused (d : Dev) (n : Nat) (p : Pkg) : Bool :=
  let fill := ctxFiller d n
  let loading := d.pan.works.filter (fun w => w.op == 2)
  let others := ((slotCores d p).filterMap (fun c => residentOf d c (!fill))).eraseDups
  ctxBits d n 0 1 == 0 || ctxState d n != (if ctxProt d n then 2 else 0) || lcState d == 0 || lcState d == 4 ||
    getB d SB_JTAG SB_JTAG_PINS || fwBusy d ||
    (if fill then decide (16 ≤ d.res.fillers.length + (loading.filter (fun w => ctxFiller d w.ctx)).length) ||
        (slotCores d p).any (fun c => (core d c).resFill.isSome ||
          loading.any (fun w => ctxFiller d w.ctx && w.pkg.any (fun q => (slotCores d q).contains c)))
     else d.res.fg.isSome || loading.any (fun w => !ctxFiller d w.ctx) || (inJob d && ctxBits d n 128 64 != get64 d FAB_JOB_LO FAB_JOB_HI)) ||
    loading.any (fun w => w.ctx == n) ||
    others.any (fun o => ctxBits d n 4 1 == 1 || ctxBits d o 4 1 == 1 || ctxBits d n 32 16 &&& ctxBits d o 32 16 != 0)

/-- The in-service test context makes room: the management core evicts it when a filler is loaded (R466). -/
def dropTest (d : Dev) : Dev :=
  if d.flt.test then setB { d with flt := { d.flt with test := false, testPend := [] } } FLT_STATUS FLT_STATUS_TEST_RES false else d

/-- LOAD (R394-R397, R371, R402): the package is checked whole; its writes begin. -/
def load (host : Option Nat) (d : Dev) : Dev :=
  match takeReq d (fun r => r.op == 2) with
  | none => d
  | some (r, d1) => match payload d1 r host with
    | ((none, st), d2) => finish d2 r.tag st 0
    | ((some v, _), d2) =>
      let fill := ctxFiller d2 r.ctx
      let k := if fill then 2 else 0
      match parsePkg v r.plen with
      | none => finish (showRefusal d2 k (0, 0)) r.tag 3 0
      | some p =>
        if loadRefused d2 r.ctx p then finish d2 r.tag 2 0
        else match pkgRefusal d2 r.ctx k p none with
          | some x => let d3 := showRefusal d2 k x; finish d3 r.tag 3 (getR d3 PLC_REFUSE)
          | none =>
            let d3 := logPkg (if fill then dropTest d2 else setF d2 PLC_STATUS PLC_STATUS_STATE 1) r.ctx p
            let w : Work := { op := 2, flags := 0, tag := r.tag, ctx := r.ctx, pkg := some p }
            { d3 with pan := { d3.pan with works := d3.pan.works ++ [w] } }

/- Eviction (R198, R397) -/

/-- The streams of a context on one channel are cancelled or end (R198). -/
def evictChan (ctx c : Nat) (d : Dev) (n : Nat) : Dev :=
  let x := chan d c n
  let mine := fun (p : Option Prog) => p.any (fun p => p.ctx == ctx)
  let off := fun (p : Prog) => if isPhrase p && pOut p then { p with dead := true } else cancelled p
  let outs := [x.cur, x.next].filterMap (fun o => o.bind (fun p => if p.ctx = ctx ∧ isPhrase p ∧ pOut p ∧ hasAgent p then some p else none))
  if !mine x.cur && !mine x.next && !(x.flush.any (fun l => l.prog.ctx == ctx)) then d
  else
    let d1 := putChan d c n { x with
      cur := if mine x.cur then x.cur.map off else x.cur
      next := if mine x.next then x.next.map off else x.next
      quiet := x.quiet || [x.cur, x.next].any (fun o => o.any (fun p => p.ctx == ctx && isPhrase p && pOut p))
      closing := x.closing + outs.length
      lanes := []
      laneCnt := []
      flush := []
      capQ := [] }
    { d1 with closes := d1.closes ++ outs.map (fun p => { core := c, ch := n, unit := (unitOf (localAddr (pFarBase p))).getD 0, agent := pAgent p, sid := p.sid }) }

/-- Cores on which a context is resident. -/
def ctxCores (d : Dev) (n : Nat) : List Nat :=
  (List.range 320).filter (fun c => (core d c).resFg == some n || (core d c).resFill == some n)

/-- An eviction begins: its streams are cancelled, its windows closed (R198, R346, R397). -/
def startEvict (d : Dev) (op flags tag n : Nat) : Dev :=
  let d1 := (ctxCores d n).foldl (fun d c => (List.range 16).foldl (evictChan n c) d) d
  let d2 := (openWins d1 (fun w => wCtx w == n)).foldl (fun d w => closeWin d w none) d1
  let w : Work := { op := op, flags := flags, tag := tag, ctx := n }
  setCtxField { d2 with pan := { d2.pan with works := d2.pan.works ++ [w] } } n 5 3 4

/-- EVICT and EVICT_RELEASE (R395, R397). -/
def evictReq (rel : Bool) (d : Dev) : Dev :=
  match takeReq d (fun r => r.op == 3 && bit r.flags 0 == rel) with
  | none => d
  | some (r, d1) =>
    if ctxBits d1 r.ctx 0 1 = 0 ∨ ctxState d1 r.ctx ≠ 3 then finish d1 r.tag 2 0 else startEvict d1 3 r.flags r.tag r.ctx

/-- The chunks a context holds: by its key tag, or for an unprotected one by its package's map. -/
def heldChunks (d : Dev) (n : Nat) : List (Nat × Nat) :=
  let all := (List.range 128).flatMap (fun s => (List.range 18432).map (fun c => (s, c)))
  if ctxProt d n then (if ctxTag d n = 0 then [] else all.filter (fun x => chunkTag d x.1 x.2 == ctxTag d n))
  else match d.pkgs.find? (fun x => x.1 == n) with
    | some x =>
      let owns := fun (p : Pkg) (y : Nat × Nat) => match secOf p 9 y.1 with
        | some s => ownedChunk (secAt s 0 128 y.2) y.2
        | none => false
      -- a chunk that another resident context's package has taken since is no longer this one's
      let others := (d.pkgs.filter (fun z => z.1 != n && (d.res.fg == some z.1 || d.res.fillers.contains z.1))).map (·.2)
      all.filter (fun y => owns x.2 y && chunkTag d y.1 y.2 == 0 && !(others.any (fun p => owns p y) && !(d.res.fg == some n || d.res.fillers.contains n)))
    | none => []

/-- A context's chunks are retagged and wiped, and its key tag is freed (R252, R397). -/
def releaseChunks (d : Dev) (n : Nat) : Dev :=
  let d1 := (heldChunks d n).foldl (fun d x => retagChunk d x.1 x.2 0) d
  let t := ctxTag d n
  if t = 0 then d1
  else setCtxField (setBitAt { d1 with keyTable := d1.keyTable.put t 0 0 } (SEC_TAGS 0) t false) n 8 8 0

/-- A context's keys destroyed and its descriptor zeroed (R397, R404). -/
def zeroCtx (d : Dev) (n : Nat) : Dev :=
  let s := ctxBits d n 16 8
  let d1 := setCtx { d with ctxKeys := d.ctxKeys.put n {} {} } n 0
  if s = 0 then d1
  else { (setBitAt d1 (SEC_LKEYS 0) s false) with fab := { d1.fab with linkKeys := d1.fab.linkKeys.filter (fun x => x.1 != s) } }

/-- Context n has no package. -/
def noPkg (d : Dev) (n : Nat) : Dev := { d with pkgs := d.pkgs.filter (fun x => x.1 != n) }

/-- DELETE (R397); refused while the context's LOAD is under way (log 100). -/
def deleteReq (d : Dev) : Dev :=
  match takeReq d (fun r => r.op == 4) with
  | none => d
  | some (r, d1) =>
    let st := ctxState d1 r.ctx
    if ctxBits d1 r.ctx 0 1 = 0 ∨ st = 4 then finish d1 r.tag 2 0
    else if st = 3 then startEvict d1 4 1 r.tag r.ctx
    else if d1.pan.works.any (fun w => w.op == 2 && w.ctx == r.ctx) then finish d1 r.tag 2 0
    else finish (noPkg (zeroCtx (releaseChunks d1 r.ctx) r.ctx) r.ctx) r.tag 0 0

/-- Half of a core wiped for a context that leaves it, with its channels and its position, and the core's file cleared (R62, R119, R145,
R204, R397). -/
def wipeHalf (fill : Bool) (d : Dev) (c : Nat) : Dev :=
  let p := partRows d c fill
  let d1 := wipeRows d (shelfRowAddr c 0 p.1) (128 * (p.2 - p.1))
  let n0 := if fill then 256 else 0
  let kb := c * 16384 + (if fill then 8192 else 0)
  let ks := c * 4096 + (if fill then 2048 else 0)
  let d2 := { d1 with
    clauseStore := d1.clauseStore.cut kb (kb + 8192)
    clauseSeq := d1.clauseSeq.cut ks (ks + 2048)
    regs := (d1.regs.cut (HT_ENTRY_n_LO c n0) (HT_ENTRY_n_LO c (n0 + 256))).cut (STR_PROG c n0 0) (STR_PROG c (n0 + 256) 0) }
  modCore (freeChans (setPos (clearFile d2 c) c fill (0, 0)) c fill) c (fun k => { k with
    resFg := if fill then k.resFg else none
    resFill := if fill then none else k.resFill })

/-- A filler's own port map entries leave with it (log 39). -/
def dropPorts (d : Dev) (p : Pkg) : Dev :=
  (p.secs.filter (fun s => s.typ == 5)).foldl (fun d s => match secCore d s with
    | some c => { d with portMap := (List.range (secCount s 0 2)).foldl (fun t i =>
        if secAt s 0 16 i = 0 then t else Tbl.put t (c * 8192 + i) 0 0) d.portMap }
    | none => d) d

/-- Protected contexts resident (R418). -/
def showProt (d : Dev) : Dev :=
  setR d SEC_PROT (((d.res.fg.toList ++ d.res.fillers).filter (ctxProt d)).length)

/-- What an eviction or a context reset clears on the cores, in the sync objects and in the port maps (R397, R504). -/
def clearCtx (d : Dev) (n : Nat) : Dev :=
  let d1 := clearObjs n ((ctxCores d n).foldl (wipeHalf (ctxFiller d n)) d)
  match ctxFiller d n, d.pkgs.find? (fun x => x.1 == n) with
  | true, some x => dropPorts d1 x.2
  | _, _ => d1

/-- No context is the foreground (R397). -/
def noForeground (d : Dev) : Dev :=
  setR (setF { d with res := { d.res with fg := none }, staged := [], primary := none } PLC_STATUS PLC_STATUS_STATE 0) PLC_STAGED 0

/-- The foreground is gone: the module leaves its job, or drops the step request (R361, R482). -/
def endService (d : Dev) : Dev := if inJob d then leaveJob d else if d.pan.step.isSome then dropStep d else d

/-- Context n is no longer a filler. -/
def noFiller (d : Dev) (n : Nat) : Dev := { d with res := { d.res with fillers := d.res.fillers.filter (· != n) } }

/-- An eviction takes effect at a sentence origin (R397). The package of a context that keeps its chunks stays, as the record of what
it owns. -/
def applyEvict (d : Dev) (w : Work) : Dev :=
  let n := w.ctx
  let d3 := setCtxField (clearCtx d n) n 5 3 (if ctxProt (clearCtx d n) n then 2 else 0)
  let d4 := if bit w.flags 0 then releaseChunks d3 n else d3
  let d5 := if ctxFiller d n then noFiller d4 n else endService (noForeground d4)
  let d5 := if bit w.flags 0 then noPkg d5 n else d5
  finish (showProt (if w.op = 4 then zeroCtx d5 n else d5)) w.tag 0 0

/-- A load takes effect at a sentence origin (R397); a protected context without a key tag takes one (log 40). -/
def applyLoad (d : Dev) (w : Work) (p : Pkg) : Dev :=
  let n := w.ctx
  let fill := ctxFiller d n
  let d0 := match ctxProt d n && ctxTag d n == 0, freeTag d with
    | true, some t =>
      let f := fresh d
      setCtxField (setBitAt { f.2 with keyTable := f.2.keyTable.put t (BitVec.ofNat 512 f.1) 0 } (SEC_TAGS 0) t true) n 8 8 t
    | _, _ => d
  let d1 := if fill then { d0 with res := { d0.res with fillers := d0.res.fillers ++ [n] } } else { d0 with res := { d0.res with fg := some n } }
  let d2 := (List.range 32).foldl freeHeld (applyPkg d1 n p)
  finish (showProt (setCtxField d2 n 5 3 3)) w.tag 0 0

/-- No stream of a context runs or closes any more (R198). -/
def streamsGone (d : Dev) (n : Nat) : Bool :=
  (ctxCores d n).all (fun c => (List.range 16).all (fun i =>
    let x := chan d c i
    x.closing == 0 && !(x.cur.any (fun p => p.ctx == n)) && !(x.next.any (fun p => p.ctx == n))))

/-- CONTEXT_WRITES_DONE (R397): the writes of the n-th load or eviction under way are complete; it takes effect at the next origin. -/
def contextWritesDone (n : Nat) (d : Dev) : Dev :=
  match d.pan.works[n]? with
  | none => d
  | some w =>
    if w.op = 2 ∨ ((w.op = 3 ∨ w.op = 4) ∧ streamsGone d w.ctx ∧ d.fab.closing.all (fun x => wCtx (winDesc d x.1) != w.ctx)) then
      { d with pan := { d.pan with works := d.pan.works.set n { w with done := true } } }
    else d

/-- Loads and evictions whose writes are done take effect at an origin (R62, R397). -/
def applyWorks (d : Dev) : Dev :=
  let ready := d.pan.works.filter (·.done)
  ready.foldl (fun d w => match w.op, w.pkg with
    | 2, some p => applyLoad d w p
    | 2, none => d
    | _, _ => applyEvict d w) { d with pan := { d.pan with works := d.pan.works.filter (fun w => !w.done) } }

/- Degraded placements (R374-R377) -/

/-- Works that keep every core idle: a degraded load (100) or the wait for a package (101). -/
def isDegraded (w : Work) : Bool := w.op == 100 || w.op == 101

/-- A degraded load for the present lost set begins, or a record asks for a package (R376, R377). -/
def startDegraded (d : Dev) : Dev :=
  let d1 := { d with pan := { d.pan with works := d.pan.works.filter (fun w => !isDegraded w) } }
  let lost := lostSet d
  let p := if lost = 0 then d.primary else d.staged.find? (fun p => pkLost p == lost)
  let add := fun (d : Dev) (w : Work) => { d with pan := { d.pan with works := d.pan.works ++ [w] } }
  match d.res.fg with
  | none => d1
  | some c => match p with
    | some p => add (setF d1 PLC_STATUS PLC_STATUS_STATE 1) { op := 100, flags := 0, tag := 0, ctx := c, pkg := some p, src := lost }
    | none => add (postCq d1 5 0x14 0 lost 0 0) { op := 101, flags := 0, tag := 0, ctx := c, src := lost }

/-- DEGRADED_LOAD_DONE (R376): the sections of a degraded package are written. -/
def degradedLoadDone (d : Dev) : Dev :=
  match d.pan.works.find? (fun w => w.op == 100) with
  | none => d
  | some w =>
    if w.src ≠ lostSet d then startDegraded d
    else match w.pkg with
      | some p => applyPkg { d with pan := { d.pan with works := d.pan.works.filter (fun x => !isDegraded x) } } w.ctx p
      | none => d

/-- STAGE (R374): a degraded package is checked and staged; a wait for it ends (R376). -/
def stage (host : Option Nat) (d : Dev) : Dev :=
  match takeReq d (fun r => r.op == 5) with
  | none => d
  | some (r, d1) => match payload d1 r host with
    | ((none, st), d2) => finish d2 r.tag st 0
    | ((some v, _), d2) =>
      match d2.res.fg, d2.primary with
      | some c, some q =>
        if c ≠ r.ctx then finish d2 r.tag 2 0
        else match parsePkg v r.plen with
          | none => finish (showRefusal d2 1 (0, 0)) r.tag 3 0
          | some p => match pkgRefusal d2 c 1 p (some q) with
            | some x => let d3 := showRefusal d2 1 x; finish d3 r.tag 3 (getR d3 PLC_REFUSE)
            | none =>
              let rest := d2.staged.filter (fun s => pkLost s != pkLost p)
              if rest.length = d2.staged.length ∧ 80 ≤ d2.staged.length then finish d2 r.tag 2 0
              else
                let d3 := setR { d2 with staged := rest ++ [p] } PLC_STAGED (rest.length + 1)
                let d4 := finish (logPkg d3 c p) r.tag 0 0
                if d4.pan.works.any (fun w => w.op == 101) && pkLost p == lostSet d4 then startDegraded d4 else d4
      | _, _ => finish d2 r.tag 2 0

/- The other requests -/

/-- RULES (R277): the rule table is replaced between steps. -/
def rules (host : Option Nat) (d : Dev) : Dev :=
  match takeReq d (fun r => r.op == 9) with
  | none => d
  | some (r, d1) => match payload d1 r host with
    | ((none, st), d2) => finish d2 r.tag st 0
    | ((some v, _), d2) =>
      let s : Sec := { typ := 0xB, idx := 0, len := r.plen, body := v }
      if d2.res.fg.isNone then finish d2 r.tag 2 0
      else if !rulesOk s then finish d2 r.tag 1 0
      else finish (loadSec r.ctx false 0 d2 s) r.tag 0 0

/-- JOIN (R355, R356, R394, R415): refused where the life-cycle state allows no job or the foreground belongs to another (log 100); a membership record is checked and loaded; the join completes by JOIN_PACKET or fails. -/
def join (host : Option Nat) (d : Dev) : Dev :=
  match takeReq d (fun r => r.op == 6) with
  | none => d
  | some (r, d1) => match payload d1 r host with
    | ((none, st), d2) => finish d2 r.tag st 0
    | ((some v, _), d2) =>
      if getF d2 FAB_STATE FAB_STATE_STATE ≠ 0 ∨ fwBusy d2 ∨ lcState d2 = 0 ∨ lcState d2 = 4 then finish d2 r.tag 2 0
      else if !mrOk d2 v r.plen then finish d2 r.tag 1 0
      else if d2.res.fg.any (fun n => ctxBits d2 n 128 64 != mrJob v) then finish d2 r.tag 2 0
      else startJoin d2 r.tag v

/-- LEAVE (R361). -/
def leave (d : Dev) : Dev :=
  match takeReq d (fun r => r.op == 7) with
  | none => d
  | some (r, d1) => if inJob d1 then finish (leaveJob d1) r.tag 0 0 else finish d1 r.tag 2 0

/-- STEP (R482): steps of the foreground context are asked for. -/
def stepReq (d : Dev) : Dev :=
  match takeReq d (fun r => r.op == 8) with
  | none => d
  | some (r, d1) =>
    let nin := arg r 4 8
    let exts := (List.range 8).all (fun i => arg r (16 + 16 * i + 6) 16 == 0)
    if arg r 0 32 = 0 ∨ 8 < nin ∨ arg r 5 24 ≠ 0 ∨ !exts then finish d1 r.tag 1 0
    else if d1.res.fg ≠ some r.ctx ∨ fwBusy d1 ∨ (0 < nin ∧ ctxBits d1 r.ctx 209 17 = 0) then finish d1 r.tag 2 0
    else
      let s : StepReq := { tag := r.tag, count := arg r 0 32, nin := nin, stride := arg r 8 64, ext := BitVec.ofNat 1024 (arg r 16 1024) }
      { d1 with pan := { d1.pan with step := some s } }

/-- The input table of a step's request in every tile's larder (R482). -/
def writeInputs (d : Dev) (s : StepReq) : Dev :=
  match d.res.fg with
  | none => d
  | some c =>
    if ctxBits d c 209 17 = 0 then d
    else
      let ent := fun i => if i < s.nin then
          (bits s.ext.toNat (128 * i) 64 + s.k * s.stride) % 2 ^ 64 + bits s.ext.toNat (128 * i + 64) 64 <<< 64
        else 0
      let row0 := (List.range 8).foldl (fun acc i => acc + ent i <<< (128 * i)) 0
      (List.range 64).foldl (fun d t =>
        if baseLost d t then d
        else
          let a := larderAddr t (4096 * ctxBits d c 192 17)
          let row1 := insBits (rowData d (a + 128)).toNat 0 64 (stepNo d)
          putRow (putRow d a (BitVec.ofNat 1024 row0) false 0) (a + 128) (BitVec.ofNat 1024 row1) false 0) d

/-- WINDOW_OPEN (R345): a service window outside any job. -/
def windowOpen (d : Dev) : Dev :=
  match takeReq d (fun r => r.op == 0xF && !bit r.flags 0) with
  | none => d
  | some (r, d1) =>
    let n := arg r 0 16
    let w := arg r 2 512
    if 8192 ≤ n ∨ wReserved w ≠ 0 ∨ wEpoch w ≠ 0 ∨ wBase w % 128 ≠ 0 ∨ wLen w = 0 ∨ !winSpanOk (wBase w) (wLen w) then finish d1 r.tag 1 0
    else if winOk d1 n w 0 then finish (openWin d1 n w) r.tag 0 0
    else finish d1 r.tag 2 0

/-- WINDOW_CLOSE (R345, R346): the request completes with WINDOW_CLOSE_DONE. -/
def windowClose (d : Dev) : Dev :=
  match takeReq d (fun r => r.op == 0xF && bit r.flags 0) with
  | none => d
  | some (r, d1) =>
    let n := arg r 0 16
    if 8192 ≤ n then finish d1 r.tag 1 0
    else if !wValid (winDesc d1 n) ∨ wEpoch (winDesc d1 n) ≠ 0 then finish d1 r.tag 2 0
    else closeWin d1 n (some r.tag)

/-- TILE_RETURN (R376, R448): a tile shed with a foreground region returns: a change of the lost set. -/
def tileReturn (d : Dev) : Dev :=
  match takeReq d (fun r => r.op == 0xE) with
  | none => d
  | some (r, d1) =>
    let t := arg r 0 8
    if 64 ≤ t then finish d1 r.tag 1 0
    else if !tileShed d1 t ∨ d1.heat.fillerShed.contains t then finish d1 r.tag 2 0
    else finish (raiseRerun (setBitAt (returnTile d1 t) MOD_TILE_LOST_0 t false) .step) r.tag 0 0

/- Sealed blobs (R406-R410) -/

/-- Bytes of a blob in the reserve, by row. -/
def reserveBytes (d : Dev) (a n : Nat) : Option Nat × Dev :=
  let r := mgmtRows (a / 128 * 128) (ceilDiv (a % 128 + n) 128) d
  (r.1.map (fun v => bits v (8 * (a % 128)) (8 * n)), r.2)

/-- The nonce and the associated data of chunk c of a blob (R408). -/
def blobNonce (hdr c : Nat) : List Nat := bytesBE 4 (bits hdr 32 32) ++ bytesBE 2 (bits hdr 64 16) ++ [0, 0] ++ bytesBE 4 c
def blobAad (hdr c : Nat) : List Nat := bytesOf 64 hdr ++ bytesBE 4 c

/-- A chunk id names a chunk that carries the context's key tag (R409). -/
def ownsChunk (d : Dev) (ctx c : Nat) : Bool :=
  ctxTag d ctx != 0 && decide (c % 32768 < 18432) && chunkTag d (c / 32768) (c % 32768) == ctxTag d ctx

/-- BLOB_LOAD (R409): the manifest is checked and the chunks begin to open (log 37). -/
def blobLoad (d : Dev) : Dev :=
  match takeReq d (fun r => r.op == 0xA) with
  | none => d
  | some (r, d1) =>
    let st := ctxState d1 r.ctx
    match reserveBytes d1 r.paddr 64 with
    | (none, d1) => finish d1 r.tag 5 0
    | (some h, d1) =>
      let n := bits h 96 32
      let k := keysOf d1 r.ctx
      let id := (bits h 32 32, bits h 64 16)
      if r.pspace ≠ 1 ∨ bits h 0 32 ≠ 1 ∨ bits h 80 16 ≠ 0 ∨ (bits h 63 1 = 0 ∧ bits h 64 16 ≠ 0) then finish d1 r.tag 1 0
      else if !ctxProt d1 r.ctx ∨ (st ≠ 2 ∧ st ≠ 3) ∨ k.kw.isNone ∨ k.blobs.contains id then finish d1 r.tag 2 0
      else match reserveBytes d1 (r.paddr + 64) (8 * n) with
        | (none, d1) => finish d1 r.tag 5 0
        | (some m, d1) =>
          let dests := (List.range n).map (fun i => bits m (64 * i) 22)
          if natOfBytes (sha384 (bytesOf (8 * n) m)) ≠ bits h 128 384 ∨
              (List.range n).any (fun i => bits m (64 * i + 22) 2 != 0 || bits m (64 * i + 35) 29 != 0) then finish d1 r.tag 1 0
          else if !dests.all (ownsChunk d1 r.ctx) then finish d1 r.tag 5 0
          else
            let w : Work := { op := 0xA, flags := 0, tag := r.tag, ctx := r.ctx, src := r.paddr, len := n, data := m }
            { d1 with pan := { d1.pan with works := d1.pan.works ++ [w] } }

/-- A chunk's plaintext written under a context's tag into the chunk LIVE names, or the plain chunk itself (R409); on a lost stack each
write is dropped (R245). -/
def putChunk (d : Dev) (tag c v : Nat) : Dev :=
  let n := c / 32768
  let ch := c % 32768
  let e := mapEntry d n ch
  let phys := if meKind e = 1 then meLive e else ch
  (List.range (chunkSize / 128)).foldl (fun d i =>
    if stackLost d n then ccLostAccess d n (ch * chunkSize + 128 * i) { mgmt := true }
    else ccStore d (cellarAddr n (phys * chunkSize + 128 * i)) (ccCrypt d false tag (chunkAddr c (128 * i)) (bits v (1024 * i) 1024)) false) d

/-- Chunks of a blob opened in order from chunk c; false at the first whose tag fails (R408, R409). -/
def openChunks (w : Work) (hdr tag : Nat) (kw : List Nat) : Nat → Nat → Dev → Bool × Dev
  | 0, _, d => (true, d)
  | n + 1, c, d =>
    let dst := bits w.data (64 * c) 22
    let r := reserveBytes d (w.src + 64 + 8 * w.len + c * (chunkSize + 16)) (chunkSize + 16)
    let x := r.1.getD 0
    match gcmOpen kw (blobNonce hdr c) (blobAad hdr c) (bytesOf chunkSize x) (bytesOf 16 (x >>> (8 * chunkSize))) with
    | some pt => openChunks w hdr tag kw n (c + 1) (putChunk r.2 tag dst (natOfBytes pt))
    | none => (false, putChunk r.2 tag dst 0)

/-- BLOB_LOAD_DONE (R402, R409): the n-th request under way, a blob load, completes or fails. A row whose chunk has changed owner since is
refused (R252), and so is a blob that another request has loaded since. -/
def blobLoadDone (n : Nat) (d : Dev) : Dev :=
  match d.pan.works[n]? with
  | none => d
  | some w =>
    if w.op ≠ 0xA then d
    else
      let d1 := { d with pan := { d.pan with works := d.pan.works.eraseIdx n } }
      let k := keysOf d1 w.ctx
      let h := reserveBytes d1 w.src 64
      let hdr := h.1.getD 0
      match k.kw with
      | none => finish h.2 w.tag 2 0
      | some kw =>
        if k.blobs.contains (bits hdr 32 32, bits hdr 64 16) then finish h.2 w.tag 2 0
        else if !((List.range w.len).map (fun i => bits w.data (64 * i) 22)).all (ownsChunk h.2 w.ctx) then finish h.2 w.tag 5 0
        else
        let o := openChunks w hdr (ctxTag h.2 w.ctx) (bytesOf 32 kw.toNat) w.len 0 h.2
        if !o.1 then finish o.2 w.tag 9 0
        else
          let man := sha384 (bytesOf (8 * w.len) w.data)
          let k1 := keysOf o.2 w.ctx
          let d2 := setKeys o.2 w.ctx { k1 with manLog := natOfBytes (sha384 (bytesOf 48 k1.manLog ++ man)), manCount := k1.manCount + 1,
                                                blobs := k1.blobs ++ [(bits hdr 32 32, bits hdr 64 16)] }
          let cs := (List.range w.len).map (fun i => let c := bits w.data (64 * i) 22; c / 32768 * 18432 + c % 32768)
          finish { d2 with manifestChunks := d2.manifestChunks ++ cs.filter (fun c => !d2.manifestChunks.contains c) } w.tag 0 0

/-- CKPT_OUT (R410). -/
def ckptOut (d : Dev) : Dev :=
  match takeReq d (fun r => r.op == 0xB) with
  | none => d
  | some (r, d1) =>
    let k := keysOf d1 r.ctx
    let st := ctxState d1 r.ctx
    if arg r 0 64 % 128 ≠ 0 then finish d1 r.tag 1 0
    else if !ctxProt d1 r.ctx ∨ (st ≠ 2 ∧ st ≠ 3) ∨ !k.ckpt ∨ k.kw.isNone ∨ 2 ^ 31 ≤ epoch d1 then finish d1 r.tag 2 0
    else
      let w : Work := { op := 0xB, flags := 0, tag := r.tag, ctx := r.ctx, dst := arg r 0 64 }
      { d1 with pan := { d1.pan with works := d1.pan.works ++ [w] } }

/-- The update orders of a context: those loaded where it is the foreground, else those of its package, by tile (R262, R410). -/
def ctxOrders (d : Dev) (ctx : Nat) : List (List Nat) :=
  (List.range 64).map (fun t =>
    if d.res.fg = some ctx then
      (List.range (getF d (UE_ORDER t) UE_ORDER_LEN)).map (fun i => (d.upd.order.get (t * 1024 + i) 0).toNat)
    else match (d.pkgs.find? (fun x => x.1 == ctx)).bind (fun x => secOf x.2 0xA t) with
      | some s => (List.range (secCount s 0 64)).map (secAt s 0 512)
      | none => [])

/-- The manifest of a context's committed state (R407, R410, R462; log 41): the chunks of its shards' mapped arrays, by tile and update
order, then the plain chunks that its weight manifests name, as plain arrays; each that carries its key tag. -/
def ckptManifest (d : Dev) (ctx : Nat) : List Nat :=
  let arrays := ((ctxOrders d ctx).zip (List.range 64)).flatMap (fun o => o.1.flatMap (fun s =>
    let r := ruleEntry d o.2 (sdRule s)
    let n := shardPanels d s
    (List.range 7).flatMap (fun a => (List.range (ceilDiv (arrayBytes s r a n) chunkSize)).map (fun j =>
      fv 0 22 (sdChunk s a + j) + fv 24 8 (sdRegion s) + fv 32 3 a))))
  let plain := (d.manifestChunks.filter (fun c => meKind (mapEntry d (c / 18432) (c % 18432)) == 0)).map (fun c =>
    fv 0 22 (c / 18432 * 32768 + c % 18432) + fv 32 3 7)
  (arrays ++ plain).filter (fun x => ownsChunk d ctx (bits x 0 22))

/-- m rows of stack n from byte ofs as one number, as the controller reads them for the management core (R243, R245). -/
def mgmtPlain (n ofs : Nat) : Nat → Dev → Nat × Dev
  | 0, d => (0, d)
  | m + 1, d =>
    let r := ccRead d n ofs { mgmt := true }
    let rs := mgmtPlain n (ofs + 128) m r.2
    ((r.1.getD {}).data.toNat + rs.1 <<< 1024, rs.2)

/-- The committed data of a chunk, from its readable copy (R243, R245, R410). -/
def chunkPlain (d : Dev) (c : Nat) : Nat × Dev := mgmtPlain (c / 32768) (c % 32768 * chunkSize) (chunkSize / 128) d

/-- The sealed chunks of a manifest, from its chunk c on (R408, R410). -/
def sealChunks (kw : List Nat) (hdr : Nat) : List Nat → Nat → Dev → List Nat × Dev
  | [], _, d => ([], d)
  | x :: xs, c, d =>
    let p := chunkPlain d (bits x 0 22)
    let s := gcmSeal kw (blobNonce hdr c) (blobAad hdr c) (bytesOf chunkSize p.1)
    let r := sealChunks kw hdr xs (c + 1) p.2
    (s.1 ++ s.2 ++ r.1, r.2)

/-- n bytes written for the management core from an address of whole rows; false where a row is refused. -/
def mgmtWrite (a v : Nat) : Nat → Dev → Bool × Dev
  | 0, d => (true, d)
  | n + 1, d =>
    let r := unitWrite d a { data := BitVec.ofNat 1024 v } { tag := 0 }
    let rs := mgmtWrite (a + 128) (v >>> 1024) n r.2
    (r.1 && rs.1, rs.2)

/-- A checkpoint copies every chunk map into the runtime reserve (R274). -/
def copyMaps (d : Dev) : Dev := { d with upd := { d.upd with mapCopy := d.cmap } }

/-- CKPT_OUT_DONE (R274, R408, R410): the n-th request under way, a checkpoint, has been sealed and written. -/
def ckptOutDone (n : Nat) (d : Dev) : Dev :=
  match d.pan.works[n]? with
  | none => d
  | some w =>
    if w.op ≠ 0xB then d
    else
      let d1 := copyMaps { d with pan := { d.pan with works := d.pan.works.eraseIdx n } }
      match (keysOf d1 w.ctx).kw with
      | none => finish d1 w.tag 2 0
      | some kw =>
        let m := ckptManifest d1 w.ctx
        let man := m.flatMap (bytesOf 8)
        let hdr := fv 0 32 1 + fv 32 32 (0x80000000 + epoch d1) + fv 64 16 (myMod d1) + fv 96 32 m.length +
          natOfBytes (sha384 man) <<< 128
        let body := sealChunks (bytesOf 32 kw.toNat) hdr m 0 d1
        let bytes := bytesOf 64 hdr ++ man ++ body.1
        let o := mgmtWrite w.dst (natOfBytes bytes) (ceilDiv bytes.length 128) body.2
        finish o.2 w.tag (if o.1 then 0 else 5) 0

/- Copies -/

/-- A bulk slot of E5 or E6 leads to, or for a read from, an address (R26, R72). -/
def hostLeads (d : Dev) (a : Nat) (wr : Bool) : Bool := bulkLeads d 5 a wr || bulkLeads d 6 a wr

/-- COPY_IN (R481): rows of host memory are asked for. -/
def copyIn (d : Dev) : Dev :=
  match takeReq d (fun r => r.op == 0xC) with
  | none => d
  | some (r, d1) =>
    if arg r 0 64 % 128 ≠ 0 ∨ r.plen % 128 ≠ 0 ∨ r.pspace ≠ 0 then finish d1 r.tag 1 0
    else
      let w : Work := { op := 0xC, flags := 0, tag := r.tag, ctx := r.ctx, src := r.paddr, dst := arg r 0 64, len := r.plen / 128 }
      { d1 with pan := { d1.pan with works := d1.pan.works ++ [w] } }

/-- Rows written by the host bulk path with tag 0 until one is refused. -/
def hostRows (a v : Nat) : Nat → Dev → Bool × Dev
  | 0, d => (true, d)
  | n + 1, d =>
    if !hostLeads d a true then (false, d)
    else
      let r := unitWrite d a { data := BitVec.ofNat 1024 v } { tag := 0 }
      if r.1 then hostRows (a + 128) (v >>> 1024) n r.2 else (false, r.2)

/-- COPY_IN_DONE (R481): the rows of the n-th request under way, a COPY_IN, have been fetched (none: the fetch failed) and land. -/
def copyInDone (n : Nat) (host : Option Nat) (d : Dev) : Dev :=
  match d.pan.works[n]? with
  | none => d
  | some w =>
    if w.op ≠ 0xC ∨ !busMaster d then d
    else
      let d1 := { d with pan := { d.pan with works := d.pan.works.eraseIdx n } }
      match host with
      | none => finish d1 w.tag 4 0
      | some v =>
        let o := hostRows w.dst v w.len d1
        finish o.2 w.tag (if o.1 then 0 else 5) 0

/-- COPY_OUT (R481): module-local memory is to be copied to the host. -/
def copyOut (d : Dev) : Dev :=
  match takeReq d (fun r => r.op == 0xD) with
  | none => d
  | some (r, d1) =>
    let w : Work := { op := 0xD, flags := 0, tag := r.tag, ctx := r.ctx, src := arg r 0 64, dst := arg r 8 64, len := arg r 16 32 }
    { d1 with pan := { d1.pan with works := d1.pan.works ++ [w] } }

/-- Bytes read by the host bulk path with tag 0 and written to the host, a row's part at a time, until a row is refused. -/
def hostOut (a b : Nat) : Nat → Nat → Dev → Bool × Dev
  | 0, _, d => (true, d)
  | n + 1, left, d =>
    let m := min left (128 - a % 128)
    if left = 0 then (true, d)
    else if !hostLeads d (a / 128 * 128) false then (false, d)
    else
      let r := unitRead d (a / 128 * 128) { tag := 0 }
      match r.1 with
      | none => (false, r.2)
      | some x =>
        hostOut (a + m) (b + m) n (left - m) { r.2 with out := r.2.out ++ [.hostWrite b m (bits x.data.toNat (8 * (a % 128)) (8 * m))] }

/-- COPY_OUT_DONE (R274, R275, R481): the last bus-master write of the n-th request under way, a COPY_OUT, has been issued. -/
def copyOutDone (n : Nat) (d : Dev) : Dev :=
  match d.pan.works[n]? with
  | none => d
  | some w =>
    if w.op ≠ 0xD ∨ !busMaster d then d
    else
      let o := hostOut w.src w.dst (w.len / 128 + 2) w.len (copyMaps { d with pan := { d.pan with works := d.pan.works.eraseIdx n } })
      finish o.2 w.tag (if o.1 then 0 else 5) 0

/-- PANTRY_REQUEST_RELEASE (R395, R480): the oldest request that waited for a step boundary starts at that boundary. -/
def pantryRelease (host : Option Nat) (d : Dev) : Dev :=
  match d.pan.taken.find? (fun r => !isHeld d r) with
  | none => d
  | some r =>
    match r.op with
    | 2 => load host d
    | 3 => evictReq (bit r.flags 0) d
    | 4 => deleteReq d
    | 6 => join host d
    | 7 => leave d
    | 8 => stepReq d
    | 9 => rules host d
    | _ => d

end Sys2Proof.Machine
end

