-- ==== Sys2Proof/Machine/ExecCtx.lean ====
section
/-!
DEFINITION. Machine/ExecCtx.lean: the pantry's requests (R277, R345, R355, R374, R391-R410, R448, R478-R482). One meaning for each command, over the operations of its chapter.
-/
namespace Sys2Proof.Machine

/-- PANTRY_POLL (R479): While TG_CTL.RUN is 0, a 25 µs timer expires and the device samples the pantry. -/
def execPantryPoll (s : State) : Answer := act s (pantryPoll)

/-- DEGRADED_LOAD_DONE (R376): A degraded package's sections are written and PLC_STATUS shows loaded. -/
def execDegradedLoadDone (s : State) : Answer := act s (degradedLoadDone)

/-- DEFINE (R392): Pantry request defining a context. -/
def execDefine (s : State) : Answer := act s (define)

/-- LOAD (R394): Pantry request making a context resident from a placement package. -/
def execLoad (host : Option Nat) (s : State) : Answer := act s (load host)

/-- EVICT (R397): Pantry request evicting a resident context. -/
def execEvict (s : State) : Answer := act s (evictReq false)

/-- EVICT_RELEASE (R397): Pantry eviction with RELEASE, also wiping chunks and freeing the key tag. -/
def execEvictRelease (s : State) : Answer := act s (evictReq true)

/-- DELETE (R397): Pantry request deleting a context and its keys. -/
def execDelete (s : State) : Answer := act s (deleteReq)

/-- CONTEXT_WRITES_DONE (R397): The writes of a load or eviction complete and take effect at the next origin. -/
def execContextWritesDone (n : Nat) (s : State) : Answer := act s (contextWritesDone n)

/-- STAGE (R374): Pantry request staging a degraded package. -/
def execStage (host : Option Nat) (s : State) : Answer := act s (stage host)

/-- JOIN (R355): Pantry request joining a job from a membership record. -/
def execJoin (host : Option Nat) (s : State) : Answer := act s (join host)

/-- LEAVE (R361): Pantry request leaving the job. -/
def execLeave (s : State) : Answer := act s (leave)

/-- STEP (R482): Pantry request running COUNT steps with input tables. -/
def execStep (s : State) : Answer := act s (stepReq)

/-- RULES (R277): Pantry request replacing the rule table between steps. -/
def execRules (host : Option Nat) (s : State) : Answer := act s (rules host)

/-- PANTRY_REQUEST_RELEASE (R395): A request held for a step boundary starts at that boundary. -/
def execPantryRequestRelease (host : Option Nat) (s : State) : Answer := act s (pantryRelease host)

/-- BLOB_LOAD (R409): Pantry request opening a sealed weight blob into a context's chunks. -/
def execBlobLoad (s : State) : Answer := act s (blobLoad)

/-- BLOB_LOAD_DONE (R409): A blob load completes or fails on a tag failure. -/
def execBlobLoadDone (n : Nat) (s : State) : Answer := act s (blobLoadDone n)

/-- CKPT_OUT (R410): Pantry request writing committed state as sealed checkpoint blobs. -/
def execCkptOut (s : State) : Answer := act s (ckptOut)

/-- COPY_IN (R481): Pantry request copying host memory into module-local memory. -/
def execCopyIn (s : State) : Answer := act s (copyIn)

/-- COPY_OUT (R481): Pantry request copying module-local memory to the host. -/
def execCopyOut (s : State) : Answer := act s (copyOut)

/-- TILE_RETURN (R448): Pantry request returning a foreground-shed tile. -/
def execTileReturn (s : State) : Answer := act s (tileReturn)

/-- WINDOW_OPEN (R345): Pantry WINDOW request opening a service window. -/
def execWindowOpen (s : State) : Answer := act s (windowOpen)

/-- WINDOW_CLOSE (R346): Pantry WINDOW request with close flag closing a service window. -/
def execWindowClose (s : State) : Answer := act s (windowClose)

/-- CKPT_OUT_DONE (R410): Every chunk of a checkpoint write has been sealed and written, and the request completes with its completion record. -/
def execCkptOutDone (n : Nat) (s : State) : Answer := act s (ckptOutDone n)

/-- COPY_IN_DONE (R481): The last row of a COPY_IN has been fetched from host memory and has landed, and the request completes or fails. -/
def execCopyInDone (n : Nat) (host : Option Nat) (s : State) : Answer := act s (copyInDone n host)

/-- COPY_OUT_DONE (R481): The last bus-master write of a COPY_OUT has been issued, and the request completes with its completion record. -/
def execCopyOutDone (n : Nat) (s : State) : Answer := act s (copyOutDone n)

end Sys2Proof.Machine
end

