-- ==== Sys2Proof/Machine/ExecExchange.lean ====
section
/-!
DEFINITION. Machine/ExecExchange.lean: expert exchange (R379-R390). One meaning for each command, over the operations of its chapter.
-/
namespace Sys2Proof.Machine

/-- DISPATCH (R384): Exchange engine packs tokens per expert and sends them to expert windows. -/
def execDispatch (k : Nat) (s : State) : Answer := act s (dispatch k)

/-- COMBINE (R385): Exchange engine returns expert results to their original token order. -/
def execCombine (k : Nat) (s : State) : Answer := act s (combine k)

/-- XCH_DESC_START (R381): The exchange engine starts its next descriptor once START is reached. -/
def execXchDescStart (k : Nat) (s : State) : Answer := act s (xchDescStart k)

/-- XCH_DESC_DONE (R381): Every packet of an exchange descriptor is answered or timed out and the exchange engine adds 1 to DONE. -/
def execXchDescDone (k : Nat) (s : State) : Answer := act s (xchDescDone k)

end Sys2Proof.Machine
end

