-- ==== Sys2Proof/Machine/ExecFabric.lean ====
section
/-!
DEFINITION. Machine/ExecFabric.lean: packets of remote requests, responses and sync messages (R344-R351). One meaning for each command, over the operations of its chapter.
-/
namespace Sys2Proof.Machine

/-- SHELF_WINDOW_ROW (R147): A shelf-window row from an edge die or the host path reaches a core's stream port over the CN. -/
def execShelfWindowRow (n : Nat) (s : State) : Answer := act s (shelfWindowRow n)

/-- BULK_REFUSE_REPORT (R545): A bulk agent's report of a refused row reaches the sending die, which answers accordingly. -/
def execBulkRefuseReport (n : Nat) (s : State) : Answer := act s (bulkRefuseReport n)

/-- SYNC (R324): A sync message from another module arrives and is accepted or refused. -/
def execSync (p n : Nat) (s : State) : Answer := act s (syncIn p n)

/-- WRITE (R347): A remote WRITE arrives and is checked against its window. -/
def execWrite (p n : Nat) (s : State) : Answer := act s (remoteWrite p n)

/-- READ (R347): A remote READ arrives and is checked against its window. -/
def execRead (p n : Nat) (s : State) : Answer := act s (remoteRead p n)

/-- WINDOW_LAND (R347): A held request's bulk slot or CN path comes round; rows land or are read, and ACK, NACK or RDATA is sent. -/
def execWindowLand (n m : Nat) (s : State) : Answer := act s (windowLand n m)

/-- RDATA (R348): A read response arrives and its rows land at LOCAL. -/
def execRdata (p n : Nat) (s : State) : Answer := act s (rdataIn p n)

/-- ACK (R348): An acknowledgement of an outstanding request arrives. -/
def execAck (p n : Nat) (s : State) : Answer := act s (ackIn p n)

/-- NACK (R348): A refusal of an outstanding request arrives. -/
def execNack (p n : Nat) (s : State) : Answer := act s (nackIn p n)

/-- TXN_TIMEOUT (R351): A request unanswered within FAB_TXN_TO times out. -/
def execTxnTimeout (n : Nat) (s : State) : Answer := act s (txnTimeout n)

/-- WINDOW_CLOSE_DONE (R346): A closing window completes once no committed WRITE has rows still to land. -/
def execWindowCloseDone (n : Nat) (s : State) : Answer := act s (windowCloseDone n)

end Sys2Proof.Machine
end

