-- ==== Sys2Proof/Machine/Fault.lean ====
section
/-!
DEFINITION. Machine/Fault.lean: error records at the management core, counting windows, lasting faults, the persistent log, spare
takeover, committed-state repair and the in-service test (R452-R471).
-/
namespace Sys2Proof.Machine

/- The fields of a record (R453) -/

def erCls (e : BitVec 512) : Nat := bits e.toNat 8 8
def erKind (e : BitVec 512) : Nat := bits e.toNat 16 8
def erRerun (e : BitVec 512) : Bool := bit e.toNat 25
def erUnit (e : BitVec 512) : Nat := bits e.toNat 32 16
def erSub (e : BitVec 512) : Nat := bits e.toNat 48 16
def erSeq (e : BitVec 512) : Nat := bits e.toNat 384 32

/-- A record as the management core places it: LASTING, PERSIST, COUNT, SEQ and the CRC (R453). -/
def stamp (e : BitVec 512) (lasting persist : Bool) (count seq : Nat) : BitVec 512 :=
  let v := insBits (insBits (insBits (insBits e.toNat 26 1 (b2n lasting)) 27 1 (b2n persist)) 368 16 count) 384 32 seq
  BitVec.ofNat 512 (insBits v 480 32 (crc32 (bytesOf 60 v)))

/- Counting (R456, R457) -/

/-- The key of a record. -/
def erKey (e : BitVec 512) : Nat × Nat × Nat × Nat := (erKind e, erUnit e, erCls e, if erCls e = 0x10 then erSub e else 0)

def winN (d : Dev) (c : Nat) : Nat := getF d (FLT_WIN c) FLT_WIN_N
def winSpan (d : Dev) (c : Nat) : Nat := 100 * getF d (FLT_WIN c) FLT_WIN_SPAN_S

/-- The unit of a record is retired or lost. -/
def unitGone (d : Dev) (e : BitVec 512) : Bool :=
  let u := erUnit e
  match erKind e with
  | 1 => !coreThere d u || getF d (TILE_STATE (u / 5)) TILE_STATE_COMPUTE == 3
  | 2 => baseLost d u
  | 3 => stackLost d u
  | 4 => gpState d u == 4
  | 5 => (edge d u).lost
  | _ => false

/-- Classes whose default window is "first" (R470). -/
def firstClass (c : Nat) : Bool := [0x04, 0x12, 0x20, 0x22, 0x23, 0x24].contains c

/-- The times of a tracker that are no older than its span. -/
def freshTimes (d : Dev) (now : Nat) (t : Tracker) : List Nat := t.times.filter (fun x => decide (now ≤ x + winSpan d t.key.2.2.1))

/-- The trackers with one more for a key: a free one, or the one whose newest time is oldest, is given up where all 4,096 are
taken (R457). -/
def takeTracker (d : Dev) (now : Nat) (t : Tracker) : Dev :=
  let ts := d.flt.trackers
  let set := fun (d : Dev) (l : List Tracker) => { d with flt := { d.flt with trackers := l ++ [t] } }
  if ts.length < 4096 then set d ts
  else match ts.find? (fun x => (freshTimes d now x).isEmpty) with
    | some x => set d (ts.erase x)
    | none =>
      let newest := fun (x : Tracker) => x.times.getLast?.getD 0
      let oldest := ts.foldl (fun m x => min m (newest x)) now
      match ts.find? (fun x => newest x == oldest) with
      | some x => setR (set d (ts.erase x)) FLT_EVICT (getR d FLT_EVICT + 1)
      | none => set d ts

/-- An event counted at time `now`: whether its record is LASTING, and the events of its key already in the window (R456). A
class that is lasting at the first event stands outside the check for a lost unit: its own event has marked the unit (log 43). -/
def countEvent (d : Dev) (e : BitVec 512) (now : Nat) : (Bool × Nat) × Dev :=
  let n := winN d (erCls e)
  if n = 0 ∨ (unitGone d e ∧ !firstClass (erCls e)) then ((false, 0), d)
  else if n = 1 then ((true, 0), d)
  else
    let key := erKey e
    let old := ((d.flt.trackers.find? (fun t => t.key == key)).map (freshTimes d now)).getD []
    let d1 := { d with flt := { d.flt with trackers := d.flt.trackers.filter (fun t => t.key != key) } }
    if n ≤ old.length + 1 then ((true, old.length), d1)
    else ((false, old.length), takeTracker d1 now { key := key, times := old ++ [now] })

/- Lasting faults (R458, R470) -/

/-- Classes whose lasting fault removes or replaces a unit. -/
def removes (c : Nat) : Bool := [0x01, 0x02, 0x03, 0x04, 0x11, 0x12, 0x20, 0x21, 0x30, 0x31, 0x32, 0x35].contains c

/-- What a lasting decision does at once: its count, the host event, the alert, and the response of its class (R458, R470). -/
def decideLasting (d : Dev) (e : BitVec 512) : Dev :=
  let c := erCls e
  let u := erUnit e
  let d1 := raiseAlert (postCq (satF d FLT_LASTING FLT_LASTING_COUNT) 4 0 0 0 (erSeq e) 1) 4
  let d2 := if c = 0x40 then raiseAlert d1 0 else d1
  if c = 0x10 then
    setF { d2 with flt := { d2.flt with scrubHeld := (d2.flt.scrubHeld.filter (· != u)) ++ [u] } }
      (CC_SCRUB_CTL (u / 2) (u % 2)) CC_SCRUB_CTL_PERIOD_H 1
  else if removes c then
    let d3 := { d2 with flt := { d2.flt with due := d2.flt.due ++ [{ cls := c, kind := erKind e, unit := u }] } }
    if erRerun e then d3 else raiseRerun d3 .step
  else d2

/-- The record written into the log ring; one overwritten unread is counted (R454). -/
def logRecord (d : Dev) (e : BitVec 512) : Dev :=
  let k := erSeq e % 8192
  let d1 := match d.flt.log.find k with
    | some o => if getR d FLT_LOG_RD ≤ erSeq o then setR d FLT_LOG_LOST (getR d FLT_LOG_LOST + 1) else d
    | none => d
  setR { d1 with flt := { d1.flt with log := d1.flt.log.put k e 0 } } FLT_LOG_SEQ (erSeq e)

/-- ERROR_RECORD (R453-R458): the n-th record on its way reaches the management core, at time t in units of 10 ms since cold
reset. -/
def errorRecord (n t : Nat) (d : Dev) : Dev :=
  match d.recFlight[n]? with
  | none => d
  | some e =>
    let c := countEvent { d with recFlight := d.recFlight.eraseIdx n } e t
    let seq := (getR d FLT_LOG_SEQ + 1) % 2 ^ 32
    -- a power-fail record (R445) is one of class SUPPLY that raised a RERUN or came while the supply has failed
    let fail := erCls e == 0x40 && (erRerun e || d.pwr.failed)
    let persist := c.1.1 || firstClass (erCls e) || fail
    let r := stamp e c.1.1 persist c.1.2 seq
    let d1 := logRecord c.2 r
    let wait := d1.flt.plogWait
    let d2 := if !persist then d1
      else { d1 with flt := { d1.flt with plogWait := if fail then r :: wait else wait ++ [r] } }
    if c.1.1 then decideLasting d2 r else d2

/-- PLOG_COPY (R455): the next record is copied to the persistent log; a sector is erased as the copies enter it. -/
def plogCopy (d : Dev) : Dev :=
  match d.flt.plogWait with
  | [] => d
  | e :: rest =>
    let i := d.flt.plogNext % 32768
    let t := if i % 1024 = 0 then d.flt.plog.cut i (i + 1024) else d.flt.plog
    setR { d with flt := { d.flt with plog := t.put i e 0, plogNext := (i + 1) % 32768, plogWait := rest } } FLT_PLOG (getR d FLT_PLOG + 1)

/-- PLOG_COPY_TIMEOUT (R455): the n-th record waiting has not been copied within 10 s. -/
def plogCopyTimeout (n : Nat) (d : Dev) : Dev :=
  if d.flt.plogWait.length ≤ n then d
  else raiseAlert (setB { d with flt := { d.flt with plogWait := d.flt.plogWait.eraseIdx n } } FLT_STATUS FLT_STATUS_PLOG_DROP true) 5

/- Spare takeover (R459-R461) -/

/-- A core that serves no slot is retired at once: the tile has no spare any more (log 43). -/
def retireSpare (d : Dev) (c : Nat) : Dev :=
  let t := c / 5
  let d1 := setF (openHdr d c) (TILE_STATE t) TILE_STATE_RETIRED (getF d (TILE_STATE t) TILE_STATE_RETIRED ||| 2 ^ (c % 5))
  if bits (getR d (TILE_CORE_MAP t)) 16 3 = c % 5 then
    setF (mapAt d1 t (insBits (getR d (TILE_CORE_MAP t)) 16 3 7)) MOD_CORES MOD_CORES_SPARES (getF d MOD_CORES MOD_CORES_SPARES - 1)
  else d1

/-- A lasting core fault: takeover by the spare, or loss of the compute die (R459-R461). -/
def loseCore (d : Dev) (c : Nat) : Dev :=
  let t := c / 5
  if 320 ≤ c ∨ !coreThere d c ∨ getF d (TILE_STATE t) TILE_STATE_COMPUTE = 3 then d
  else if d.flt.takeovers.any (fun k => k.tile == t) then loseCompute d t
  else match coreSlot d c with
    | none => retireSpare d c
    | some q =>
      let sp := bits (getR d (TILE_CORE_MAP t)) 16 3
      if 5 ≤ sp then loseCompute d t
      else
        let k : Takeover := { tile := t, slot := q, spare := 5 * t + sp }
        setB (closeHdr (openHdr { d with flt := { d.flt with takeovers := d.flt.takeovers ++ [k] } } c) (5 * t + sp))
          FLT_STATUS FLT_STATUS_TAKEOVER true

/-- A lasting fault applied at origin C (R458, R470). -/
def applyLasting (d : Dev) (x : Lasting) : Dev :=
  match x.cls with
  | 0x01 | 0x02 | 0x03 | 0x04 => loseCore d x.unit
  | 0x11 | 0x12 => loseStack d x.unit
  | 0x20 | 0x21 => if x.kind = 5 then loseEdge d x.unit else loseBase d x.unit
  | 0x30 | 0x31 | 0x32 => losePort d x.unit
  | 0x35 => loseEdge d x.unit
  | _ => d

/-- Every lasting fault that is due, in SEQ order (R458). -/
def applyDue (d : Dev) : Dev := d.flt.due.foldl applyLasting { d with flt := { d.flt with due := [] } }

/-- The sections of a core slot, of every resident context, loaded into a core whose shelf is wiped first (R459, R503). -/
def reloadCore (d : Dev) (q c : Nat) : Dev :=
  let ctxs := d.res.fg.toList ++ d.res.fillers
  let d1 := wipeRows d (shelfRowAddr c 0 0) 4096
  ctxs.foldl (fun d n => match d.pkgs.find? (fun x => x.1 == n) with
    | some x =>
      let mine := x.2.secs.filter (fun s => decide (2 ≤ s.typ) && decide (s.typ ≤ 5) && s.idx == q)
      let d1 := mine.foldl (loadCoreSec · (ctxFiller d n) c) d
      if mine.any (·.typ == 2) then assignChans d1 c n (ctxFiller d n) else d1
    | none => d) d1

/-- TAKEOVER_DONE (R459): the takeover of tile t has loaded its spare; the core map changes at the next stop tick. -/
def takeoverDone (t : Nat) (d : Dev) : Dev :=
  match d.flt.takeovers.find? (fun k => k.tile == t && !k.done) with
  | none => d
  | some k =>
    if hdrState d k.spare ≠ 2 then d
    else match slotCore d t k.slot with
      | none => d
      | some c =>
        let old := core d c
        let fresh : CoreSt := { resFg := old.resFg, resFill := old.resFill, fillPos := old.fillPos, fillRep := old.fillRep }
        let d1 := setPos (setCore (reloadCore d (4 * t + k.slot) k.spare) k.spare fresh) k.spare false (0, 0)
        let v := insBits (insBits (getR d (TILE_CORE_MAP t)) (4 * k.slot) 3 (k.spare % 5)) 16 3 7
        let ts := d1.flt.takeovers.map (fun x => if x.tile = t then { x with done := true } else x)
        mapAt { d1 with flt := { d1.flt with takeovers := ts } } t v

/-- A finished takeover as the core map changes (R23, R459). -/
def endTakeover (d : Dev) (k : Takeover) : Dev :=
  let t := k.tile
  match slotCore d t k.slot with
  | none => d
  | some c =>
    let d1 := setF (setCore d c {}) (TILE_STATE t) TILE_STATE_RETIRED (getF d (TILE_STATE t) TILE_STATE_RETIRED ||| 2 ^ (c % 5))
    setF (setB d1 (TILE_STATE t) TILE_STATE_SPARE_IN_USE true) MOD_CORES MOD_CORES_SPARES (getF d1 MOD_CORES MOD_CORES_SPARES - 1)

/-- Core maps change at a stop tick (R23), and takeovers that are done end (R459). -/
def applyMaps (d : Dev) : Dev :=
  let fin := d.flt.takeovers.filter (·.done)
  let rest := d.flt.takeovers.filter (fun k => !k.done)
  let d1 := fin.foldl endTakeover d
  let d2 := d1.flt.mapPend.foldl (fun d x => setR d (TILE_CORE_MAP x.1) x.2) d1
  setB { d2 with flt := { d2.flt with mapPend := [], takeovers := rest } } FLT_STATUS FLT_STATUS_TAKEOVER (!rest.isEmpty)

/- Repair of committed state (R462-R464) -/

/-- Other reachable members of this module's X ring (R462). -/
def ringSource (d : Dev) : Option Nat :=
  ((List.range (ringM1 d 0 + 1)).filter (fun i => i != myPos d 0)).find? (fun i => reachable d (ringMod d 0 i))

/-- At origin C the chunks found poisoned come under repair, or committed state is lost (R462, R463). -/
def startRepair (d : Dev) : Dev :=
  let d1 := { d with committedPoison := [] }
  if d.committedPoison.isEmpty then d
  else if ringM1 d 0 = 0 ∨ (ringSource d).isNone ∨ d.committedPoison.any (fun c => d.flt.repaired.contains (c, stepNo d)) then
    { d1 with flt := { d1.flt with stateLost := true } }
  else { d1 with flt := { d1.flt with repair := d1.flt.repair ++ d.committedPoison } }

/-- POISON_REPAIR_DONE (R462, R463): the copy of a chunk (18,432 times its stack, and its number) ends with the rows read, or with
a poisoned one. -/
def poisonRepairDone (chunk : Nat) (poisoned : Bool) (rows : List (Nat × Row)) (d : Dev) : Dev :=
  if !d.flt.repair.contains chunk then d
  else
    let d1 := { d with flt := { d.flt with repair := d.flt.repair.erase chunk } }
    if poisoned then endJob { d1 with flt := { d1.flt with repair := [] } } 0x11
    else
      let d2 := mgmtCopy d1 [chunk / 18432 * 32768 + chunk % 18432] rows
      { d2 with flt := { d2.flt with repaired := d2.flt.repaired ++ [(chunk, stepNo d2)] } }

/- The in-service test (R466-R469, R471) -/

/-- The test context is resident whenever R466 lets it be. -/
def keepTest (d : Dev) : Dev :=
  let solo := d.res.fg.any (fun c => ctxBits d c 4 1 == 1)
  let rows := (allSlotCores d).all (fun c => decide (getF d (SHF_PART c) SHF_PART_FG_ROWS ≤ 30))
  -- another filler's LOAD, a firmware update and entry to Quiet or Hold have evicted it (R466, R507, R523)
  let busy := d.pan.works.any (fun w => w.op == 2 && ctxFiller d w.ctx) || getB d FW_STATUS FW_STATUS_BUSY ||
    d.boot.ptrans.isSome || getF d RST_STATUS RST_STATUS_PSTATE != 0
  if getB d FLT_TEST_CTL FLT_TEST_CTL_EN && d.res.fillers.isEmpty && !solo && rows && !busy then
    setB { d with flt := { d.flt with test := true } } FLT_STATUS FLT_STATUS_TEST_RES true
  else dropTest d

/-- TEST_CTL_WRITE (R466, R471). -/
def testCtlWrite (v : Nat) (d : Dev) : Dev :=
  keepTest (setF (setF d FLT_TEST_CTL FLT_TEST_CTL_EN v) FLT_TEST_CTL FLT_TEST_CTL_PERIOD_S (v / 2))

/-- FLT_WIN_WRITE (R471): the window setting of class c. -/
def fltWinWrite (c v : Nat) (d : Dev) : Dev :=
  let n := bits v 0 4
  let span := bits v 4 20
  let counted := fltWinDefaults.any (fun r => r.1 == c && r.2.2 != 0)
  if !counted ∨ 8 < n ∨ span = 0 then d else setF (setF d (FLT_WIN c) FLT_WIN_N n) (FLT_WIN c) FLT_WIN_SPAN_S span

/-- Any fault injection is on (R469). -/
def anyInject (d : Dev) : Bool :=
  (List.range 16).any (fun k => [0, 1].any (fun h => getF d (GP_INJ_CTL k h) GP_INJ_CTL_MODE != 0)) ||
    (List.range 64).any (fun t => getF d (MSH_INJ_CTL t) MSH_INJ_CTL_MODE != 0)

/-- The partner of a core slot in round k (R467); the referee is the partner in round k + 1 (R468). -/
def partner (q k : Nat) : Nat := q ^^^ (4 * (1 + k % 63))

/-- TEST_ROUND (R467): a round ends; for each core slot compared, its digest and its partner's over the same operands. -/
def testRound (runs : List (Nat × BitVec 64 × BitVec 64)) (d : Dev) : Dev :=
  if !d.flt.test ∨ anyInject d then d
  else
    let k := getR d FLT_TEST_ROUNDS
    let there := fun (q : Nat) => (slotCore d (q / 4) (q % 4)).isSome && decide (q < 256)
    let bad := runs.filter (fun r => there r.1 && there (partner r.1 k) && r.2.1 != r.2.2)
    let d1 := bad.foldl (fun d _ => satF d FLT_TEST_MISMATCH FLT_TEST_MISMATCH_COUNT) d
    setR { d1 with flt := { d1.flt with testPend := d1.flt.testPend ++ bad.map (fun r => (r.1, k, r.2.1, r.2.2)) } } FLT_TEST_ROUNDS (k + 1)

/-- A core slot is blamed (R468). -/
def blameSlot (d : Dev) (q : Nat) : Dev :=
  match slotCore d (q / 4) (q % 4) with
  | none => d
  | some c =>
    report (setB (setF d FLT_TEST_LAST FLT_TEST_LAST_SLOT q) FLT_TEST_LAST FLT_TEST_LAST_VALID true)
      { cls := 0x03, kind := 1, unit := c, filler := true }

/-- TEST_REFEREE (R468): the test of core slot q run again on the referee slot has given a digest. -/
def testReferee (q : Nat) (dig : BitVec 64) (d : Dev) : Dev :=
  match d.flt.testPend.find? (fun p => p.1 == q) with
  | none => d
  | some p =>
    if anyInject d then d
    else
      let d1 := { d with flt := { d.flt with testPend := d.flt.testPend.erase p } }
      if dig = p.2.2.1 then blameSlot d1 (partner q p.2.1)
      else if dig = p.2.2.2 then blameSlot d1 q
      else report d1 { cls := 0x03, kind := 6, unit := myMod d1, filler := true }

end Sys2Proof.Machine
end

