-- ==== Sys2Proof/Machine/ExecFault.lean ====
section
/-!
DEFINITION. Machine/ExecFault.lean: faults, takeover, repair and the in-service test (R452-R471). One meaning for each command, over the operations of its chapter.
-/
namespace Sys2Proof.Machine

/-- ERROR_RECORD (R456): An error record reaches the management core, is logged, counted and may become lasting. -/
def execErrorRecord (n t : Nat) (s : State) : Answer := act s (errorRecord n t)

/-- PLOG_COPY (R455): A record is copied to the persistent log as the write rate allows. -/
def execPlogCopy (s : State) : Answer := act s (plogCopy)

/-- PLOG_COPY_TIMEOUT (R455): A record not copied within 10 s is dropped and PLOG_DROP set. -/
def execPlogCopyTimeout (n : Nat) (s : State) : Answer := act s (plogCopyTimeout n)

/-- TAKEOVER_DONE (R459): Spare takeover completes and TILE_CORE_MAP changes at the next tick. -/
def execTakeoverDone (t : Nat) (s : State) : Answer := act s (takeoverDone t)

/-- POISON_REPAIR_DONE (R462): A committed-poison chunk copy completes before the replay. -/
def execPoisonRepairDone (chunk : Nat) (poisoned : Bool) (rows : List (Nat × Row)) (s : State) : Answer := act s (poisonRepairDone chunk poisoned rows)

/-- TEST_ROUND (R467): Every PERIOD_S a test round runs test clauses and compares partner digests. -/
def execTestRound (runs : List (Nat × BitVec 64 × BitVec 64)) (s : State) : Answer := act s (testRound runs)

/-- TEST_REFEREE (R468): A mismatch is rerun on a referee slot and the differing core is blamed. -/
def execTestReferee (q : Nat) (dig : BitVec 64) (s : State) : Answer := act s (testReferee q dig)

end Sys2Proof.Machine
end

