-- ==== Sys2Proof/Machine/Pk.lean ====
section
/-!
DEFINITION. Machine/Pk.lean: the public-key algorithms that R12 names: X25519 (RFC 7748), Ed25519 (RFC 8032), ML-KEM-768 (FIPS 203)
and ML-DSA-65 (FIPS 204), with SHA-512 (FIPS 180-4) and the sponge functions (FIPS 202) they use. A byte string that a caller hands
over as a number is little-endian (R543).
-/
namespace Sys2Proof.Machine

/- Modular arithmetic -/

/-- b to the power e mod m, by the n low bits of e. -/
def powMod (m n b e : Nat) : Nat :=
  (List.range n).foldl (fun r i => if bit e (n - 1 - i) then r * r % m * b % m else r * r % m) 1

/-- a - b mod m, of residues. -/
def subMod (m a b : Nat) : Nat := (a + (m - b % m)) % m

/- Curve25519 (RFC 7748, RFC 8032) -/

def p25519 : Nat := 2 ^ 255 - 19
def l25519 : Nat := 2 ^ 252 + 27742317777372353535851937790883648493

def fMul (a b : Nat) : Nat := a * b % p25519
def fAdd (a b : Nat) : Nat := (a + b) % p25519
def fSub (a b : Nat) : Nat := subMod p25519 a b
def fPow (a e : Nat) : Nat := powMod p25519 255 a e
def fInv (a : Nat) : Nat := fPow a (p25519 - 2)

/-- A secret scalar as both standards prune it. -/
def pruned (k : Nat) : Nat := 2 ^ 254 + k % 2 ^ 254 / 8 * 8

/-- One rung of the Montgomery ladder on (x2, z2, x3, z3) for u-coordinate u. -/
def rung (u : Nat) (s : Nat × Nat × Nat × Nat) : Nat × Nat × Nat × Nat :=
  match s with
  | (x2, z2, x3, z3) =>
    let a := fAdd x2 z2; let b := fSub x2 z2
    let aa := fMul a a; let bb := fMul b b
    let e := fSub aa bb
    let da := fMul (fSub x3 z3) a; let cb := fMul (fAdd x3 z3) b
    let x := fAdd da cb; let z := fSub da cb
    (fMul aa bb, fMul e (fAdd aa (fMul 121665 e)), fMul x x, fMul u (fMul z z))

/-- X25519 of a private scalar and a u-coordinate (RFC 7748). -/
def x25519 (k u : Nat) : Nat :=
  let u := u % 2 ^ 255 % p25519
  let swap := fun (c : Bool) (s : Nat × Nat × Nat × Nat) => if c then (s.2.2.1, s.2.2.2, s.1, s.2.1) else s
  let s := (List.range 255).foldl (fun s i => let c := bit (pruned k) (254 - i); swap c (rung u (swap c s))) (1, 0, u, 1)
  fMul s.1 (fInv s.2.1)

/-- The X25519 public key of a private scalar. -/
def x25519Public (k : Nat) : Nat := x25519 k 9

/-- SHA-512 of a byte string. -/
def sha512 (msg : List Nat) : List Nat :=
  (sha2 [0x6A09E667F3BCC908, 0xBB67AE8584CAA73B, 0x3C6EF372FE94F82B, 0xA54FF53A5F1D36F1, 0x510E527FADE682D1, 0x9B05688C2B3E6C1F,
    0x1F83D9ABFB41BD6B, 0x5BE0CD19137E2179] msg).flatMap (bytesBE 8)

/-- A point of edwards25519 in extended homogeneous coordinates. -/
structure EdPt where
  x : Nat
  y : Nat
  z : Nat
  t : Nat
  deriving DecidableEq, Repr

def edD : Nat := fMul (p25519 - 121665) (fInv 121666)

def edAdd (p q : EdPt) : EdPt :=
  let a := fMul (fSub p.y p.x) (fSub q.y q.x)
  let b := fMul (fAdd p.y p.x) (fAdd q.y q.x)
  let c := fMul (fMul (2 * p.t) q.t) edD
  let d := fMul (2 * p.z) q.z
  let e := fSub b a; let f := fSub d c; let g := fAdd d c; let h := fAdd b a
  { x := fMul e f, y := fMul g h, z := fMul f g, t := fMul e h }

/-- s times a point, by the n low bits of s. -/
def edMul (n s : Nat) (p : EdPt) : EdPt :=
  (List.range n).foldl (fun r i => let r2 := edAdd r r; if bit s (n - 1 - i) then edAdd r2 p else r2) { x := 0, y := 1, z := 1, t := 0 }

/-- The point that 32 encoded bytes give; none where they give none. -/
def edDecode (v : Nat) : Option EdPt :=
  let y := v % 2 ^ 255
  let sign := bits v 255 1
  let yy := fMul y y
  let xx := fMul (fSub yy 1) (fInv (fAdd (fMul edD yy) 1))
  let r := fPow xx ((p25519 + 3) / 8)
  let x := if fMul r r = xx then r else fMul r (fPow 2 ((p25519 - 1) / 4))
  if p25519 ≤ y ∨ fMul x x ≠ xx ∨ (x = 0 ∧ sign = 1) then none
  else
    let x := if x % 2 = sign then x else p25519 - x
    some { x := x, y := y, z := 1, t := fMul x y }

/-- The base point. -/
def edBase : EdPt := (edDecode (fMul 4 (fInv 5))).getD { x := 0, y := 1, z := 1, t := 0 }

def edEncode (p : EdPt) : Nat :=
  let x := fMul p.x (fInv p.z)
  fMul p.y (fInv p.z) + (x % 2) <<< 255

/-- The same point. -/
def edSame (p q : EdPt) : Bool := fMul p.x q.z == fMul q.x p.z && fMul p.y q.z == fMul q.y p.z

/-- The Ed25519 public key of a private key of 32 bytes. -/
def edPublic (k : Nat) : Nat := edEncode (edMul 255 (pruned (natOfBytes ((sha512 (bytesOf 32 k)).take 32))) edBase)

/-- The hash of a signature's first half, a public key and a message. -/
def edHash (r a : Nat) (m : List Nat) : Nat := natOfBytes (sha512 (bytesOf 32 r ++ bytesOf 32 a ++ m)) % l25519

/-- The Ed25519 signature of a message under a private key. -/
def edSign (k : Nat) (m : List Nat) : Nat :=
  let h := sha512 (bytesOf 32 k)
  let r := natOfBytes (sha512 (h.drop 32 ++ m)) % l25519
  let big := edEncode (edMul 253 r edBase)
  big + ((r + edHash big (edPublic k) m * pruned (natOfBytes (h.take 32))) % l25519) <<< 256

/-- An Ed25519 signature verifies, by the group equation multiplied by 8 (log 12). -/
def edVerify (a : Nat) (m : List Nat) (sig : Nat) : Bool :=
  let s := bits sig 256 256
  match edDecode (a % 2 ^ 256), edDecode (sig % 2 ^ 256) with
  | some pa, some pr =>
    decide (s < l25519) &&
      edSame (edMul 4 8 (edMul 253 s edBase)) (edMul 4 8 (edAdd pr (edMul 253 (edHash (sig % 2 ^ 256) a m) pa)))
  | _, _ => false

/- The sponge functions (FIPS 202) -/

/-- Round constants of Keccak-f[1600]. -/
def keccakRc : List Nat := [0x1, 0x8082, 0x800000000000808A, 0x8000000080008000, 0x808B, 0x80000001, 0x8000000080008081,
  0x8000000000008009, 0x8A, 0x88, 0x80008009, 0x8000000A, 0x8000808B, 0x800000000000008B, 0x8000000000008089, 0x8000000000008003,
  0x8000000000008002, 0x8000000000000080, 0x800A, 0x800000008000000A, 0x8000000080008081, 0x8000000000008080, 0x80000001,
  0x8000000080008008]

/-- Rotation offsets of the lanes. -/
def keccakRot : List Nat := [0, 1, 62, 28, 27, 36, 44, 6, 55, 20, 3, 10, 43, 25, 39, 41, 45, 15, 21, 8, 18, 2, 61, 56, 14]

/-- One round on 25 lanes. -/
def keccakRound (a : List Nat) (rc : Nat) : List Nat :=
  let at_ := fun (l : List Nat) (i : Nat) => l.getD i 0
  let c := (List.range 5).map (fun x => at_ a x ^^^ at_ a (x + 5) ^^^ at_ a (x + 10) ^^^ at_ a (x + 15) ^^^ at_ a (x + 20))
  let d := (List.range 5).map (fun x => at_ c ((x + 4) % 5) ^^^ rotr64 (at_ c ((x + 1) % 5)) 63)
  let e := (List.range 25).map (fun i => rotr64 (at_ a i ^^^ at_ d (i % 5)) (64 - at_ keccakRot i))
  let b := (List.range 25).map (fun i => at_ e ((i % 5 + 3 * (i / 5)) % 5 + 5 * (i % 5)))
  (List.range 25).map (fun i =>
    let y := 5 * (i / 5)
    let v := at_ b i ^^^ ((0xFFFFFFFFFFFFFFFF ^^^ at_ b (y + (i + 1) % 5)) &&& at_ b (y + (i + 2) % 5))
    if i = 0 then v ^^^ rc else v)

def keccakF (a : List Nat) : List Nat := keccakRc.foldl keccakRound a

/-- The state of the sponge of a rate after a message with a domain suffix. -/
def absorb (rate suffix : Nat) (msg : List Nat) : List Nat :=
  let n := msg.length
  let p := msg ++ suffix :: List.replicate (rate - 1 - n % rate) 0
  let k := p.length / rate
  (List.range k).foldl (fun a j =>
    let blk := (p.drop (j * rate)).take rate
    let blk := if j + 1 = k then blk.take (rate - 1) ++ [blk.getD (rate - 1) 0 ^^^ 0x80] else blk
    keccakF ((List.range 25).map (fun i => a.getD i 0 ^^^ natOfBytes ((blk.drop (8 * i)).take 8)))) (List.replicate 25 0)

/-- The bytes of one block squeezed from a state. -/
def block (rate : Nat) (a : List Nat) : List Nat := (a.flatMap (bytesOf 8)).take rate

/-- n bytes squeezed. -/
def squeeze (rate n : Nat) (a : List Nat) : List Nat :=
  (((List.range (n / rate + 1)).foldl (fun (st : List Nat × List Nat) _ => (st.1 ++ block rate st.2, keccakF st.2)) ([], a)).1).take n

def sha3_256 (m : List Nat) : List Nat := squeeze 136 32 (absorb 136 6 m)
def sha3_512 (m : List Nat) : List Nat := squeeze 72 64 (absorb 72 6 m)
def shake256 (n : Nat) (m : List Nat) : List Nat := squeeze 136 n (absorb 136 0x1F m)

/-- Values that f finds in the blocks of a sponge, until there are n; at most `fuel` blocks. -/
def sample (rate n : Nat) (f : List Nat → List Nat) : Nat → List Nat → List Nat → List Nat
  | 0, acc, _ => acc
  | k + 1, acc, a => if n ≤ acc.length then acc.take n else sample rate n f k (acc ++ f (block rate a)) (keccakF a)

/-- Consecutive pieces of n bytes. -/
def chunks (n : Nat) (bs : List Nat) : List (List Nat) := (List.range (bs.length / n)).map (fun i => (bs.drop (n * i)).take n)

/- Polynomials of degree below 256 over the integers mod q (FIPS 203, FIPS 204) -/

def pAdd (q : Nat) (a b : List Nat) : List Nat := List.zipWith (fun x y => (x + y) % q) a b
def pSub (q : Nat) (a b : List Nat) : List Nat := List.zipWith (subMod q) a b
def pMul (q : Nat) (a b : List Nat) : List Nat := List.zipWith (fun x y => x * y % q) a b

/-- The n low bits of k reversed. -/
def bitRev (n k : Nat) : Nat := (List.range n).foldl (fun r i => r + fv (n - 1 - i) 1 (bits k i 1)) 0

/-- The number-theoretic transform: node k splits a polynomial by the root z k, down to the given depth. -/
def nttGo (q : Nat) (z : Nat → Nat) : Nat → Nat → List Nat → List Nat
  | 0, _, a => a
  | n + 1, k, a =>
    let h := a.length / 2
    let lo := a.take h
    let t := (a.drop h).map (fun x => z k * x % q)
    nttGo q z n (2 * k) (pAdd q lo t) ++ nttGo q z n (2 * k + 1) (pSub q lo t)

/-- Its inverse, but for the factor 2 of every level; z gives the inverse roots. -/
def inttGo (q : Nat) (z : Nat → Nat) : Nat → Nat → List Nat → List Nat
  | 0, _, a => a
  | n + 1, k, a =>
    let h := a.length / 2
    let lo := inttGo q z n (2 * k) (a.take h)
    let hi := inttGo q z n (2 * k + 1) (a.drop h)
    pAdd q lo hi ++ (pSub q lo hi).map (fun x => z k * x % q)

/-- The coefficients as fields of d bits. -/
def pack (d : Nat) (a : List Nat) : List Nat := bytesOf (a.length * d / 8) (a.foldr (fun x acc => x % 2 ^ d + acc <<< d) 0)

/-- 256 fields of d bits. -/
def unpack (d : Nat) (bs : List Nat) : List Nat := let v := natOfBytes bs; (List.range 256).map (fun i => bits v (d * i) d)

/- ML-KEM-768 (FIPS 203): q = 3,329, k = 3, both noise parameters 2, du = 10, dv = 4 -/

def kq : Nat := 3329
def kZeta (n : Nat) : Nat := powMod kq 8 17 n
def kNtt (a : List Nat) : List Nat := nttGo kq (fun k => kZeta (bitRev 7 k)) 7 1 a
def kIntt (a : List Nat) : List Nat := (inttGo kq (fun k => kZeta (256 - bitRev 7 k)) 7 1 a).map (fun x => x * 3303 % kq)

/-- The product of two transforms. -/
def kMul (a b : List Nat) : List Nat :=
  (List.range 128).flatMap (fun i =>
    let a0 := a.getD (2 * i) 0; let a1 := a.getD (2 * i + 1) 0; let b0 := b.getD (2 * i) 0; let b1 := b.getD (2 * i + 1) 0
    [(a0 * b0 + a1 * b1 % kq * kZeta (2 * bitRev 7 i + 1)) % kq, (a0 * b1 + a1 * b0) % kq])

def zeroPoly : List Nat := List.replicate 256 0

/-- The inner product of two vectors of transforms. -/
def kDot (a b : List (List Nat)) : List Nat := (a.zip b).foldl (fun s p => pAdd kq s (kMul p.1 p.2)) zeroPoly

/-- Entry (i, j) of the matrix of a seed. -/
def kEntry (rho : List Nat) (i j : Nat) : List Nat :=
  let f := fun (bs : List Nat) => (chunks 3 bs).flatMap (fun c =>
    let v := natOfBytes c
    [v % 4096, v / 4096].filter (fun x => decide (x < kq)))
  sample 168 256 f 64 [] (absorb 168 0x1F (rho ++ [j, i]))

/-- Noise from a seed and a counter. -/
def kNoise (s : List Nat) (n : Nat) : List Nat :=
  let v := natOfBytes (shake256 128 (s ++ [n]))
  (List.range 256).map (fun i => subMod kq (bits v (4 * i) 1 + bits v (4 * i + 1) 1) (bits v (4 * i + 2) 1 + bits v (4 * i + 3) 1))

def kComp (d x : Nat) : Nat := (x * 2 ^ d + 1664) / kq % 2 ^ d
def kDecomp (d y : Nat) : Nat := (kq * y + 2 ^ (d - 1)) / 2 ^ d

/-- The secret vector's transform and the encapsulation key of a key seed d and z (its first 32 bytes and its last). -/
def kKeys (seed : Nat) : List (List Nat) × List Nat :=
  let g := sha3_512 (bytesOf 32 seed ++ [3])
  let rho := g.take 32; let sig := g.drop 32
  let s := (List.range 3).map (fun n => kNtt (kNoise sig n))
  let t := (List.range 3).map (fun i => pAdd kq (kDot ((List.range 3).map (kEntry rho i)) s) (kNtt (kNoise sig (3 + i))))
  (s, t.flatMap (pack 12) ++ rho)

/-- The encapsulation key of a key seed. -/
def mlkemPublic (seed : Nat) : Nat := natOfBytes (kKeys seed).2

/-- The ciphertext of a message under an encapsulation key, with its randomness. -/
def kEncrypt (ek m r : List Nat) : List Nat :=
  let t := (chunks 384 (ek.take 1152)).map (fun b => (unpack 12 b).map (· % kq))
  let rho := ek.drop 1152
  let y := (List.range 3).map (fun n => kNtt (kNoise r n))
  let u := (List.range 3).map (fun i => pAdd kq (kIntt (kDot ((List.range 3).map (fun j => kEntry rho j i)) y)) (kNoise r (3 + i)))
  let mu := (unpack 1 m).map (kDecomp 1)
  let v := pAdd kq (pAdd kq (kIntt (kDot t y)) (kNoise r 6)) mu
  u.flatMap (fun p => pack 10 (p.map (kComp 10))) ++ pack 4 (v.map (kComp 4))

/-- ML-KEM-768 decapsulation of a ciphertext under a key seed, with implicit rejection. -/
def mlkemDecaps (seed ct : Nat) : Nat :=
  let k := kKeys seed
  let c := bytesOf 1088 ct
  let u := (chunks 320 (c.take 960)).map (fun b => kNtt ((unpack 10 b).map (kDecomp 10)))
  let v := (unpack 4 (c.drop 960)).map (kDecomp 4)
  let m := pack 1 ((pSub kq v (kIntt (kDot k.1 u))).map (kComp 1))
  let g := sha3_512 (m ++ sha3_256 k.2)
  natOfBytes (if kEncrypt k.2 m (g.drop 32) = c then g.take 32 else shake256 32 (bytesOf 32 (seed >>> 256) ++ c))

/- ML-DSA-65 (FIPS 204): q = 8,380,417, (k, l) = (6, 5), eta = 4, tau = 49, gamma1 = 2^19, gamma2 = (q - 1) / 32, omega = 55 -/

def dq : Nat := 8380417
def dG1 : Nat := 524288
def dG2 : Nat := 261888
def dBeta : Nat := 196

def dZeta (n : Nat) : Nat := powMod dq 9 1753 n
def dNtt (a : List Nat) : List Nat := nttGo dq (fun k => dZeta (bitRev 8 k)) 8 1 a
def dIntt (a : List Nat) : List Nat := (inttGo dq (fun k => dZeta (512 - bitRev 8 k)) 8 1 a).map (fun x => x * 8347681 % dq)

/-- The matrix of a seed times a vector of transforms, transformed back. -/
def dApply (rho : List Nat) (v : List (List Nat)) : List (List Nat) :=
  let entry := fun (r s : Nat) => sample 168 256
    (fun bs => ((chunks 3 bs).map (fun c => natOfBytes c % 2 ^ 23)).filter (fun x => decide (x < dq))) 64 [] (absorb 168 0x1F (rho ++ [s, r]))
  (List.range 6).map (fun r => (v.zip (List.range 5)).foldl (fun s p => pAdd dq s (pMul dq (entry r p.2) p.1)) zeroPoly)

/-- A secret polynomial of a seed and a counter. -/
def dSecret (seed : List Nat) (n : Nat) : List Nat :=
  let f := fun (bs : List Nat) => ((bs.flatMap (fun b => [b % 16, b / 16])).filter (fun x => decide (x < 9))).map (fun x => (dq + 4 - x) % dq)
  sample 136 256 f 64 [] (absorb 136 0x1F (seed ++ bytesOf 2 n))

/-- The distance of a residue from 0. -/
def dAbs (x : Nat) : Nat := min x (dq - x)

/-- The high part of a residue. -/
def dHigh (r : Nat) : Nat := (r + dG2 - 1) / (2 * dG2) % 16

/-- The low part of a residue, as a residue. -/
def dLow (r : Nat) : Nat := if (r + dG2 - 1) / (2 * dG2) = 16 then subMod dq r 0 else subMod dq r ((r + dG2 - 1) / (2 * dG2) * (2 * dG2))

/-- A key of a seed: the matrix seed, the signing seed, both secret vectors, and t. -/
structure DsaKey where
  rho : List Nat
  sk : List Nat
  s1 : List (List Nat)
  s2 : List (List Nat)
  t : List (List Nat)
  deriving DecidableEq, Repr

def dKey (seed : Nat) : DsaKey :=
  let h := shake256 128 (bytesOf 32 seed ++ [6, 5])
  let rho := h.take 32; let rp := (h.drop 32).take 64
  let s1 := (List.range 5).map (dSecret rp)
  let s2 := (List.range 6).map (fun n => dSecret rp (5 + n))
  { rho := rho, sk := h.drop 96, s1 := s1, s2 := s2, t := List.zipWith (fun a b => pAdd dq (dIntt a) b) (dApply rho (s1.map dNtt)) s2 }

/-- The high part of a coefficient of t, above 13 bits. -/
def dT1 (t : Nat) : Nat := (t + 4095) / 8192

def dPk (k : DsaKey) : List Nat := k.rho ++ k.t.flatMap (fun p => pack 10 (p.map dT1))

/-- The ML-DSA-65 public key of a key generation seed. -/
def mldsaPublic (seed : Nat) : Nat := natOfBytes (dPk (dKey seed))

/-- The digest that a signature covers: the public key's, and the message with an empty context string. -/
def dMu (pk m : List Nat) : List Nat := shake256 64 (shake256 64 pk ++ [0, 0] ++ m)

/-- The challenge polynomial of a digest. -/
def dBall (ct : List Nat) : List Nat :=
  let s := absorb 136 0x1F ct
  let bs := squeeze 136 1360 s
  let signs := natOfBytes (bs.take 8)
  ((List.range 49).foldl (fun (st : List Nat × List Nat) n =>
    let i := 207 + n
    let rest := st.2.dropWhile (fun b => decide (i < b))
    let j := rest.getD 0 0
    ((st.1.set i (st.1.getD j 0)).set j (if bit signs n then dq - 1 else 1), rest.drop 1)) (zeroPoly, bs.drop 8)).1

/-- The commitment hash of the high parts w1. -/
def dCommit (mu : List Nat) (w1 : List (List Nat)) : List Nat := shake256 48 (mu ++ w1.flatMap (pack 4))

/-- The hints of a vector: for each polynomial the places, then padding, then the running counts. -/
def dHintPack (h : List (List Bool)) : List Nat :=
  let at_ := h.map (fun p => (List.range 256).filter (fun i => p.getD i false))
  let ps := at_.flatten
  ps ++ List.replicate (55 - ps.length) 0 ++ (List.range 6).map (fun i => ((at_.take (i + 1)).flatten).length)

/-- One attempt to sign, at counter kappa: none where it is rejected. -/
def dAttempt (k : DsaKey) (mu rpp : List Nat) (kappa : Nat) : Option (List Nat) :=
  let y := (List.range 5).map (fun r => (unpack 20 (shake256 640 (rpp ++ bytesOf 2 (kappa + r)))).map (fun x => subMod dq dG1 x))
  let w := (dApply k.rho (y.map dNtt)).map dIntt
  let ct := dCommit mu (w.map (·.map dHigh))
  let c := dNtt (dBall ct)
  let by_ := fun (v : List (List Nat)) => v.map (fun p => dIntt (pMul dq c (dNtt p)))
  let z := List.zipWith (pAdd dq) y (by_ k.s1)
  let r := List.zipWith (pSub dq) w (by_ k.s2)
  let ct0 := by_ (k.t.map (·.map (fun t => subMod dq t (dT1 t * 8192))))
  let h := List.zipWith (fun a b => List.zipWith (fun x y => dHigh x != dHigh ((x + y) % dq)) a b) r ct0
  let tooBig := fun (b : Nat) (v : List (List Nat)) => v.any (·.any (fun x => decide (b ≤ dAbs x)))
  if tooBig (dG1 - dBeta) z || tooBig (dG2 - dBeta) (r.map (·.map dLow)) || tooBig dG2 ct0 || decide (55 < (h.flatten.filter id).length) then none
  else some (ct ++ z.flatMap (fun p => pack 20 (p.map (fun x => (dq + dG1 - x) % dq))) ++ dHintPack h)

/-- Attempts to sign until one is not rejected. -/
def dAttempts (k : DsaKey) (mu rpp : List Nat) : Nat → Nat → List Nat
  | 0, _ => []
  | n + 1, kappa => match dAttempt k mu rpp kappa with
    | some s => s
    | none => dAttempts k mu rpp n (kappa + 5)

/-- The ML-DSA-65 signature of a message under a key seed, with the randomness rnd (log 12). -/
def mldsaSign (seed : Nat) (m : List Nat) (rnd : Nat) : Nat :=
  let k := dKey seed
  let mu := dMu (dPk k) m
  natOfBytes (dAttempts k mu (shake256 64 (k.sk ++ bytesOf 32 rnd ++ mu)) 1024 0)

/-- The hints that 61 bytes pack; none where they are malformed. -/
def dHintUnpack (bs : List Nat) : Option (List (List Bool)) :=
  let ends := bs.drop 55
  let from_ := fun (i : Nat) => if i = 0 then 0 else ends.getD (i - 1) 0
  let seg := fun (i : Nat) => (bs.drop (from_ i)).take (ends.getD i 0 - from_ i)
  let ok := (List.range 6).all (fun i => decide (from_ i ≤ ends.getD i 0) && decide (ends.getD i 0 ≤ 55) &&
    ((seg i).zip ((seg i).drop 1)).all (fun p => decide (p.1 < p.2)))
  if ok && ((bs.take 55).drop (ends.getD 5 0)).all (· == 0) then
    some ((List.range 6).map (fun i => (List.range 256).map (fun n => (seg i).contains n)))
  else none

/-- A hint used on a residue. -/
def dUse (h : Bool) (r : Nat) : Nat :=
  let low := dLow r
  if !h then dHigh r else if 0 < low ∧ low ≤ dG2 then (dHigh r + 1) % 16 else (dHigh r + 15) % 16

/-- An ML-DSA-65 signature verifies: public key, message, signature. -/
def mldsaVerify (pk : Nat) (m : List Nat) (sig : Nat) : Bool :=
  let pb := bytesOf 1952 pk
  let sb := bytesOf 3309 sig
  let ct := sb.take 48
  match dHintUnpack (sb.drop 3248) with
  | none => false
  | some h =>
    let z := (chunks 640 ((sb.drop 48).take 3200)).map (fun b => (unpack 20 b).map (fun x => subMod dq dG1 x))
    let t1 := (chunks 320 (pb.drop 32)).map (fun b => dNtt ((unpack 10 b).map (fun x => x * 8192 % dq)))
    let c := dNtt (dBall ct)
    let w := List.zipWith (fun a t => dIntt (pSub dq a (pMul dq c t))) (dApply (pb.take 32) (z.map dNtt)) t1
    let w1 := List.zipWith (fun hs p => List.zipWith dUse hs p) h w
    z.all (·.all (fun x => decide (dAbs x < dG1 - dBeta))) && dCommit (dMu pb m) w1 == ct

end Sys2Proof.Machine
end

