-- ==== Sys2Proof/Machine/Attic.lean ====
section
/-!
DEFINITION. Machine/Attic.lean: the attic flashes: firmware images, slot records, the selection at a start, anti-rollback counts and
the configuration image (R399, R496-R498, R515-R522, R526).
-/
namespace Sys2Proof.Machine

/- Dual signatures (R399) -/

/-- The public halves of an Ed25519 private key and an ML-DSA-65 key generation seed. -/
def publicOf (k : Nat × Nat) : Nat × Nat := (edPublic k.1, mldsaPublic k.2)

/-- SHA-384 of an Ed25519 and an ML-DSA-65 public key (R400, R401). -/
def keyDigest (k : Nat × Nat) : Nat := natOfBytes (sha384 (bytesOf 32 k.1 ++ bytesOf 1952 k.2))

/-- The dual signature of a string of bytes (R399), with the randomness of its ML-DSA-65 part (log 12). -/
def dualSign (k : Nat × Nat) (msg : List Nat) (rnd : Nat) : Nat × Nat := (edSign k.1 (sha384 msg), mldsaSign k.2 (sha384 msg) rnd)

/-- A dual signature over a string of bytes verifies under an Ed25519 and an ML-DSA-65 key (R399). -/
def dualOk (ed ml : Nat) (msg : List Nat) (sigEd sigMl : Nat) : Bool :=
  edVerify ed (sha384 msg) sigEd && mldsaVerify ml (sha384 msg) sigMl

/- Images (R515-R517) -/

def ihArb (h : BitVec 2048) : Nat := bits h.toNat 72 8
def ihVersion (h : BitVec 2048) : Nat := bits h.toNat 96 32
def ihSet (h : BitVec 2048) : Nat := bits h.toNat 128 32
def ihMinSet (h : BitVec 2048) : Nat := bits h.toNat 160 32
def ihBodyLen (h : BitVec 2048) : Nat := bits h.toNat 192 32
def ihLength (h : BitVec 2048) : Nat := bits h.toNat 32 32
def ihLink (h : BitVec 2048) : Nat := bits h.toNat 80 8
def ihNum (h : BitVec 2048) : Nat := bits h.toNat 88 8

/-- Bytes of a component's region in each slot flash (R515). -/
def regionSize (k : Nat) : Nat := match k with
  | 0 => 0x400000 | 1 => 0x800000 | 2 => 0x400000 | 3 => 0x8000000 | 4 => 0x1400000
  | _ => 0

/-- Every header field has a value that R516 allows for component k. -/
def imgHdrOk (k : Nat) (h : BitVec 2048) : Bool :=
  bits h.toNat 0 32 == 1 && ihLength h == 256 + ihBodyLen h + 10800 && decide (ihLength h ≤ regionSize k) && bits h.toNat 64 8 == k &&
    decide (ihArb h ≤ 64) && (if k = 1 then ihLink h != 0 else ihLink h == 0) && (if k = 4 then ihNum h != 0 else ihNum h == 0) &&
    bits h.toNat 224 32 == 0 && bits h.toNat 640 1408 == 0

/-- The digest of Yonavos's root key i that the ROM holds (R400, R517). -/
def romRoot (i : Nat) : Nat := keyDigest (publicOf (Config.rootKeys i))

/-- BODY_DIGEST, the root keys, the certificate and the dual signature of an image of n bytes verify (R516, R517). -/
def imgSigned (v : Nat) : Bool :=
  let h := BitVec.ofNat 2048 v
  let n := ihBodyLen h
  let body := bytesOf n (v >>> 2048)
  let at_ := fun (o w : Nat) => bits v (8 * (256 + n + o)) (8 * w)
  let root := keyDigest (at_ 0 32, at_ 32 1952)
  let cert := at_ 1984 5432
  let cf := fun (o w : Nat) => bits cert (8 * o) (8 * w)
  natOfBytes (sha384 body) == bits h.toNat 256 384 && (root == romRoot 0 || root == romRoot 1) &&
    cf 0 4 == 1 && cf 4 4 == 5432 && cf 8 8 == 0 && cf 2008 48 == root && cf 5429 3 == 0 &&
    dualOk (at_ 0 32) (at_ 32 1952) (bytesOf 2056 cert) (cf 2056 64) (cf 2120 3309) &&
    dualOk (cf 16 32) (cf 48 1952) (bytesOf (256 + n) v) (at_ 7416 64) (at_ 7480 3309) && at_ 10789 11 == 0

def slotImg (d : Dev) (k s : Nat) : Img := d.attic.imgs.get (2 * k + s) {}
def setImg (d : Dev) (k s : Nat) (i : Img) : Dev := { d with attic := { d.attic with imgs := d.attic.imgs.put (2 * k + s) i {} } }

/-- The fused anti-rollback count of component k (R522). -/
def fusedArb (d : Dev) (k : Nat) : Nat := if k = 4 then getF d FW_ARB_1 FW_ARB_1_COUNT4 else bits (getR d FW_ARB_0) (8 * k) 7

/-- The image in a slot verifies as component k (R517). -/
def imgOk (d : Dev) (k : Nat) (i : Img) : Bool := imgHdrOk k i.hdr && i.good && decide (fusedArb d k ≤ ihArb i.hdr)

/- Slot records (R518) -/

def srComp (r : BitVec 512) : Nat := bits r.toNat 0 8
def srState (r : BitVec 512) : Nat := bits r.toNat 8 8
def srArb (r : BitVec 512) : Nat := bits r.toNat 16 8
def srSeq (r : BitVec 512) : Nat := bits r.toNat 32 32
def srAct (r : BitVec 512) : Nat := bits r.toNat 64 32

/-- A valid slot record. -/
def recOk (r : BitVec 512) : Bool :=
  bits r.toNat 480 32 == crc32 (bytesOf 60 r.toNat) && decide (srComp r ≤ 4) && decide (srState r ≤ 4) && bits r.toNat 24 8 == 0 &&
    bits r.toNat 192 288 == 0

/-- Every record of flash s, both halves. -/
def flashRecs (d : Dev) (s : Nat) : List (BitVec 512) := d.attic.recs.get (2 * s) [] ++ d.attic.recs.get (2 * s + 1) []

/-- The record that governs component k in flash s: the valid one of highest SEQ. -/
def governing (d : Dev) (k s : Nat) : Option (BitVec 512) :=
  ((flashRecs d s).filter (fun r => recOk r && srComp r == k)).foldl (fun m r => match m with
    | some x => if srSeq x < srSeq r then some r else some x
    | none => some r) none

/-- State of slot s of component k: 0 EMPTY where no record governs. -/
def slotState (d : Dev) (k s : Nat) : Nat := ((governing d k s).map srState).getD 0
def slotAct (d : Dev) (k s : Nat) : Nat := ((governing d k s).map srAct).getD 0

/-- FW_SLOT shows the slots (R522, R530). -/
def showSlots (d : Dev) : Dev :=
  (List.range 5).foldl (fun d k => [0, 1].foldl (fun d s =>
    let st := slotState d k s
    let arb := ((governing d k s).map srArb).getD 0
    setR d (FW_SLOT k s) (fv 0 3 (if 1 ≤ st ∧ st ≤ 3 ∧ arb < fusedArb d k then 5 else st) + fv 3 7 arb)) d) d

/-- A record appended to flash s; where its half of 8,192 records is full the other is erased and takes the governing records
first. -/
def appendRec (d : Dev) (s : Nat) (r : BitVec 512) : Dev :=
  let h := d.attic.half.get s 0
  let l := d.attic.recs.get (2 * s + h) []
  if l.length < 8192 then { d with attic := { d.attic with recs := d.attic.recs.put (2 * s + h) (l ++ [r]) [] } }
  else
    let keep := (List.range 5).filterMap (fun k => governing d k s)
    { d with attic := { d.attic with recs := d.attic.recs.put (2 * s + (1 - h)) (keep ++ [r]) [], half := d.attic.half.put s (1 - h) 0 } }

/-- A slot record written for slot s of component k (R518). -/
def writeRec (d : Dev) (k s state act : Nat) : Dev :=
  let seq := ((flashRecs d s).map srSeq).foldl max 0 + 1
  let h := (slotImg d k s).hdr
  let v := fv 0 8 k + fv 8 8 state + fv 16 8 (ihArb h) + fv 32 32 seq + fv 64 32 act + fv 96 32 (ihVersion h) + fv 128 32 (ihSet h) +
    fv 160 32 (ihMinSet h)
  showSlots (appendRec d s (BitVec.ofNat 512 (v + fv 480 32 (crc32 (bytesOf 60 v)))))

/- Selection (R519) -/

/-- Two images that work together. -/
def compatible (a b : BitVec 2048) : Bool := decide (ihMinSet a ≤ ihSet b) && decide (ihMinSet b ≤ ihSet a)

/-- The candidate slots of component k: TRIAL, then GOOD, each by ACT descending. -/
def candidates (d : Dev) (k : Nat) : List Nat :=
  let order := if slotAct d k 0 < slotAct d k 1 then [1, 0] else [0, 1]
  order.filter (fun s => slotState d k s == 1) ++ order.filter (fun s => slotState d k s == 3)

/-- The first candidate that verifies and works with every image chosen so far. -/
def tryCands (k : Nat) (chosen : List (BitVec 2048)) : List Nat → Dev → Option Nat × Dev
  | [], d => (none, d)
  | s :: rest, d =>
    let i := slotImg d k s
    if !imgOk d k i then tryCands k chosen rest (writeRec d k s 4 (slotAct d k s))
    else if !chosen.all (compatible i.hdr) then tryCands k chosen rest d
    else (some s, if slotState d k s = 1 then writeRec d k s 2 (slotAct d k s) else d)

/-- FW_STATUS.MODE. -/
def fwMode (d : Dev) : Nat := getF d FW_STATUS FW_STATUS_MODE

/-- The slot chosen for component k at the last start. -/
def chosenSlot (d : Dev) (k : Nat) : Option Nat :=
  if getB d (FW_RUN k) FW_RUN_NONE then none else some (getF d (FW_RUN k) FW_RUN_SLOT)

def chosenHdr (d : Dev) (k : Nat) : Option (BitVec 2048) := (chosenSlot d k).map (fun s => (slotImg d k s).hdr)

/-- Selection of one component; without one the module enters ROM recovery or maintenance mode. -/
def selectComp (d : Dev) (k : Nat) (chosen : List (BitVec 2048)) : Dev :=
  let d1 := [0, 1].foldl (fun d s => if slotState d k s = 2 then writeRec d k s 4 (slotAct d k s) else d) d
  match tryCands k chosen (candidates d1 k) d1 with
  | (some s, d2) =>
    let h := (slotImg d2 k s).hdr
    setR (setR (setR d2 (FW_RUN k) (fv 0 1 s + fv 1 1 (b2n (slotState d2 k s == 2)))) (FW_VER k) (ihVersion h)) (FW_SET k) (ihSet h)
  | (none, d2) =>
    setF (setR (setR (setR d2 (FW_RUN k) 4) (FW_VER k) 0) (FW_SET k) 0) FW_STATUS FW_STATUS_MODE (if k = 4 then 2 else 1)

/-- The management firmware's selection by the ROM; its numeric level (R519, R526). -/
def selectMgmt (d : Dev) : Dev :=
  let d1 := selectComp (setF (showSlots d) FW_STATUS FW_STATUS_MODE 0) 4 []
  setF d1 FAB_LEVEL FAB_LEVEL_NUM_LEVEL (((chosenHdr d1 4).map ihNum).getD 0)

/-- The other components' selection at stage 3, and the link level (R519, R526). -/
def selectRest (d : Dev) : Dev :=
  let d1 := [3, 2, 0, 1].foldl (fun d k => selectComp d k ([4, 3, 2, 0, 1].takeWhile (· != k) |>.filterMap (chosenHdr d))) d
  setF d1 FAB_LEVEL FAB_LEVEL_LINK_LEVEL (((chosenHdr d1 1).map ihLink).getD 0)

/-- A component's fuses are blown up to its image's ARB (R520). -/
def blowArb (d : Dev) (k : Nat) : Dev :=
  let a := ((chosenHdr d k).map ihArb).getD 0
  if a ≤ fusedArb d k then d
  else if k = 4 then setF d FW_ARB_1 FW_ARB_1_COUNT4 a
  else setF d FW_ARB_0 ⟨8 * k, 7⟩ a

/-- Readiness makes every chosen trial GOOD and blows the fuses (R520); not in maintenance mode (R521). -/
def confirmSlots (d : Dev) : Dev :=
  if fwMode d ≠ 0 then d
  else showSlots ((List.range 5).foldl (fun d k => match chosenSlot d k with
    | some s =>
      let d1 := if slotState d k s = 2 then setF (writeRec d k s 3 (slotAct d k s)) (FW_RUN k) FW_RUN_TRIAL 0 else d
      blowArb d1 k
    | none => d) d)

/- The configuration image (R497, R498) -/

/-- A copy of the configuration image; an erased one where none was written. -/
def cfgCopy (d : Dev) (i : Nat) : Nat := (d.attic.cfg.get i (BitVec.allOnes 512)).toNat

def cfVersion (c : Nat) : Nat := bits c 64 32

/-- A valid copy. -/
def cfgOk (c : Nat) : Bool :=
  bits c 0 32 == 1 && bits c 32 32 == 64 && bits c 480 32 == crc32 (bytesOf 60 c) && bits c 112 16 == 0 && bits c 240 240 == 0 &&
    decide (600 ≤ bits c 160 16) && decide (bits c 160 16 ≤ 1800) && decide (bits c 176 8 ≤ 80) &&
    decide (1 ≤ bits c 185 6) && decide (bits c 185 6 ≤ 48) && !bit c 191 && bits c 209 15 == 0 && bits c 236 4 == 0

/-- The copy that a start uses: the valid one of higher VERSION, copy A where they are equal (R498). -/
def cfgUsed (d : Dev) : Option Nat :=
  match cfgOk (cfgCopy d 0), cfgOk (cfgCopy d 1) with
  | true, true => some (if cfVersion (cfgCopy d 0) < cfVersion (cfgCopy d 1) then 1 else 0)
  | true, false => some 0
  | false, true => some 1
  | false, false => none

/-- CFG_STATUS, CFG_VERSION and CFG_PORTS at stage 3 (R498, R511). -/
def readCfg (d : Dev) : Dev :=
  match cfgUsed d with
  | none => d
  | some i =>
    let c := cfgCopy d i
    setR (setR (setR d CFG_STATUS (1 + fv 1 1 i)) CFG_VERSION (cfVersion c)) CFG_PORTS (bits c 128 32)

/-- The image's values stand in their registers before MOD_LOCK.LOCK is set (R37, R498). -/
def loadCfg (d : Dev) : Dev :=
  let d1 := match cfgUsed d with
    | none => d
    | some i =>
      let c := cfgCopy d i
      let d1 := setF (setF (setF d MOD_ID MOD_ID_MODULE_NUMBER (bits c 96 16)) PWR_CAP_HOST PWR_CAP_HOST_CAP (bits c 160 16))
        FREQ_MAX FREQ_MAX_CODE (bits c 176 8)
      let d2 := (List.range 128).foldl (fun d n =>
        let a := CC_SCRUB_CTL (n / 2) (n % 2)
        let d1 := setF d a CC_SCRUB_CTL_EN (bits c 184 1)
        if d1.flt.scrubHeld.contains n then setF d1 a CC_SCRUB_CTL_PERIOD_H 1 else setF d1 a CC_SCRUB_CTL_PERIOD_H (bits c 185 6)) d1
      let d3 := setF (setF d2 FLT_TEST_CTL FLT_TEST_CTL_EN (bits c 192 1)) FLT_TEST_CTL FLT_TEST_CTL_PERIOD_S (bits c 193 16)
      (List.range 32).foldl (fun d p => setR d (GP_CLASS_WT (p % 16) (p / 16)) (bits c 224 12)) d3
  setB d1 MOD_LOCK MOD_LOCK_LOCK true

end Sys2Proof.Machine
end

