-- ==== Sys2Proof/Machine/Reset.lean ====
section
/-!
DEFINITION. Machine/Reset.lean: power, cold start, PERST# and module resets and what survives them (R441, R450, R492-R495,
R500-R502, R505, R509, R510, R537).
-/
namespace Sys2Proof.Machine

/- Registers that a reset keeps (R509) -/

/-- Indices of the tiles', stacks', cores', edge dies' and ports' blocks (R36). -/
def perTile : List (Nat × Nat) := [(64, 0x80000)]
def perStack : List (Nat × Nat) := [(64, 0x80000), (2, 0x10000)]
def perCore : List (Nat × Nat) := [(320, 0x10000)]
def perEdge : List (Nat × Nat) := [(16, 0x20000)]
def perPort : List (Nat × Nat) := [(16, 0x20000), (2, 0x100)]

def allBits : Nat := 0xFFFFFFFF

/-- Fuses and their copies: kept by every reset. -/
def keptFuses : List (Nat × List (Nat × Nat) × Nat) :=
  [(SEC_LC, [], allBits), (FW_ARB_0, [], allBits), (FW_ARB_1, [], allBits), (TILE_FUSE 0, perTile, allBits)]

/-- Module-wide registers a PERST# or module reset keeps: counters "since cold reset", the log ring's number, lost units and the
board controller's cap (log 47). -/
def keptModule : List (Nat × List (Nat × Nat) × Nat) := [
  (TG_TICK_LO, [], allBits), (TG_TICK_HI, [], allBits), (TG_STRETCH, [], allBits), (VRD_DIVERGE, [], allBits),
  (VRD_SUSPECT, [], allBits), (VRD_STALE, [], allBits), (FAB_REFUSED, [], allBits), (SEC_REL_FAIL, [], allBits),
  (SEC_REPLAY, [], allBits), (FREQ_CHANGES, [], allBits), (PWR_DROOP_CNT, [], allBits), (FLT_LOG_SEQ, [], allBits),
  (FLT_LASTING, [], allBits), (FLT_PLOG, [], allBits), (FLT_TEST_ROUNDS, [], allBits), (HIF_PAN_TAKEN, [], allBits),
  (MGC_RESTARTS, [], allBits), (MGC_SRAM_CE, [], allBits), (RST_COUNT, [], allBits), (RST_TILE, [], allBits),
  (RST_CTX, [], allBits), (PST_COUNT, [], allBits), (SB_CLK, [], allBits), (SB_JTAG, [], allBits), (PWR_CAP_BMC, [], allBits),
  (MOD_CORES, [], allBits)]

/-- Registers of tiles, stacks, cores, edge dies and ports that a PERST# or module reset keeps (log 47). -/
def keptUnits : List (Nat × List (Nat × Nat) × Nat) := [
  (TILE_CORE_MAP 0, perTile, allBits), (TILE_STATE 0, perTile, 0x3F8), (TILE_CEIL 0, perTile, 0x7F00),
  (IVR_FAILED_LO 0, perTile, allBits), (IVR_FAILED_HI 0, perTile, allBits), (TILE_FT_CNT 0, perTile, allBits),
  (TILE_SAG_CNT 0, perTile, allBits), (TILE_NOTE 0, perTile, 0xFFFF), (UE_RETRY 0, perTile, 0xFFFF),
  (UE_ROWS_LO 0, perTile, allBits), (UE_ROWS_HI 0, perTile, allBits), (CC_STATUS 0 0, perStack, 8),
  (CC_SCRUB_PASS 0 0, perStack, allBits), (CC_CE_CNT 0 0, perStack, allBits), (CC_UE_CNT 0 0, perStack, allBits),
  (SC_OVERRUN 0, perCore, 0xFFFF), (SC_GROUPS_LO 0, perCore, allBits), (SC_GROUPS_HI 0, perCore, allBits),
  (SHF_PARITY_CNT 0, perCore, allBits), (SHF_REFUSED 0, perCore, allBits), (CL_GATED 0, perCore, allBits),
  (CL_BALLAST 0, perCore, allBits), (RDX_DIG_BAD_A 0, perEdge, allBits), (RDX_DIG_BAD_B 0, perEdge, allBits),
  (RDX_BLAMED 0, perEdge, allBits), (RDX_ROWS_LO 0, perEdge, allBits), (RDX_ROWS_HI 0, perEdge, allBits),
  (MCP_HOLD_MAX 0, perEdge, 0xFFFF), (GP_DOWN 0 0, perPort, 0xFFFF), (XCH_DROP_TOTAL 0, [(8, 0x20000)], allBits)]

/-- The bits of register a that a list of kept registers names. -/
def keptMask (rows : List (Nat × List (Nat × Nat) × Nat)) (a : Nat) : Nat :=
  match rows.find? (fun r => addrIn r.1 r.2.1 a) with
  | some r => r.2.2
  | none => 0

/-- Registers returned to their reset values but for the bits kept. -/
def keepRegs (rows : List (Nat × List (Nat × Nat) × Nat)) (t : Tbl Word) : Tbl Word :=
  t.filterMap (fun x =>
    let m := BitVec.ofNat 32 (keptMask rows x.1)
    let r := BitVec.ofNat 32 (regReset x.1)
    let v := (x.2 &&& m) ||| (r &&& ~~~m)
    if v = r then none else some (x.1, v))

/- What survives -/

/-- What a power loss leaves (R509, column Cold): fuses, the attic with the persistent log, and what the outside has already
seen. -/
def coldKeep (d : Dev) : Dev :=
  let b : Boot := { uds := d.boot.uds, fuseBad := d.boot.fuseBad }
  let f : Flt := { plog := d.flt.plog, plogNext := d.flt.plogNext }
  { now := d.now, freshN := d.freshN, out := d.out, attic := d.attic, regs := keepRegs keptFuses d.regs, boot := b, flt := f }


/-- What a PERST# or a module reset leaves (R509): the Cold column with retired cores, spare maps, lost units, derate ceilings,
lost ports, counters, the log ring and PWR_CAP_BMC, the identity keys, and for a module reset the PCIe link. -/
def warmKeep (module : Bool) (d : Dev) : Dev :=
  let rows := keptFuses ++ (keptModule ++ (keptUnits ++ (if module then [(HIF_STATUS, [], 0x1FE)] else [])))
  let b : Boot := { off := false, uds := d.boot.uds, fuseBad := d.boot.fuseBad, ident := d.boot.ident, rekey := d.boot.rekey }
  let f : Flt := {
    log := d.flt.log
    plogWait := d.flt.plogWait
    plog := d.flt.plog
    plogNext := d.flt.plogNext
    scrubHeld := d.flt.scrubHeld
    mapPend := d.flt.mapPend
    takeovers := d.flt.takeovers.filter (·.done) }
  let lostEdges : Tbl Edge := d.fab.edges.filterMap (fun x => if x.2.lost then some (x.1, ({ lost := true } : Edge)) else none)
  let w : Dev := {
    now := d.now
    freshN := d.freshN
    out := d.out
    attic := d.attic
    regs := keepRegs rows d.regs
    boot := b
    flt := f
    fab := { edges := lostEdges }
    pwr := { vcmOff := d.pwr.vcmOff }
    jtag := d.jtag
    aer := if module then d.aer else 0
    recFlight := d.recFlight }
  let w1 := (List.range 64).foldl (fun w t =>
    if getF d (TILE_STATE t) TILE_STATE_COMPUTE ≠ 3 then w
    else
      let w1 := setBitAt (setF w (TILE_STATE t) TILE_STATE_COMPUTE 3) MOD_TILE_LOST_0 t true
      if baseLost d t then setB w1 (TILE_STATE t) TILE_STATE_ROUTER_ON false else w1) w
  (List.range 32).foldl (fun w p => if gpState d p = 4 then setGpState w p 4 else w) w1

/- Stage 1: the ROM (R398, R492, R519, R529) -/

def setStage (d : Dev) (n : Nat) : Dev := setF d BOOT_STAGE BOOT_STAGE_STAGE n
def bootStage (d : Dev) : Nat := getF d BOOT_STAGE BOOT_STAGE_STAGE

/-- The bytes of an ASCII string. -/
def ascii (s : String) : List Nat := s.toList.map (·.toNat)

/-- The unique device secret in the fuses. -/
def udsOf (d : Dev) : Nat := d.boot.uds.getD Config.uds

/-- The identity keys derived from the fuses; none in Blank and Scrapped (R398). -/
def deriveIdentity (d : Dev) : Dev :=
  let key := fun (s : String) => natOfBytes ((sha384 (ascii s ++ bytesOf 32 (udsOf d))).take 32)
  let id := if lcState d = 0 ∨ lcState d = 4 then none else some (key "OZW2 ID ED", key "OZW2 ID MLDSA")
  { d with boot := { d.boot with ident := id, rekey := false } }

/-- Stage 1 of a start. -/
def romStart (d : Dev) (kind : Nat) : Dev :=
  let d1 := setStage d 1
  if d.boot.fuseBad then d1
  else selectMgmt (if kind = 1 ∨ d.boot.rekey then deriveIdentity d1 else d1)

/- Fuses (R18, R19) -/

/-- The cores of tile t that passed wafer test. -/
def passed (d : Dev) (t : Nat) : List Nat := (List.range 5).filter (bit (getF d (TILE_FUSE t) TILE_FUSE_CORE_PASS))

/-- The core map the fuses give (R18): the four lowest cores that passed serve the slots, the fifth is the spare; none with fewer
than four. -/
def fusedMap (l : List Nat) : Nat :=
  if l.length < 4 then 0x77777 else (List.range 4).foldl (fun m q => m + fv (4 * q) 3 (l.getD q 7)) 0 + fv 16 3 (l.getD 4 7)

/-- Tile t as its fuses leave it at a cold start: with fewer than four passing cores its compute die is lost from the start (R18,
R544). -/
def fuseTile (d : Dev) (t : Nat) : Dev :=
  let d1 := setR d (TILE_CORE_MAP t) (fusedMap (passed d t))
  if (passed d t).length < 4 then setBitAt (setF d1 (TILE_STATE t) TILE_STATE_COMPUTE 3) MOD_TILE_LOST_0 t true else d1

/-- Every tile as its fuses leave it, with the cores assigned and the spares (R18, R19, R36). -/
def fuseTiles (d : Dev) : Dev :=
  let n := fun (k : Nat) => ((List.range 64).filter (fun t => decide (k ≤ (passed d t).length))).length
  let d1 := (List.range 64).foldl fuseTile d
  setF (setF d1 MOD_CORES MOD_CORES_ASSIGNED (4 * n 4)) MOD_CORES MOD_CORES_SPARES (n 5)

/- Resets that wipe (R500, R505) -/

/-- A wiping reset of this kind would be absorbed, or the module has no power. -/
def absorbed (d : Dev) (kind : Nat) : Bool := d.boot.off || d.boot.run.any (fun k => decide (k ≤ kind))

/-- A wiping reset begins: what survives it, and its registers (R502, R509, R511). -/
def beginWipe (kind cause : Nat) (d : Dev) : Dev :=
  let w := if kind = 1 then fuseTiles (coldKeep d) else warmKeep (kind == 3) d
  let d1 := setR (setB (setF w RST_STATUS RST_STATUS_LAST kind) RST_STATUS RST_STATUS_BUSY true) RST_CAUSE cause
  let d2 := if kind = 3 then satF d1 RST_COUNT RST_COUNT_MODULE else if kind = 2 then satF d1 RST_COUNT RST_COUNT_PERST else d1
  { d2 with boot := { d2.boot with off := false, run := some kind } }

/-- A module reset from a cause (R500); absorbed by one of equal or higher rank. -/
def moduleReset (cause : Nat) (d : Dev) : Dev := if absorbed d 3 then d else romStart (beginWipe 3 cause d) 3

/-- The module loses power; its next start is a cold start with a cause (R441, R445, R450, R537). -/
def powerOff (cause : Nat) (d : Dev) : Dev :=
  if d.boot.off then d
  else
    let w := coldKeep d
    { w with boot := { w.boot with off := true, cause := cause } }

/-- INPUT_UVLO (R441): the input falls below 38.0 V. -/
def inputUvlo (d : Dev) : Dev := powerOff 2 d

/-- INPUT_OVERVOLTAGE (R537): every VCM switches off (log 48). -/
def inputOvervoltage (d : Dev) : Dev := powerOff 2 d

/-- POWER_GOOD (R492): a cold start begins. -/
def powerGood (d : Dev) : Dev := if d.boot.off then romStart (beginWipe 1 d.boot.cause d) 1 else d

/-- PERST_ASSERT (R500): the module is wiped and idles. -/
def perstAssert (d : Dev) : Dev :=
  if absorbed d 2 then d
  else
    let w := beginWipe 2 64 d
    { w with boot := { w.boot with held := true } }

/-- PERST_DEASSERT (R500): the restart begins from ROM. -/
def perstDeassert (d : Dev) : Dev :=
  if d.boot.held then romStart { d with boot := { d.boot with held := false } } 2 else d

/- Stages 2 to 9 (R492, R494, R495) -/

/-- HIF_STATUS's link fields, unless JTAG drives the pins (R489, R490). -/
def setLink (d : Dev) (v : Nat) : Dev :=
  if getB d SB_JTAG SB_JTAG_PINS then { d with jtag := { d.jtag with link := v % 128 } }
  else setF d HIF_STATUS ⟨1, 7⟩ v

/-- Stage 2: the PCIe link is up at a speed, a width and in a mode; a module reset has kept it. -/
def linkUp (res : List Nat) (d : Dev) : Dev :=
  if d.boot.run = some 3 then d else setLink d (fv 0 3 (res.getD 0 0) + fv 3 3 (res.getD 1 0) + fv 6 1 (res.getD 2 0))

/-- Stage 4: the image's settings, and what follows from the caps and ceilings (R434, R436, R438, R498). -/
def applyCfg (d : Dev) : Dev :=
  let d1 := loadCfg d
  capChanged (d1.flt.scrubHeld.foldl (fun d n => setF d (CC_SCRUB_CTL (n / 2) (n % 2)) CC_SCRUB_CTL_PERIOD_H 1) d1)

/-- Stage 5: every rail in regulation. -/
def railsUp (d : Dev) : Dev := setRails d (getF d FREQ_STATUS FREQ_STATUS_F_JOB)

/-- A tile's tick arrival is calibrated, or it fails (R46, R47). -/
def calibrateTile (arr : List Nat) (d : Dev) (t : Nat) : Dev :=
  if baseLost d t then d
  else
    let a := arr.getD t 0
    if 112 < a then loseBase (report d { cls := 0x20, kind := 2, unit := t }) t
    else
      let d1 := setF (setF d (SLOT_ALIGN t) SLOT_ALIGN_ARRIVAL a) (SLOT_ALIGN t) SLOT_ALIGN_TICK_ALIGN (128 - a)
      setF d1 TG_ARRIVAL TG_ARRIVAL_ARRIVAL_MAX (max a (getF d TG_ARRIVAL TG_ARRIVAL_ARRIVAL_MAX))

/-- An edge die's tick arrival is calibrated (R46): node 64 + k. -/
def calibrateEdge (arr : List Nat) (d : Dev) (k : Nat) : Dev :=
  if (edge d k).lost then d
  else
    let a := arr.getD (64 + k) 0
    setF { d with edgeAlign := d.edgeAlign.put k (128 - a) 0 } TG_ARRIVAL TG_ARRIVAL_ARRIVAL_MAX
      (max a (getF d TG_ARRIVAL TG_ARRIVAL_ARRIVAL_MAX))

/-- Stage 6: the mesh is trained, tick arrivals are calibrated, the tick generator runs. -/
def trainMesh (arr : List Nat) (d : Dev) : Dev :=
  let d1 := setR { d with tickOut := false, guarded := true, tickAt := [], edgeAlign := [] } TG_ARRIVAL 0
  setB ((List.range 16).foldl (calibrateEdge arr) ((List.range 64).foldl (calibrateTile arr) d1)) TG_CTL TG_CTL_RUN true

/-- Stage 7: stacks trained, those that fail lost; and wiped, at a start (R245, R248). -/
def trainStacks (bad : List Nat) (wiped : Bool) (d : Dev) : Dev :=
  (List.range 128).foldl (fun d n =>
    let a := CC_STATUS (n / 2) (n % 2)
    if stackLost d n then d
    else if bad.contains n then loseStack (report d { cls := 0x11, kind := 3, unit := n }) n
    else
      let d1 := setB (setB d a CC_STATUS_TRAINED true) a CC_STATUS_SELF_REFRESH false
      if wiped then setB d1 a CC_STATUS_WIPED true else d1) d

/-- The core map of tile t from the next stop tick on. -/
def nextMap (d : Dev) (t : Nat) : Nat := ((d.flt.mapPend.find? (fun x => x.1 == t)).map (·.2)).getD (getR d (TILE_CORE_MAP t))

/-- The startup core check of one tile (R494): failing cores retire, the spare replaces one, too few lose the compute die. -/
def checkTile (bad : List Nat) (d : Dev) (t : Nat) : Dev :=
  if getF d (TILE_STATE t) TILE_STATE_COMPUTE = 3 then d
  else
    let fail := (List.range 5).filter (fun i => coreThere d (5 * t + i) && bad.contains (5 * t + i))
    let d1 := fail.foldl (fun d i =>
      report (setF d (TILE_STATE t) TILE_STATE_RETIRED (getF d (TILE_STATE t) TILE_STATE_RETIRED ||| 2 ^ i))
        { cls := 0x03, kind := 1, unit := 5 * t + i }) d
    if ((List.range 5).filter (fun i => coreThere d1 (5 * t + i))).length < 4 then loseCompute d1 t
    else match fail with
      | [] => d1
      | i :: _ =>
        let m := nextMap d1 t
        let d2 := setF d1 MOD_CORES MOD_CORES_SPARES (getF d1 MOD_CORES MOD_CORES_SPARES - 1)
        match (List.range 4).find? (fun q => bits m (4 * q) 3 == i) with
        | some q => setB (mapAt d2 t (insBits (insBits m 16 3 7) (4 * q) 3 (bits m 16 3))) (TILE_STATE t) TILE_STATE_SPARE_IN_USE true
        | none => mapAt d2 t (insBits m 16 3 7)

/-- Header switches of a running tile's assigned cores close (R426, R427). -/
def stageTile (d : Dev) (t : Nat) : Dev :=
  if !tileRuns d t then d
  else (List.range 4).foldl (fun d q =>
    let k := bits (nextMap d t) (4 * q) 3
    if k < 5 then closeHdr d (5 * t + k) else d) d

/-- Stage 8: the core check, and the cores staged. -/
def checkCores (bad : List Nat) (d : Dev) : Dev :=
  (List.range 64).foldl stageTile ((List.range 64).foldl (checkTile bad) d)

/-- Stage 9: edge dies that fail are lost, and the ports enabled train (R333, R495). -/
def trainPorts (bad : List Nat) (d : Dev) : Dev :=
  let d1 := (bad.filter (· < 16)).foldl (fun d k => loseEdge (report d { cls := 0x35, kind := 5, unit := k }) k) d
  (List.range 32).foldl (fun d p =>
    if bit (getR d CFG_PORTS) p && gpState d p != 4 && !(edge d (portDie p)).lost && !getB d SB_JTAG SB_JTAG_PINS then
      levelSend (modPort (setGpState d p 1) p emptied) p
    else d) d1

/-- The LOCK bits of stage 9 (R492). -/
def setLocks (d : Dev) : Dev :=
  let d1 := (List.range 128).foldl (fun d n => setB d (CC_LOCK (n / 2) (n % 2)) CC_LOCK_LOCK true) d
  (List.range 32).foldl (fun d p => setB d (GP_LOCK (portDie p) (portHalf p)) GP_LOCK_LOCK true) (setB d1 FAB_LOCK FAB_LOCK_LOCK true)

/-- BOOT_STAGE_DONE (R492): the next stage is reached. What it found: at stage 2 the link's speed, width and mode, at 6 the tick
arrival of each tile and then of each edge die, at 7 the stacks, at 8 the cores and at 9 the edge dies that fail. -/
def bootStageDone (res : List Nat) (d : Dev) : Dev :=
  if d.boot.off || d.boot.held || d.boot.run.isNone || d.boot.fuseBad then d
  else match bootStage d with
    | 1 => linkUp res (setStage d 2)
    | 2 => if fwMode d = 2 then d else readCfg (selectRest (setStage d 3))
    | 3 => if fwMode d = 1 then d else applyCfg (setStage d 4)
    | 4 => railsUp (setStage d 5)
    | 5 => trainMesh res (setStage d 6)
    | 6 => trainStacks res true (setStage d 7)
    | 7 => checkCores res (setStage d 8)
    | 8 => setLocks (trainPorts res (setStage d 9))
    | _ => d

/-- READY (R492, R520, R521): the module is ready, ms after its start. -/
def ready (ms : Nat) (d : Dev) : Dev :=
  if d.boot.off || d.boot.held || d.boot.run.isNone || !(bootStage d == 9 || (bootStage d == 3 && fwMode d == 1)) then d
  else
    let d1 := setF (setB (setB (setStage d 10) HIF_STATUS HIF_STATUS_READY true) RST_STATUS RST_STATUS_BUSY false) BOOT_MS BOOT_MS_MS ms
    confirmSlots { d1 with boot := { d1.boot with run := none } }

/-- The module is ready for requests (R493). -/
def isReady (d : Dev) : Bool := getB d HIF_STATUS HIF_STATUS_READY

end Sys2Proof.Machine
end

