-- ==== Sys2Proof/Machine/States.lean ====
section
/-!
DEFINITION. Machine/States.lean: tile and context resets (R501-R504), Quiet and Hold (R506-R508), the management restart (R513), the
sensor hub's samples (R446, R450, R514) and the reference clock (R534).
-/
namespace Sys2Proof.Machine

/- Tile and context resets -/

/-- Registers for which p holds return to their reset values but for the bits that resets keep. -/
def resetRegs (p : Nat → Bool) (d : Dev) : Dev :=
  { d with regs := d.regs.filterMap (fun x =>
      if p x.1 then (keepRegs (keptModule ++ keptUnits) [x]).head? else some x) }

/-- Tile t carries a resident context (R503). -/
def tileUsed (d : Dev) (t : Nat) : Bool :=
  (List.range 5).any (fun i => (core d (5 * t + i)).resFg.isSome || (core d (5 * t + i)).resFill.isSome)

def modRsts (d : Dev) (f : Rst → Rst) : Dev := { d with boot := { d.boot with rsts := d.boot.rsts.map f } }

/-- RST_STATUS and RST_CAUSE of a reset that begins (R511). -/
def showReset (d : Dev) (last : Nat) : Dev :=
  setR (setB (setF d RST_STATUS RST_STATUS_LAST last) RST_STATUS RST_STATUS_BUSY true) RST_CAUSE 16

/-- Every completion record that the ring has room for is written (R502). -/
def flushCq (d : Dev) : Dev :=
  iter (fun d => if cqRoom d then cqWrite d else d) (d.cqQueue.length + d.cqHeld.length) d

/-- MODULE_RESET (R501, R502): the completion record reaches the ring first, then the reset begins; a code other than 2, 3 and 4
is refused. -/
def moduleResetReq (d : Dev) : Dev :=
  match takeReq d (fun r => r.op == 0x11 && !(arg r 0 8 == 3 || arg r 0 8 == 4)) with
  | none => d
  | some (r, d1) =>
    if arg r 0 8 ≠ 2 then finish d1 r.tag 1 0
    else moduleReset 16 (flushCq (finish d1 r.tag 0 0))

/-- A reset request is absorbed into reset x in progress: its completion record follows x's (R505). -/
def joinReset (d : Dev) (x : Rst) (tag : Nat) : Dev := modRsts d (fun y => if y = x then { y with tags := y.tags ++ [tag] } else y)

/-- Context resets in progress are abandoned for a tile reset (R505; log 113). -/
def abandonResets (d : Dev) : Dev :=
  (d.boot.rsts.flatMap (·.tags)).foldl (fun d t => finish d t 2 0) { d with boot := { d.boot with rsts := [] } }

/-- TILE_RESET (R501, R503, R505): a tile that carries a resident context ends the step in RERUN first. -/
def tileResetReq (d : Dev) : Dev :=
  match takeReq d (fun r => r.op == 0x11 && arg r 0 8 == 3) with
  | none => d
  | some (r, d1) =>
    let t := arg r 1 8
    if 64 ≤ t then finish d1 r.tag 1 0
    else if baseLost d1 t then finish d1 r.tag 0 0
    else match d1.boot.rsts.find? (fun x => x.code == 3) with
      | some x => joinReset d1 x r.tag
      | none =>
        let x : Rst := { code := 3, tags := [r.tag], unit := t }
        let d2 := abandonResets d1
        let d3 := { d2 with boot := { d2.boot with rsts := [x] } }
        if tileUsed d3 t then raiseRerun d3 .step else d3

/-- What a tile reset wipes (R40, R503, R509): cores, shelves and their stores, the larder with its port map, the Update Engine. Within a
step the engine's pass goes on from its interrupted shard after the reload (R267), so what it has folded in stays. -/
def wipeTile (d : Dev) (t : Nat) : Dev :=
  let d1 := (List.range 5).foldl (fun d i =>
    let c := 5 * t + i
    let k := core d c
    let k1 : CoreSt := { resFg := k.resFg, resFill := k.resFill, fillPos := k.fillPos, fillRep := k.fillRep }
    let d1 := wipeRows (setCore d c k1) (shelfRowAddr c 0 0) 4096
    { d1 with
      clauseStore := d1.clauseStore.cut (c * 16384) (c * 16384 + 16384)
      clauseSeq := d1.clauseSeq.cut (c * 4096) (c * 4096 + 4096)
      portMap := d1.portMap.cut (c * 8192) (c * 8192 + 8192)
      acc := d1.acc.cut (c * 256) (c * 256 + 256)
      accPar := d1.accPar.cut (c * 256) (c * 256 + 256) }) d
  let d2 := ueUnwait (wipeRows d1 (larderAddr t 0) (larderSize / 128)) t
  let ofTile := fun (c : Nat) => decide (c / 5 = t)
  let d3 := { d2 with
    portMap := d2.portMap.cut ((320 + t) * 8192) ((320 + t) * 8192 + 8192)
    agents := d2.agents.filter (fun x => x.1 / 64 != t && !x.2.any (fun a => ofTile a.core))
    opens := d2.opens.filter (fun o => !ofTile o.core)
    closes := d2.closes.filter (fun o => !ofTile o.core)
    shelfFlight := d2.shelfFlight.filter (fun o => !ofTile o.core || o.rd.isSome)
    waits := d2.waits.filter (fun w => !(decide (w.2 < 320) && ofTile w.2))
    pwr := { d2.pwr with sag := d2.pwr.sag.filter (· != t), trip := d2.pwr.trip.filter (· != t) }
    upd := { d2.upd with
      ues := if d2.inStep then d2.upd.ues else d2.upd.ues.cut t (t + 1)
      order := d2.upd.order.cut (t * 1024) (t * 1024 + 1024) } }
  let coreLo := SHF_PART (5 * t) / 0x10000 * 0x10000
  let ueLo := UE_STATUS t / 0x10000 * 0x10000
  resetRegs (fun a => (decide (coreLo ≤ a) && decide (a < coreLo + 5 * 0x10000)) || (decide (ueLo ≤ a) && decide (a < ueLo + 0x10000))) d3

/-- A tile reset interrupts the shard that its Update Engine is at (R267), and leaves the engine at the same shard. -/
def resetUe (d : Dev) (t : Nat) (f : Dev → Dev) : Dev :=
  let d1 := if d.inStep && (ueSt d t).busy then ueInterrupt d t none else d
  let d2 := f (if d1.inStep then modUe d1 t (fun u => { u with busy := false }) else d1)
  if d.inStep then setF d2 (UE_ORDER t) UE_ORDER_POS (getF d1 (UE_ORDER t) UE_ORDER_POS) else d2

/-- Tile resets that take effect at an origin: at origin C of a RERUN, outside a step, or on a tile that carries no resident
context (R503). -/
def applyTileResets (atC : Bool) (d : Dev) : Dev :=
  (d.boot.rsts.filter (fun x => x.code == 3 && x.phase == 0)).foldl (fun d x =>
    if !atC && d.inStep && tileUsed d x.unit then d
    else
      let d1 := modRsts (resetUe d x.unit (wipeTile · x.unit)) (fun y => if y = x then { y with phase := 1 } else y)
      showReset (setF (satF d1 RST_TILE RST_TILE_COUNT) RST_TILE RST_TILE_LAST_TILE x.unit) 4) d

/-- A tile reset has begun and its sections are not loaded again: the cores of the module stay idle (R503). -/
def tileReloading (d : Dev) : Bool := d.boot.rsts.any (fun x => x.code == 3 && x.phase == 1)

/-- A tile whose Update Engine holds the module's rule table while that of tile t is loaded again (R277). -/
def ruleSource (d : Dev) (t : Nat) : Option Nat :=
  (List.range 64).find? (fun u => u != t && !baseLost d u && !d.boot.rsts.any (fun x => x.code == 3 && x.phase == 1 && x.unit == u))

/-- TILE_RELOAD_DONE (R503): the sections of the tile under reset are loaded again, as a takeover loads them. -/
def tileReloadDone (d : Dev) : Dev :=
  match d.boot.rsts.find? (fun x => x.code == 3 && x.phase == 1) with
  | none => d
  | some x =>
    let t := x.unit
    let d1 := (List.range 4).foldl (fun d q => match slotCore d t q with
      | some c => reloadCore d (4 * t + q) c
      | none => d) d
    let own := fun (s : Sec) => (s.typ == 8 && s.idx == 128 + t) || (s.typ == 0xA && s.idx == t)
    let d2 := (d1.res.fg.toList ++ d1.res.fillers).foldl (fun d n => match d.pkgs.find? (fun y => y.1 == n) with
      | some y => ((y.2.secs.filter own).foldl (loadSec n (ctxFiller d n) 0) d)
      | none => d) d1
    -- update orders stay the primary package's (R375), the rule table the module's (R277)
    let d3 := match d2.res.fg, d2.primary with
      | some n, some p =>
        let d3 := (p.secs.filter (fun s => s.typ == 0xA && s.idx == t)).foldl (loadSec n false 0) d2
        match ruleSource d3 t, secOf p 0xB 0 with
        | some u, _ => (List.range 256).foldl (fun d i => setWords d (UE_RULE t i 0) 16 (ruleEntry d u i)) d3
        | none, some s => (List.range 256).foldl (fun d i => setWords d (UE_RULE t i 0) 16 (secAt s 0 512 i)) d3
        | none, none => d3
      | _, _ => d2
    let d4 := if !d3.inStep then d3 else if (ueSt d3 t).failed then ueEnd d3 t else ueNext d3 t (getF d (UE_ORDER t) UE_ORDER_POS)
    modRsts d4 (fun y => if y = x then { y with phase := 2 } else y)

/-- A LOAD, EVICT or DELETE of context n is under way. -/
def ctxWork (d : Dev) (n : Nat) : Bool := d.pan.works.any (fun w => (w.op == 2 || w.op == 3 || w.op == 4) && w.ctx == n)

/-- CONTEXT_RESET (R501, R504, R505): the context's streams are cancelled and its windows closed; the foreground leaves its job. Refused
while the context's LOAD or EVICT is under way (log 100). -/
def contextResetReq (d : Dev) : Dev :=
  match takeReq d (fun r => r.op == 0x11 && arg r 0 8 == 4) with
  | none => d
  | some (r, d1) =>
    let n := r.ctx
    if ctxBits d1 n 0 1 = 0 ∨ ctxWork d1 n then finish d1 r.tag 2 0
    else match d1.boot.rsts with
    | x :: _ => joinReset d1 x r.tag
    | [] =>
      let fg := d1.res.fg = some n
      let d2 := (ctxCores d1 n).foldl (fun d c => (List.range 16).foldl (evictChan n c) d) d1
      let d3 := (openWins d2 (fun w => wCtx w == n)).foldl (fun d w => closeWin d w none) d2
      let d4 := if fg ∧ inJob d3 then endJob d3 0x11 else if fg ∧ d3.pan.step.isSome then dropStep d3 else d3
      let x : Rst := { code := 4, tags := [r.tag], unit := n, phase := 2 }
      let d5 := setCtxField { d4 with boot := { d4.boot with rsts := [x] } } n 5 3 4
      showReset (setF (satF d5 RST_CTX RST_CTX_COUNT) RST_CTX RST_CTX_LAST_CTX n) 5

/-- The larder extent of a context wiped on every tile (R509). -/
def wipeExtent (d : Dev) (n : Nat) : Dev :=
  (List.range 64).foldl (fun d t => wipeRows d (larderAddr t (4096 * ctxBits d n 192 17)) (32 * ctxBits d n 209 17)) d

/-- The Cellar and link keys of context n are gone (R504). -/
def dropCtxKeys (d : Dev) (t s n : Nat) : Dev :=
  let d4 := if t = 0 then d else { d with keyTable := d.keyTable.put t 0 0 }
  if s = 0 then d4
  else
    let links := d4.fab.linkKeys.filter (fun x => x.1 != s)
    setCtxField (setBitAt { d4 with fab := { d4.fab with linkKeys := links } } (SEC_LKEYS 0) s false) n 16 8 0

/-- Of context n's protection only its logs stay (R504). -/
def keepLogs (d : Dev) (n : Nat) : Dev :=
  let old := keysOf d n
  setKeys d n { pkgLog := old.pkgLog, pkgCount := old.pkgCount, manLog := old.manLog, manCount := old.manCount }

/-- A context reset ends (R504): everything DELETE wipes but the descriptor; a protected context takes a new ephemeral pair. -/
def endCtxReset (d : Dev) (n : Nat) : Dev :=
  let d2 := clearCtx (wipeExtent d n) n
  let d3 := (heldChunks d2 n).foldl (fun d x => retagChunk d x.1 x.2 0) d2
  let d6 := keepLogs (dropCtxKeys d3 (ctxTag d n) (ctxBits d n 16 8) n) n
  let d8 := noPkg (if d6.res.fg = some n then noForeground d6 else noFiller d6 n) n
  let d9 := setCtxField d8 n 5 3 (b2n (ctxProt d8 n))
  showProt (if ctxProt d9 n then drawEph d9 n else d9)

/-- No clause of a context runs any more. -/
def clausesGone (d : Dev) (n : Nat) : Bool := (ctxCores d n).all (fun c => !(core d c).run.any (fun r => r.ctx == n))

/-- RESET_DONE (R502): a tile or context reset whose work is done ends with its completion record; else a wiping reset ends in
readiness, ms after it began. -/
def resetDone (ms : Nat) (d : Dev) : Dev :=
  let done := fun (x : Rst) => x.phase == 2 && (x.code == 3 ||
    (streamsGone d x.unit && clausesGone d x.unit && d.fab.closing.all (fun y => wCtx (winDesc d y.1) != x.unit)))
  match d.boot.rsts.find? done with
  | none => ready ms d
  | some x =>
    let rest := d.boot.rsts.erase x
    let d1 := setB { d with boot := { d.boot with rsts := rest } } RST_STATUS RST_STATUS_BUSY (rest.any (fun y => y.phase != 0))
    let d2 := if x.code = 4 then endCtxReset d1 x.unit else d1
    x.tags.foldl (fun d t => finish d t 0 0) d2

/- Quiet and Hold (R506-R508) -/

/-- PSTATE: 0 Running, 1 Quiet, 2 Hold. -/
def pState (d : Dev) : Nat := getF d RST_STATUS RST_STATUS_PSTATE

/-- A request for a power state, from the pantry with a tag or from SMBus, as R507 decides it. -/
def powerTo (target : Nat) (tag : Option Nat) (d : Dev) : Dev :=
  let answer := fun (d : Dev) (st : Nat) => match tag with
    | some t => finish d t st 0
    | none => d
  if target = pState d then answer d 0
  else if (target ≠ 0 ∧ (d.res.fg.isSome ∨ !d.res.fillers.isEmpty)) ∨ (pState d = 2 ∧ target = 1) then answer d 2
  else
    let d1 := if target = 0 then d else dropTest d
    setB { d1 with boot := { d1.boot with ptrans := some (target, tag) } } RST_STATUS RST_STATUS_PTRANS true

/-- A POWER request for one state (R507); a target above 2 is malformed. -/
def powerReq (target : Nat) (d : Dev) : Dev :=
  match takeReq d (fun r => r.op == 0x10 && (arg r 0 8 == target || (target == 0 && decide (2 < arg r 0 8)))) with
  | none => d
  | some (r, d1) => if 2 < arg r 0 8 then finish d1 r.tag 1 0 else powerTo target (some r.tag) d1

/-- A state request over SMBus: it waits while a transition is in progress (R508). -/
def powerSmbus (target : Nat) (d : Dev) : Dev :=
  if d.boot.ptrans.isSome then { d with boot := { d.boot with pwait := d.boot.pwait ++ [target] } } else powerTo target none d

/-- Shelves, handle tables, program and clause stores, port maps, accumulators with their poison bits, UE orders and rule tables wiped
(R119, R509). -/
def wipeCompute (d : Dev) : Dev :=
  let inCore := fun (a : Nat) =>
    let c := (a - SHF_PART 0 / 0x10000 * 0x10000) / 0x10000
    decide (SHF_PART 0 / 0x10000 * 0x10000 ≤ a) && ((decide (HT_ENTRY_n_LO c 0 ≤ a) && decide (a < HT_ENTRY_n_LO c 512)) ||
      (decide (STR_PROG c 0 0 ≤ a) && decide (a < STR_PROG c 512 0)) || a == SC_STATUS c ||
      (decide (SC_ACC_POISON c 0 ≤ a) && decide (a < SC_ACC_POISON c 8)))
  let inUe := fun (a : Nat) =>
    let t := (a - UE_STATUS 0) / 0x80000
    decide (UE_STATUS 0 ≤ a) && decide (t < 64) && (a == UE_ORDER t || (decide (UE_RULE t 0 0 ≤ a) && decide (a < UE_RULE t 256 0)))
  { d with
    mem := Tbl.cut d.mem shelfBase (shelfBase + 320 * shelfSize)
    rowMeta := d.rowMeta.cut (shelfBase / 128) ((shelfBase + 320 * shelfSize) / 128)
    regs := d.regs.filter (fun x => !(inCore x.1 || inUe x.1))
    clauseStore := []
    clauseSeq := []
    portMap := []
    acc := []
    accPar := []
    cores := []
    agents := []
    opens := []
    closes := []
    upd := { d.upd with ues := [], order := [] } }

/-- Larders, slot tables, bulk slot maps and sync objects wiped, on entry to Hold (R509). -/
def wipeHold (d : Dev) : Dev :=
  let span := fun (a : Nat) => (List.range 64).any (fun t =>
    decide (SLOT_CTL t = a) || (decide (SYNC_OBJ t 0 0 ≤ a) && decide (a < SYNC_OBJ t 256 0)) ||
      (decide (t < 16) && decide (BULK_MAP t 0 0 ≤ a) && decide (a < BULK_MAP t 2 0)))
  { d with
    mem := Tbl.cut d.mem larderBase (larderBase + 64 * larderSize)
    rowMeta := d.rowMeta.cut (larderBase / 128) ((larderBase + 64 * larderSize) / 128)
    regs := d.regs.filter (fun x => !span x.1)
    slotTable := []
    flits := []
    deliveries := []
    syncFlight := []
    waits := [] }

/-- Compute rails off, header switches open, stacks in self-refresh, lanes off (R506, R507). -/
def quietUnits (d : Dev) : Dev :=
  let d1 := (List.range 64).foldl (fun d t =>
    if getF d (TILE_STATE t) TILE_STATE_COMPUTE = 1 then setF (darkCores d t) (TILE_STATE t) TILE_STATE_COMPUTE 0 else d) d
  let d2 := (List.range 128).foldl (fun d n =>
    if stackLost d n then d else setB d (CC_STATUS (n / 2) (n % 2)) CC_STATUS_SELF_REFRESH true) d1
  (List.range 32).foldl (fun d p => if gpState d p = 4 then d else modPort (setGpState d p 0) p emptied) d2

/-- Entry to Hold beyond Quiet (R506, R507): the tick generator and the routers stop, every window closes. -/
def holdUnits (d : Dev) : Dev :=
  let d1 := (openWins d (fun _ => true)).foldl (fun d w => closeWin d w none) d
  let d2 := (List.range 64).foldl (fun d t => setB d (TILE_STATE t) TILE_STATE_ROUTER_ON false) d1
  wipeHold (setB { d2 with tickOut := false, tickAt := [] } TG_CTL TG_CTL_RUN false)

/-- Tiles run again (R507). -/
def wakeTiles (d : Dev) : Dev :=
  (List.range 64).foldl (fun d t =>
    if getF d (TILE_STATE t) TILE_STATE_COMPUTE = 0 then setF d (TILE_STATE t) TILE_STATE_COMPUTE 1 else d) d

/-- A transition's actions (R507); a return from Hold finds arrivals and failing stacks, cores and edge dies as a start does. -/
def changeState (from_ tgt : Nat) (arr stks cores edges : List Nat) (d : Dev) : Dev :=
  match tgt with
  | 0 =>
    if from_ = 1 then trainPorts [] ((List.range 64).foldl stageTile (trainStacks [] false (railsUp (wakeTiles d))))
    else
      let d1 := (List.range 64).foldl (fun d t => if baseLost d t then d else setB d (TILE_STATE t) TILE_STATE_ROUTER_ON true) (wakeTiles d)
      trainPorts edges (checkCores cores (trainStacks stks false (trainMesh arr (railsUp d1))))
  | 1 => satF (wipeCompute (quietUnits d)) PST_COUNT PST_COUNT_QUIET
  | _ => satF (holdUnits (wipeCompute (quietUnits d))) PST_COUNT PST_COUNT_HOLD

/-- POWER_TRANSITION_DONE (R507, R508): the transition ends; an SMBus request that waited is taken. -/
def powerTransitionDone (arr stks cores edges : List Nat) (d : Dev) : Dev :=
  match d.boot.ptrans with
  | none => d
  | some (tgt, tag) =>
    let d1 := changeState (pState d) tgt arr stks cores edges { d with boot := { d.boot with ptrans := none } }
    let d2 := setB (setF d1 RST_STATUS RST_STATUS_PSTATE tgt) RST_STATUS RST_STATUS_PTRANS false
    let d3 := match tag with
      | some t => finish d2 t 0 0
      | none => d2
    match d3.boot.pwait with
    | [] => d3
    | x :: rest => powerTo x none { d3 with boot := { d3.boot with pwait := rest } }

/- The management core (R513) -/

/-- A management restart begins (R513): the step in flight ends in RERUN; the working state of the core is lost. -/
def mgmtRestart (wdog : Bool) (d : Dev) : Dev :=
  let d1 := setB (satF d MGC_RESTARTS MGC_RESTARTS_COUNT) FW_STATUS FW_STATUS_WDOG wdog
  raiseRerun { d1 with boot := { d1.boot with restart := true }, flt := { d1.flt with trackers := [] } } .step

/-- WATCHDOG_EXPIRE (R513): before readiness, or within 10 s of a management restart, a module reset; else a management restart.
since: ms since the last management restart (log 49). -/
def watchdogExpire (since : Option Nat) (d : Dev) : Dev :=
  if d.boot.off || d.boot.held || d.boot.fuseBad then d
  else if !isReady d || since.any (· < 10000) then
    setB (moduleReset 0 { d with boot := { d.boot with run := none } }) FW_STATUS FW_STATUS_WDOG true
  else mgmtRestart true d

/-- SRAM_UE (R513): an uncorrectable error outside the retained partition. -/
def sramUe (d : Dev) : Dev := if d.boot.off then d else mgmtRestart false d

/-- A request under way that a management restart ends: an eviction leaves its context resident, a load does not happen. -/
def dropWork (d : Dev) (w : Work) : Dev :=
  if isDegraded w then d
  else
    let d1 := if w.op = 3 ∨ w.op = 4 then setCtxField d w.ctx 5 3 3
      else if w.op = 2 ∧ !ctxFiller d w.ctx then setF d PLC_STATUS PLC_STATUS_STATE 0 else d
    finish d1 w.tag 2 0

/-- MGMT_RESTART_DONE (R513): every request taken and not complete completes with STATE. -/
def mgmtRestartDone (d : Dev) : Dev :=
  if !d.boot.restart then d
  else
    let d1 := { d with
      pan := { d.pan with taken := [], works := d.pan.works.filter isDegraded, step := none }
      fab := { d.fab with closing := d.fab.closing.map (fun x => (x.1, none)) }
      boot := { d.boot with
        restart := false
        fwq := []
        rsts := (d.boot.rsts.filter (fun x => x.phase != 0)).map (fun x => { x with tags := [] })
        ptrans := d.boot.ptrans.map (fun x => (x.1, none)) } }
    let tags := d.pan.taken.map (·.tag) ++ (d.pan.step.map (·.tag)).toList ++ d.fab.closing.filterMap (·.2) ++ d.boot.fwq.map (·.tag) ++
      d.boot.rsts.flatMap (·.tags) ++ (d.boot.ptrans.bind (·.2)).toList
    let d2 := setB (tags.foldl (fun d t => finish d t 2 0) (d.pan.works.foldl dropWork d1)) FW_STATUS FW_STATUS_BUSY false
    failJoin d2 2

/- The sensor hub (R514) -/

/-- The management die is too hot (R450): its record reaches the persistent log, then every VCM switches off. -/
def mgmtTrip (d : Dev) : Dev :=
  let seq := (getR d FLT_LOG_SEQ + 1) % 2 ^ 32
  let r := stamp (recordOf d { cls := 0x23, kind := 6, unit := myMod d } false) true true 0 seq
  powerOff 4 (plogCopy { d with flt := { d.flt with plogWait := [r] } })

/-- THERMAL_SAMPLE (R446, R449, R450, R514): every 1 ms, the tiles' sensors, the edge dies' and the management die's. -/
def thermalSample (tiles : List (Nat × List Int)) (edges : List Int) (mgmt : Int) (d : Dev) : Dev :=
  if d.boot.off then d
  else
    let d1 := newCeiling (showMax (tiles.foldl sampleTile d))
    let d2 := (List.range 16).foldl (fun d k =>
      if (edges.getD k 0 < 115) || (edge d k).lost then d
      else loseEdge (report d { cls := 0x23, kind := 5, unit := k, scope := .step }) k) d1
    if 115 ≤ mgmt then mgmtTrip d2 else d2

/-- VOLTAGE_MONITOR_SAMPLE (R514): every 10 µs, monitors by number, in mV. -/
def voltageMonitorSample (xs : List (Nat × Nat)) (d : Dev) : Dev :=
  { d with volts := xs.foldl (fun t x => t.put x.1 x.2 0) d.volts }

/- The reference clock (R534) -/

/-- MODCLK_LOSS: the PLLs run from the holdover oscillator. -/
def modclkLoss (d : Dev) : Dev :=
  let d1 := setB { d with boot := { d.boot with clkBack := false } } SB_CLK SB_CLK_MODCLK_OK false
  if getB d SB_CLK SB_CLK_HOLDOVER then d1
  else raiseAlert (setB (satF d1 SB_CLK SB_CLK_EVENTS) SB_CLK SB_CLK_HOLDOVER true) 6

/-- MODCLK_RETURN: the PLLs switch back at the next sentence origin. -/
def modclkReturn (d : Dev) : Dev :=
  setB { d with boot := { d.boot with clkBack := getB d SB_CLK SB_CLK_HOLDOVER } } SB_CLK SB_CLK_MODCLK_OK true

end Sys2Proof.Machine
end

