-- ==== Sys2Proof/Machine/Fw.lean ====
section
/-!
DEFINITION. Machine/Fw.lean: firmware updates, the configuration image and ROM recovery (R499, R523-R525, R528, R529).
-/
namespace Sys2Proof.Machine

/-- A refusal's reason (R524, R530). -/
def fwRefuse (d : Dev) (comp reason : Nat) : Dev :=
  setF (setF d FW_LAST_REFUSE FW_LAST_REFUSE_REASON reason) FW_LAST_REFUSE FW_LAST_REFUSE_COMPONENT comp

/-- The module is drained (R523). -/
def fwDrained (d : Dev) : Bool :=
  getF d FAB_STATE FAB_STATE_STATE == 0 && d.res.fg.isNone && d.res.fillers.isEmpty && pState d == 0

/-- The order in which releases are installed (R519, R524). -/
def fwOrder : List Nat := [4, 3, 2, 0, 1]

/-- The target slot of component k (R525). -/
def fwTarget (d : Dev) (k : Nat) : Nat :=
  match chosenSlot d k with
  | some s => 1 - s
  | none => if slotAct d k 1 < slotAct d k 0 then 1 else 0

/-- Why an image of component k with header h and n bytes is refused; 0 where it is accepted (R517, R524). -/
def fwReason (d : Dev) (k n : Nat) (h : BitVec 2048) : Nat :=
  let far := k == 1 && decide (1 < ((ihLink h : Int) - getF d FAB_LEVEL FAB_LEVEL_LINK_LEVEL).natAbs)
  if !imgHdrOk k h || n != ihLength h then 7
  else if ihArb h < fusedArb d k then 2
  else if fwMode d = 0 ∧ (fwOrder.takeWhile (· != k)).any (fun j => (chosenHdr d j).any (fun g => decide (ihSet g < ihSet h))) then 3
  else if fwMode d = 0 ∧ (fwOrder.filter (· != k)).any (fun j => (chosenHdr d j).any (fun g => !compatible h g)) then 4
  else if far then 5
  else 0

/-- A slot EMPTY and its region erased. -/
def fwErase (d : Dev) (k s : Nat) : Dev := setImg (writeRec d k s 0 (slotAct d k s)) k s {}

/-- FW_UPDATE (R523-R525): the checks, and the target slot emptied. -/
def fwUpdate (host : Option Nat) (d : Dev) : Dev :=
  match takeReq d (fun r => r.op == 0x12 && arg r 0 8 != 0x10) with
  | none => d
  | some (r, d1) =>
    let k := arg r 0 8
    if 4 < k then finish (fwRefuse d1 k 7) r.tag 1 0
    else if !fwDrained d1 then finish (fwRefuse d1 k 6) r.tag 2 0
    else match payload d1 r host with
      | ((none, st), d2) => finish d2 r.tag st 0
      | ((some v, _), d2) =>
        let why := fwReason d2 k r.plen (BitVec.ofNat 2048 v)
        if why ≠ 0 then finish (fwRefuse d2 k why) r.tag 2 0
        else
          let s := fwTarget d2 k
          let d3 := setB (fwErase (dropTest d2) k s) FW_STATUS FW_STATUS_BUSY true
          let j : FwJob := { tag := r.tag, comp := k, after := bit r.flags 0, data := v, len := r.plen, tgt := s }
          { d3 with boot := { d3.boot with fwq := d3.boot.fwq ++ [j] } }

/-- A component's image in a slot: TRIAL, newest of its two slots (R525). -/
def fwProgram (d : Dev) (k s v : Nat) : Dev :=
  let h := BitVec.ofNat 2048 v
  let act := max (slotAct d k 0) (slotAct d k 1) + 1
  writeRec (setImg d k s { hdr := h, body := bits v 2048 (8 * ihBodyLen h), good := imgSigned v }) k s 1 act

/-- A module reset that follows a completion record (R502). -/
def resetAfter (d : Dev) (after : Bool) : Dev := if after then moduleReset 16 (flushCq d) else d

/-- FW_UPDATE_DONE (R525): the image is programmed, read back and verified. -/
def fwUpdateDone (d : Dev) : Dev :=
  match d.boot.fwq with
  | [] => d
  | j :: rest =>
    let d1 := setB { d with boot := { d.boot with fwq := rest } } FW_STATUS FW_STATUS_BUSY false
    if imgSigned j.data then resetAfter (finish (fwProgram d1 j.comp j.tgt j.data) j.tag 0 0) j.after
    else finish (fwRefuse d1 j.comp 1) j.tag 2 0

/-- CONFIG_IMAGE_UPDATE (R499): the image goes into the copy not in use, with the next VERSION and its CRC (log 54). -/
def cfgUpdate (host : Option Nat) (d : Dev) : Dev :=
  match takeReq d (fun r => r.op == 0x12 && arg r 0 8 == 0x10) with
  | none => d
  | some (r, d1) =>
    if !fwDrained d1 then finish (fwRefuse d1 0x10 6) r.tag 2 0
    else if r.plen ≠ 64 then finish (fwRefuse d1 0x10 7) r.tag 1 0
    else match payload d1 r host with
      | ((none, st), d2) => finish d2 r.tag st 0
      | ((some v, _), d2) =>
        let c := if getB d2 CFG_STATUS CFG_STATUS_VALID then 1 - getF d2 CFG_STATUS CFG_STATUS_COPY else 0
        let x := insBits v 64 32 (getR d2 CFG_VERSION + 1)
        let y := BitVec.ofNat 512 (insBits x 480 32 (crc32 (bytesOf 60 x)))
        resetAfter (finish { d2 with attic := { d2.attic with cfg := d2.attic.cfg.put c y (BitVec.allOnes 512) } } r.tag 0 0) (bit r.flags 0)

/- ROM recovery (R528, R529) -/

/-- The ROM takes pieces: ROM recovery with the link up, and not in Scrapped. -/
def inRecovery (d : Dev) : Bool := fwMode d == 2 && decide (2 ≤ bootStage d) && lcState d != 4 && !d.boot.off

/-- The 32 KiB piece held in RCV_DATA. -/
def rcvData (d : Dev) : Nat :=
  (d.regs.filter (fun x => decide (RCV_DATA 0 ≤ x.1) && decide (x.1 < RCV_DATA 8192))).foldl
    (fun acc x => acc + x.2.toNat <<< (8 * (x.1 - RCV_DATA 0))) 0

def setRcv (d : Dev) (state next : Nat) : Dev := setF (setF d RCV_STATUS RCV_STATUS_STATE state) RCV_STATUS RCV_STATUS_NEXT next

/-- RCV_PIECE (R528): piece n is programmed; the one that completes LENGTH ends the image. -/
def rcvPiece (n : Nat) (d : Dev) : Dev :=
  if !inRecovery d || n != getF d RCV_STATUS RCV_STATUS_NEXT then d
  else
    let s := fwTarget d 4
    let d1 := if n = 0 then fwErase d 4 s else d
    let v := (if n = 0 then 0 else d1.boot.rcv) + rcvData d <<< (262144 * n)
    let h := BitVec.ofNat 2048 v
    let d2 := { d1 with boot := { d1.boot with rcv := v } }
    let past := decide (regionSize 4 < ihLength h)
    if !past && decide (32768 * (n + 1) < ihLength h) then setRcv d2 1 (n + 1)
    else
      let x := v % 2 ^ (8 * ihLength h)
      let d3 := { d2 with boot := { d2.boot with rcv := 0 } }
      if !past && imgHdrOk 4 h && imgSigned x && decide (fusedArb d3 4 ≤ ihArb h) then setRcv (selectMgmt (fwProgram d3 4 s x)) 2 0
      else setRcv d3 3 0

end Sys2Proof.Machine
end

