-- ==== Sys2Proof/Machine/Host.lean ====
section
/-!
DEFINITION. Machine/Host.lean: the PCIe function's BARs and power states, SMBus and JTAG (R9-R11, R472-R477, R487-R491).
-/
namespace Sys2Proof.Machine

/- BAR0 (R9-R11, R473, R474, R490, R491) -/

/-- The unit of a control block answers: a retired or absent core and a lost tile do not, but that tile's configuration block,
which the management core serves from its copy (R20, R33, R544). -/
def blockThere (d : Dev) (b : Nat) : Bool :=
  if 640 ≤ b ∧ b < 960 then coreThere d (b - 640)
  else if 128 ≤ b ∧ b < 640 then b % 8 == 0 || !baseLost d ((b - 128) / 8)
  else decide (b < 1024)

/-- BAR0 serves a block: all from readiness on, block 12 in ROM recovery, blocks 1 and 13 during a module reset; none in D3hot
or with the link down (R489, R493, R502, R528; log 51). -/
def barServes (d : Dev) (b : Nat) : Bool :=
  blockThere d b && linkOpen d &&
    (isReady d || (fwMode d == 2 && b == 12) || (d.boot.run == some 3 && (b == 1 || b == 13)))

/-- An access BAR0 serves: an aligned word of a block that answers (R474). -/
def barOk (d : Dev) (a size : Nat) : Bool := size == 4 && decide (a % 4 = 0) && barServes d (a / 0x10000)

/-- SHF_BUSY of core c: bit g is 1 where a write that group g accepted, its cycle being over with the window open, has still to land (R159,
R165; log 85). -/
def shfBusyView (d : Dev) (c : Nat) : Nat :=
  let ws := (portOps (core d c)).flatMap (fun p => (p.accs.filter (fun a =>
    a.wr && !a.drop && decide (a.bank < 128) && decide (p.start.getD 0 + a.cyc < clockCycle d))).map (·.bank / 8))
  (List.range 16).foldl (fun v g => if ws.contains g && bit (getF d (SHF_ACCEPT c) SHF_ACCEPT_ACCEPT) g then v + 2 ^ g else v) 0

/-- The value a read of register a shows: WO fields and reserved bits 0, the two windows onto tables by their index registers, a
core's port map two entries to a word (R9, R10, R74, R199, R293). -/
def regView (d : Dev) (a : Nat) : Nat :=
  match regRowAt a with
  | none => 0
  | some r =>
    let t := (a - SLOT_READ 0 0) / 0x80000
    let u := (a - UE_MAP 0 0) / 0x80000
    if r.base = SLOT_READ 0 0 then bits (slotEntry d t (getF d (SLOT_READ_IDX t) SLOT_READ_IDX_IDX)) (8 * (a - SLOT_READ t 0)) 32
    else if r.base = UE_MAP 0 0 then
      let c := getF d (UE_MAP_SEL u) UE_MAP_SEL_CHUNK
      if 18432 ≤ c then 0
      else bits (mapEntry d (2 * u + getF d (UE_MAP_SEL u) UE_MAP_SEL_STACK) c) (8 * (a - UE_MAP u 0)) 32
    else if r.base = CORE_PORT_MAP 0 0 then
      let c := (a - CORE_PORT_MAP 0 0) / 0x10000
      let j := (a - CORE_PORT_MAP 0 0) % 0x10000 / 4
      portEntry d c (2 * j) + portEntry d c (2 * j + 1) <<< 16
    else if r.base = SHF_BUSY 0 then shfBusyView d ((a - SHF_BUSY 0) / 0x10000)
    else r.fields.foldl (fun acc f => if f.2 = .wo then acc else acc + fv f.1.lo f.1.w (getF d a f.1)) 0

/-- What a read of BAR0 returns (R474). -/
def barRead (a size : Nat) (d : Dev) : Nat := if barOk d a size then regView d a else 0

/-- The LOCK bit that governs register a's RWL fields (R11). -/
def lockOf (d : Dev) (a : Nat) : Bool :=
  if a = MOD_ID then getB d MOD_LOCK MOD_LOCK_LOCK
  else match (List.range 128).find? (fun n => CC_SCRUB_CTL (n / 2) (n % 2) == a) with
    | some n => getB d (CC_LOCK (n / 2) (n % 2)) CC_LOCK_LOCK
    | none => match (List.range 32).find? (fun p => GP_CLASS_WT (portDie p) (portHalf p) == a) with
      | some p => getB d (GP_LOCK (portDie p) (portHalf p)) GP_LOCK_LOCK
      | none => false

/-- One field answers a write by its access code (R9). -/
def fieldWrite (lock : Bool) (old v : Nat) (acc : Nat) (f : Fld × Acc) : Nat :=
  let take := insBits acc f.1.lo f.1.w (bits v f.1.lo f.1.w)
  match f.2 with
  | .ro => acc
  | .rw | .wo => take
  | .rwl => if lock then acc else take
  | .w1c => insBits acc f.1.lo f.1.w (bits old f.1.lo f.1.w &&& (2 ^ f.1.w - 1 - bits v f.1.lo f.1.w))

/-- A write of register a's fields by their access codes; reserved bits are discarded (R9, R10). -/
def plainWrite (d : Dev) (a v : Nat) : Dev :=
  match regRowAt a with
  | none => d
  | some r => setR d a (r.fields.foldl (fieldWrite (lockOf d a) (getR d a) v) (getR d a))

/-- A register that holds a LOCK bit. -/
def isLock (a : Nat) : Bool :=
  a == MOD_LOCK || a == FAB_LOCK || (List.range 128).any (fun n => CC_LOCK (n / 2) (n % 2) == a) ||
    (List.range 32).any (fun p => GP_LOCK (portDie p) (portHalf p) == a)

/-- LOCK_WRITE (R11): a LOCK bit can be set and not cleared. -/
def lockWrite (a v : Nat) (d : Dev) : Dev := if barOk d a 4 && isLock a && bit v 0 then setB d a MOD_LOCK_LOCK true else d

/-- A write of the register at a that has a row of its own takes effect f where BAR0 serves it (R474). -/
def barWrite (a : Nat) (f : Dev → Dev) (d : Dev) : Dev := if barOk d a 4 then f d else d

/-- A seed written: the port's or the tile's generator loads it, 1 for 0; a port's injection mode written: a packet it no longer holds
goes on (R362). -/
def seedWrite (d : Dev) (a v : Nat) : Dev :=
  let x : BitVec 32 := if v % 2 ^ 32 = 0 then 1 else BitVec.ofNat 32 v
  let d1 := plainWrite d a v
  match (List.range 32).find? (fun p => GP_INJ_SEED (portDie p) (portHalf p) == a) with
  | some p => modPort d1 p (fun g => { g with inj := x })
  | none => match (List.range 32).find? (fun p => GP_INJ_CTL (portDie p) (portHalf p) == a) with
  | some p => freeHeld d1 p
  | none => match (List.range 64).find? (fun t => MSH_INJ_SEED t == a) with
    | some t => { d1 with meshInj := { d1.meshInj with gen := d1.meshInj.gen.put t x 1 } }
    | none => d1

/-- A word of vector n's entry of the MSI-X table: a message pending for the vector goes out when its mask clears (R486). -/
def msixWord (d : Dev) (n a v : Nat) : Dev :=
  let d1 := plainWrite d a v
  if getBitAt d1 (MSIX_PBA 0) n && !bit (getR d1 (MSIX_TABLE n 3)) 0 && busMaster d1 then msixSend (setBitAt d1 (MSIX_PBA 0) n false) n
  else d1

/-- A word of the MSI-X table, four words an entry. -/
def msixWrite (d : Dev) (a v : Nat) : Dev := msixWord d ((a - MSIX_TABLE 0 0) / 16) a v

/-- A scrub setting: periods of 1 to 48 h; a stack whose period is held keeps it (R240, R470). -/
def scrubWrite (d : Dev) (a n v : Nat) : Dev :=
  let old := getF d a CC_SCRUB_CTL_PERIOD_H
  let p := bits v CC_SCRUB_CTL_PERIOD_H.lo CC_SCRUB_CTL_PERIOD_H.w
  let keep := d.flt.scrubHeld.contains n || p = 0 || decide (48 < p)
  plainWrite d a (if keep then insBits v CC_SCRUB_CTL_PERIOD_H.lo CC_SCRUB_CTL_PERIOD_H.w old else v)

/-- A served write of register a: those with an effect of their own, the rest by their access codes. -/
def regWrite (a v : Nat) (d : Dev) : Dev :=
  if isLock a then (if bit v 0 then setB d a MOD_LOCK_LOCK true else d)
  else if a = HIF_CQ_CTL then cqCtlWrite v d
  else if a = HIF_CQ_BASE_LO ∨ a = HIF_CQ_BASE_HI then (if getB d HIF_CQ_CTL HIF_CQ_CTL_EN then d else plainWrite d a v)
  else if a = PWR_CAP_HOST then capWrite PWR_CAP_HOST PWR_CAP_HOST_CAP (bits v 0 11) d
  else if a = FREQ_MAX then freqMaxWrite (bits v 0 7) d
  else if a = FLT_TEST_CTL then testCtlWrite v d
  else if FLT_WIN 0 ≤ a ∧ a < FLT_WIN 256 then fltWinWrite ((a - FLT_WIN 0) / 4) v d
  else if a = RCV_CTL then (if bit v 16 then rcvPiece (bits v 0 16) d else d)
  else if RCV_DATA 0 ≤ a ∧ a < RCV_DATA 8192 then (if inRecovery d then plainWrite d a v else d)
  else if MSIX_TABLE 0 0 ≤ a ∧ a < MSIX_TABLE 64 0 then msixWrite d a v
  else match (List.range 128).find? (fun n => CC_SCRUB_CTL (n / 2) (n % 2) == a) with
    | some n => scrubWrite d a n v
    | none => seedWrite d a v

/-- REGISTER_WRITE (R9, R474): a write of `size` bytes to byte a of BAR0. -/
def registerWrite (a size v : Nat) (d : Dev) : Dev := if barOk d a size then regWrite a v d else d

/-- INJ_SEED_WRITE (R362). -/
def injSeedWrite (a v : Nat) (d : Dev) : Dev :=
  let seeds := (List.range 32).map (fun p => GP_INJ_SEED (portDie p) (portHalf p)) ++ (List.range 64).map MSH_INJ_SEED
  if barOk d a 4 && seeds.contains a then seedWrite d a v else d

/- BAR2 (R473-R475, R478) -/

/-- The debug window's local address of byte a of BAR2. -/
def debugAddr (d : Dev) (a : Nat) : Nat := getF d HIF_DBG_BASE HIF_DBG_BASE_BASE * 2 ^ 29 + (a - 0x20000000)

/-- One row's part read through the debug window: m bytes at local address l (R33, R474, R475). -/
def debugPart (d : Dev) (l m : Nat) : Nat × Dev :=
  let r := l / 128 * 128
  if !hostLeads d r false then (0, d)
  else
    let x := unitRead d r { tag := 0 }
    (match x.1 with
      | some row => bits row.data.toNat (8 * (l % 128)) (8 * m)
      | none => 0, quietly d x.2)

/-- n bytes read through the debug window, row by row. -/
def debugBytes (l n : Nat) : Nat → Dev → Nat × Dev
  | 0, d => (0, d)
  | k + 1, d =>
    let m := min n (128 - l % 128)
    if n = 0 then (0, d)
    else
      let r := debugPart d l m
      let rs := debugBytes (l + m) (n - m) k r.2
      (r.1 + rs.1 <<< (8 * m), rs.2)

/-- The log window's bytes (R454). -/
def logBytes (d : Dev) (o n : Nat) : Nat :=
  let f := o / 64
  let v := (List.range (n / 64 + 2)).foldl (fun acc i => acc + (d.flt.log.get ((f + i) % 8192) 0).toNat <<< (512 * i)) 0
  bits v (8 * (o % 64)) (8 * n)

/-- The shelf row at a row-aligned module-local address. -/
def shelfAt (l : Nat) : Option (Nat × Nat) :=
  match regionOf l with
  | .shelf c ofs => some (c, ofs / 128 * 128)
  | _ => none

/-- Row i of the host read x, which starts in row l: a shelf row is asked for, any other is read at once (R147). -/
def hostRow (l : Nat) (st : HostRd × Dev) (i : Nat) : HostRd × Dev :=
  let x := st.1; let d := st.2
  match shelfAt (l + 128 * i) with
  | some s => ({ x with left := x.left + 1 }, { d with hostHold := d.hostHold ++ [{ core := s.1, ofs := s.2, wr := false, rd := some x.no }] })
  | none =>
    let r := debugPart d (l + 128 * i) 128
    ({ x with got := x.got.put i (BitVec.ofNat 1024 r.1) 0 }, r.2)

/-- A read of n bytes from module-local address l through the debug window; one that takes in shelf rows is answered when the last
comes back, at most 16 rows being on their way (R147). -/
def readWindow (l n : Nat) (d : Dev) : Dev :=
  let is := List.range ((l % 128 + n + 127) / 128)
  if is.any (fun i => (shelfAt (l / 128 * 128 + 128 * i)).isSome) then
    let st := is.foldl (hostRow (l / 128 * 128)) ({ no := d.hostNo, addr := l, len := n }, { d with hostNo := d.hostNo + 1 })
    hostFeed 16 { st.2 with hostRds := st.2.hostRds ++ [st.1] }
  else
    let r := debugBytes l n (n / 128 + 2) d
    answerRead r.2 r.1

/-- DEBUG_READ (R474, R475): n bytes from byte a of BAR2: pantry, log window, debug window (log 52). -/
def debugRead (a n : Nat) (d : Dev) : Dev :=
  if !isReady d || !linkOpen d then answerRead d 0
  else if a < 0x40000 then answerRead d (bytesAt d.pantry a (min n (0x40000 - a)))
  else if 0x100000 ≤ a ∧ a < 0x180000 then answerRead d (logBytes d (a - 0x100000) (min n (0x180000 - a)))
  else if 0x20000000 ≤ a ∧ a < 0x40000000 then readWindow (debugAddr d a) n d
  else answerRead d 0

/-- Whole rows written through the debug window (R33, R237, R475; log 53). -/
def debugRows (l v : Nat) : Nat → Dev → Dev
  | 0, d => d
  | k + 1, d =>
    let d1 := match regionOf l with
      | .shelf c ofs =>
        hostFeed 1 { d with hostHold := d.hostHold ++ [{ core := c, ofs := ofs, wr := true, row := { data := BitVec.ofNat 1024 v } }] }
      | _ => if hostLeads d l true then (unitWrite d l { data := BitVec.ofNat 1024 v } { tag := 0 }).2 else d
    debugRows (l + 128) (v >>> 1024) k d1

/-- DEBUG_WRITE (R474, R475, R478): n bytes to byte a of BAR2: pantry slots, or rows through the debug window (log 52). -/
def debugWrite (a n v : Nat) (d : Dev) : Dev :=
  if !isReady d || !linkOpen d then d
  else if a < 0x40000 then { d with pantry := putBytes d.pantry a (min n (0x40000 - a)) v }
  else if 0x20000000 ≤ a ∧ a < 0x40000000 ∧ a % 128 = 0 then debugRows (debugAddr d a) v (n / 128) d
  else d

/- PCIe power states and errors (R476, R477) -/

/-- D3HOT_ENTRY (R476). -/
def d3hotEntry (d : Dev) : Dev := if isReady d && linkOpen d then setB d HIF_STATUS HIF_STATUS_D3HOT true else d

/-- D0_RETURN (R476): the device resumes at the next stop tick. -/
def d0Return (d : Dev) : Dev :=
  if getB d HIF_STATUS HIF_STATUS_D3HOT && !getB d SB_JTAG SB_JTAG_PINS then
    setB { d with boot := { d.boot with d0wait := true } } HIF_STATUS HIF_STATUS_D3HOT false
  else d

/-- PCIE_ERROR (R477): error kind k of Table "AER use", counted over its rows from 0, is reported through AER. -/
def pcieError (k : Nat) (d : Dev) : Dev :=
  if 15 ≤ k ∨ d.boot.off then d else { d with aer := d.aer ||| 2 ^ k, out := d.out ++ [.aer k] }

/- SMBus (R487, R488; log 55) -/

/-- CRC-8 of the SMBus packet error code: x^8 + x^2 + x + 1. -/
def crc8 (bs : List Nat) : Nat :=
  bs.foldl (fun c b => (List.range 8).foldl (fun c _ => (if 128 ≤ c then (2 * c) ^^^ 0x07 else 2 * c) % 256) (c ^^^ b)) 0

def smAddr (d : Dev) : Nat := 2 * getF d SB_SMB SB_SMB_ADDR

/-- The device answers over SMBus: from stage 3 on; the ROM answers STATUS and ID in ROM recovery and beyond recovery (R487, R528,
R529). -/
def smFull (d : Dev) : Bool := !d.boot.off && decide (3 ≤ bootStage d) && fwMode d != 2 && !d.boot.fuseBad
def smRom (d : Dev) : Bool := !d.boot.off && decide (1 ≤ bootStage d) && (fwMode d == 2 || d.boot.fuseBad)

/-- A read of command `code` answered with bytes and their PEC. -/
def smAnswer (d : Dev) (code : Nat) (bs : List Nat) : Dev :=
  let pec := crc8 ([smAddr d, code, smAddr d + 1] ++ bs)
  { d with out := d.out ++ [.smbus ((bs ++ [pec]).map (BitVec.ofNat 8))] }

/-- A read of a word; NACK from the ROM. -/
def smWord (code v : Nat) (d : Dev) : Dev :=
  if smFull d then smAnswer d code (bytesOf 2 v) else if smRom d then { d with out := d.out ++ [.smbusNack] } else d

/-- A block read: the count, then the bytes. -/
def smBlock (code : Nat) (bs : List Nat) (d : Dev) : Dev :=
  if smFull d then smAnswer d code (bs.length :: bs) else if smRom d then { d with out := d.out ++ [.smbusNack] } else d

/-- A write of bytes with its PEC takes effect f; one without a valid PEC is ignored. -/
def smWrite (code : Nat) (bs : List Nat) (pec : Nat) (f : Dev → Dev) (d : Dev) : Dev :=
  if smFull d then (if pec = crc8 ([smAddr d, code] ++ bs) then f d else d)
  else if smRom d then { d with out := d.out ++ [.smbusNack] } else d

/-- STATUS. -/
def smStatus (d : Dev) : Dev :=
  let v := b2n (isReady d) + fv 1 3 (lcState d) + fv 4 2 (getF d PWR_STATUS PWR_STATUS_SUPPLY) +
    fv 6 1 (getF d PWR_STATUS PWR_STATUS_CAP_UNMET) + fv 7 1 (b2n (d.alert != 0)) + fv 8 2 (pState d)
  if smFull d || smRom d then smAnswer d 0x01 (bytesOf 2 v) else d

/-- ALERT: the bits are cleared by the read, SMBALERT# with them. -/
def smAlert (d : Dev) : Dev :=
  let d1 := smWord 0x02 d.alert d
  if smFull d then setB { d1 with alert := 0 } SB_SMB SB_SMB_ALERT false else d1

/-- ALERT_RESPONSE: while SMBALERT# is asserted the device gives its address. -/
def smAlertResponse (d : Dev) : Dev :=
  if smFull d && getB d SB_SMB SB_SMB_ALERT then
    { d with out := d.out ++ [.smbus ([smAddr d, crc8 [0x19, smAddr d]].map (BitVec.ofNat 8))] }
  else d

def smVin (d : Dev) : Dev := smWord 0x10 (getR d PWR_IN_V) d
def smPin (d : Dev) : Dev := smWord 0x11 (getR d PWR_IN_P) d
def smPclass (d : Dev) : Dev := smBlock 0x12 (bytesOf 4 (getR d PWR_CLASS_0) ++ bytesOf 4 (getR d PWR_CLASS_1)) d
def smTmax (d : Dev) : Dev := smWord 0x13 (getR d THM_MAX % 2 ^ 14) d
def smTtile (d : Dev) : Dev := smBlock 0x14 ((List.range 64).map (fun t => min 255 (d.heat.junction.get t 0))) d
def smTstack (d : Dev) : Dev := smBlock 0x15 ((List.range 128).map (fun n => getF d (CC_TEMP (n / 2) (n % 2)) CC_TEMP_TEMP_C)) d
def smCapRead (d : Dev) : Dev := smWord 0x20 (getR d PWR_CAP_BMC) d

/-- CAP_WRITE (R432). -/
def smCapWrite (v pec : Nat) (d : Dev) : Dev :=
  smWrite 0x20 (bytesOf 2 v) pec (capWrite PWR_CAP_BMC PWR_CAP_BMC_CAP (v % 2 ^ 16)) d

def smFreq (d : Dev) : Dev := smWord 0x21 (getR d FREQ_STATUS % 2 ^ 16) d

/-- STATE_REQ (R507). -/
def smStateReq (target pec : Nat) (d : Dev) : Dev := smWrite 0x30 [target] pec (fun d => if isReady d then powerSmbus target d else d) d

/-- RESET_REQ (R487, R500, R501): the upper byte must be 0xA5. -/
def smResetReq (code key pec : Nat) (d : Dev) : Dev :=
  smWrite 0x31 [code, key % 256] pec (fun d =>
    if key % 256 ≠ 0xA5 then d
    else if code = 1 then (if absorbed d 1 then d else powerOff 8 d)
    else moduleReset 8 d) d

/-- ID. -/
def smId (d : Dev) : Dev :=
  let id := if d.boot.fuseBad then 0 else Config.deviceId
  let name := ascii "OZW2-128-A"
  let bs := bytesOf 8 id ++ name ++ List.replicate (16 - name.length) 0 ++
    [getF d FAB_LEVEL FAB_LEVEL_LINK_LEVEL, getF d FAB_LEVEL FAB_LEVEL_NUM_LEVEL, getF d SEC_LC SEC_LC_LC_FUSE] ++ List.replicate 5 0
  if smFull d || smRom d then smAnswer d 0x40 (bs.length :: bs) else d

/-- PLOG_SEL: a record of the 32,768 of the persistent log. -/
def smPlogSel (v pec : Nat) (d : Dev) : Dev :=
  smWrite 0x41 (bytesOf 2 v) pec (fun d => { d with boot := { d.boot with plogSel := v % 32768 } }) d

/-- PLOG: the selected record; erased flash where none was copied. -/
def smPlog (d : Dev) : Dev := smBlock 0x42 (bytesOf 64 ((d.flt.plog.find d.boot.plogSel).getD (BitVec.allOnes 512)).toNat) d

/-- UNDEFINED_COMMAND_CODE: NACK. -/
def smUndefined (d : Dev) : Dev := if smFull d || smRom d then { d with out := d.out ++ [.smbusNack] } else d

/- JTAG (R489; log 46) -/

/-- No context is resident. -/
def noneResident (d : Dev) : Bool := d.res.fg.isNone && d.res.fillers.isEmpty && !d.flt.test

/-- An instruction is honoured in the present life-cycle state (Table "JTAG scope"). -/
def jtagAllows (d : Dev) (code : Nat) : Bool :=
  let lc := lcState d
  if code = 0xFF ∨ code = 0x01 then true
  else if code = 0x02 then lc != 4
  else if code = 0x00 ∨ code = 0x03 ∨ code = 0x04 then lc == 0 || (lc != 4 && noneResident d)
  else decide (0x40 ≤ code) && decide (code < 0x50) && (lc == 0 || lc == 3)

/-- The pins are driven: the links are down while they are (R489). -/
def pinsOn (d : Dev) : Dev :=
  if getB d SB_JTAG SB_JTAG_PINS then d
  else
    let d1 := setB { d with jtag := { d.jtag with link := getF d HIF_STATUS ⟨1, 7⟩ } } SB_JTAG SB_JTAG_PINS true
    (List.range 32).foldl (fun d p => if portUp d p then portDown d p else d) (setF d1 HIF_STATUS ⟨1, 7⟩ 0)

/-- The pins are released: the PCIe link returns; the ports train again (R333). -/
def pinsOff (d : Dev) : Dev :=
  if getB d SB_JTAG SB_JTAG_PINS then setF (setB d SB_JTAG SB_JTAG_PINS false) HIF_STATUS ⟨1, 7⟩ d.jtag.link else d

/-- An instruction comes into force; one not permitted runs as BYPASS. -/
def jtagLoad (code : Nat) (d : Dev) : Dev :=
  if d.boot.off || !getB d SB_JTAG SB_JTAG_SESSION then d
  else
    let c := if jtagAllows d code then code else 0xFF
    let pins := c == 0x00 || c == 0x03 || c == 0x04
    let d1 := if pins then pinsOn d else pinsOff d
    setB { d1 with jtag := { d1.jtag with ir := c } } SB_JTAG SB_JTAG_DEBUG (decide (0x40 ≤ c) && decide (c < 0x50))

/-- IDCODE: the device's code is shifted out. -/
def jtagIdcode (d : Dev) : Dev :=
  if d.boot.off || !getB d SB_JTAG SB_JTAG_SESSION then d
  else
    let d1 := jtagLoad 0x01 d
    { d1 with out := d1.out ++ [.tdo 0x10A2056B] }

/-- Internal debug instruction 0x40 + n. -/
def jtagDebug (n : Nat) (d : Dev) : Dev := jtagLoad (0x40 + n % 16) d

/-- Test-Logic-Reset: the session ends, and any pin-driving instruction with it. -/
def tlrEntry (d : Dev) : Dev :=
  if d.boot.off then d
  else
    let d1 := pinsOff d
    setB (setB { d1 with jtag := { d1.jtag with ir := 0x01 } } SB_JTAG SB_JTAG_SESSION false) SB_JTAG SB_JTAG_DEBUG false

/-- TEST_LOGIC_RESET_EXIT: a session is active. -/
def tlrExit (d : Dev) : Dev := if d.boot.off then d else setB d SB_JTAG SB_JTAG_SESSION true

end Sys2Proof.Machine
end

