-- ==== Sys2Proof/Machine/ExecFw.lean ====
section
/-!
DEFINITION. Machine/ExecFw.lean: firmware and the configuration image (R496, R523-R530). One meaning for each command, over the operations of its chapter.
-/
namespace Sys2Proof.Machine

/-- FW_UPDATE (R525): Pantry request writing a firmware image into the target slot. -/
def execFwUpdate (host : Option Nat) (s : State) : Answer := act s (fwUpdate host)

/-- CONFIG_IMAGE_UPDATE (R499): FW_UPDATE of component 0x10 writing the configuration image copy not in use. -/
def execConfigImageUpdate (host : Option Nat) (s : State) : Answer := act s (cfgUpdate host)

/-- FW_UPDATE_DONE (R525): A firmware update's programming and verification complete, marking TRIAL or failing. -/
def execFwUpdateDone (s : State) : Answer := act s (fwUpdateDone)

/-- RCV_PIECE (R528): In ROM recovery, writing RCV_CTL with GO programs a 32 KiB piece. -/
def execRcvPiece (n : Nat) (s : State) : Answer := act s (barWrite RCV_CTL (rcvPiece n))

end Sys2Proof.Machine
end

