-- ==== Sys2Proof/Machine/Keys.lean ====
section
/-!
DEFINITION. Machine/Keys.lean: DOE objects: certificates, attestation reports, key release and life-cycle changes (R398-R405,
R415-R417).
-/
namespace Sys2Proof.Machine

/- DOE objects (R403; log 50) -/

/-- A DOE object of the function's own vendor: two header dwords and its payload of n bytes. -/
def doeObj (type n v : Nat) : List Byte :=
  (bytesOf (8 + n) (fv 0 16 0x1FA7 + fv 16 8 type + fv 32 18 (ceilDiv (8 + n) 4) + (v % 2 ^ (8 * n)) <<< 64)).map (BitVec.ofNat 8)

/-- A DOE object answered. -/
def doeSend (d : Dev) (bytes : List Byte) : Dev := { d with out := d.out ++ [.doe bytes] }

/-- The 12 B answer whose third dword is a status code. -/
def doeStatus (d : Dev) (type st : Nat) : Dev := doeSend d (doeObj type 4 st)

/-- The mailbox takes a request: its management core does not restart and no request is held (R403). -/
def doeFree (d : Dev) : Bool := !d.boot.restart && d.doeHeld.isNone

/-- A request reaches the mailbox: configuration space answers from readiness on, D3hot included, while the PCIe link is up (R472, R476,
R489). -/
def doeUp (d : Dev) : Bool := isReady d && !getB d SB_JTAG SB_JTAG_PINS

/-- A request reaches the mailbox, and the mailbox takes it (R403, R472). -/
def doeOn (d : Dev) : Bool := doeUp d && doeFree d

/-- A request of a type for which the mailbox answers f, or busy. No request arrives before the module is ready (R472). -/
def doeReq (d : Dev) (busy f : Dev → Dev) : Dev := if doeOn d then f d else if doeUp d then busy d else d

/-- A request for an object of the device's own vendor (R403). -/
def doeOwn (d : Dev) (type : Nat) (f : Dev → Dev) : Dev := doeReq d (doeStatus · type 8) f

/-- A Discovery response (log 50). -/
def discoverySend (d : Dev) (v : Nat) : Dev := doeSend d ((bytesOf 12 (1 + fv 32 18 3 + fv 64 32 v)).map (BitVec.ofNat 8))

/-- DOE_DISCOVERY (log 50): the object at an index and the next index; 0 is the discovery object itself. -/
def doeDiscovery (index : Nat) (d : Dev) : Dev := doeReq d (discoverySend · 8) (fun d =>
  let i := index % 256
  let v := if i = 0 then fv 0 16 1 + fv 24 8 1
    else if i < 5 then fv 0 16 0x1FA7 + fv 16 8 (0x7F + i) + fv 24 8 (if i = 4 then 0 else i + 1)
    else 0xFFFF
  discoverySend d v)

/-- DOE_UNKNOWN_TYPE (R403): an unknown type, or a malformed object, is answered with status 1. -/
def doeUnknownType (type : Nat) (d : Dev) : Dev := doeOwn d type (doeStatus · type 1)

/- Certificates (R400) -/

/-- The identity's public keys: Ed25519, ML-DSA-65 (R398). -/
def idPublic (d : Dev) : Nat × Nat :=
  match d.boot.ident with
  | some k => publicOf k
  | none => (0, 0)

/-- The keys that sign the certificate at index i: the issuing key's, or the root's that certifies it. -/
def certSigner (i : Nat) : Nat × Nat := if i = 0 then Config.issuerKeys else Config.rootKeys (b2n Config.certRoot)

/-- Bytes 0 to 2,055 of the certificate at index i: the device's, or the issuing key's. -/
def certBody (d : Dev) (i : Nat) : Nat :=
  let k := if i = 0 then idPublic d else publicOf Config.issuerKeys
  1 + fv 32 32 5432 + fv 64 64 (if i = 0 then Config.deviceId else 0) + fv 128 256 k.1 + fv 384 15616 k.2 + fv 16000 64 (Config.certTime i) +
    fv 16064 384 (keyDigest (publicOf (certSigner i)))

/-- The certificate at index i, with its issuer's dual signature. -/
def certOf (d : Dev) (i : Nat) : Nat :=
  let s := dualSign (certSigner i) (bytesOf 2056 (certBody d i)) (Config.certRnd i)
  certBody d i + fv 16448 512 s.1 + fv 16960 26472 s.2

/-- Blank has no identity and Scrapped refuses it (R415). -/
def noIdentity (d : Dev) : Bool := lcState d == 0 || lcState d == 4

/-- GET_CERT (R400, R403). -/
def getCert (i : Nat) (d : Dev) : Dev := doeOwn d 0x80 (fun d =>
  if 1 < i then doeStatus d 0x80 1
  else if noIdentity d then doeStatus d 0x80 3
  else doeSend d (doeObj 0x80 5432 (certOf d i)))

/- The attestation report (R401) -/

/-- The digest of component k's running image; open where none runs (R517; log 8). -/
def fwDigest (d : Dev) (k : Nat) : Nat :=
  match chosenSlot d k with
  | some s =>
    let i := slotImg d k s
    natOfBytes (sha384 (bytesOf 256 i.hdr.toNat ++ bytesOf (ihBodyLen i.hdr) i.body))
  | none => Config.freeValue (d.freshN + k) % 2 ^ 384

/-- The digest over a context's window descriptors and its chunk ownership bitmap. -/
def layoutDigest (d : Dev) (n : Nat) : Nat :=
  let wins := (openWins d (fun w => wCtx w == n)).flatMap (fun w => bytesOf 64 (winDesc d w))
  let map := (heldChunks d n).foldl (fun acc x => acc ||| 2 ^ (18432 * x.1 + x.2)) 0
  natOfBytes (sha384 (wins ++ bytesOf 294912 map))

/-- The report of context n for a nonce, without its signature: bytes 0 to 1,807. -/
def reportBody (d : Dev) (n nonce : Nat) : Nat :=
  let at_ := fun (o w v : Nat) => fv (8 * o) (8 * w) v
  let k := keysOf d n
  let id := idPublic d
  let eph := if ctxState d n = 1 then k.eph else none
  let flags := ctxBits d n 1 1 + fv 1 1 (ctxBits d n 4 1) + fv 2 1 (ctxBits d n 2 1) + fv 3 1 (ctxBits d n 3 1)
  at_ 0 4 1 + at_ 4 4 5184 + at_ 8 8 Config.deviceId + at_ 16 48 (keyDigest id) +
    at_ 64 32 nonce + at_ 96 4 (lcState d + fv 8 8 (getF d SEC_LC SEC_LC_LC_FUSE)) +
    at_ 100 4 (getF d SEC_LC SEC_LC_DEBUG_OPEN + fv 1 1 (b2n (anyInject d)) + fv 2 1 (getF d SB_JTAG SB_JTAG_SESSION)) +
    (List.range 5).foldl (fun acc i => acc + at_ (104 + i) 1 (fusedArb d i)) 0 + at_ 112 2 (getR d FAB_LEVEL) + at_ 116 2 (myMod d) +
    at_ 120 4 (n + fv 16 4 flags + fv 20 3 (ctxState d n)) + at_ 124 4 (getR d FAB_MEPOCH) + at_ 128 8 (ctxBits d n 128 64) +
    at_ 136 8 (epoch d) + (List.range 5).foldl (fun acc i => acc + at_ (144 + 48 * i) 48 (fwDigest d i)) 0 +
    at_ 384 48 (natOfBytes (sha384 (bytesOf 64 (getWords d (CTX_DESC n 0) 16)))) + at_ 432 48 (layoutDigest d n) +
    at_ 480 48 k.pkgLog + at_ 528 4 k.pkgCount + at_ 536 48 k.manLog + at_ 584 4 k.manCount +
    at_ 592 32 ((eph.map (fun e => x25519Public e.1)).getD 0) + at_ 624 1184 ((eph.map (fun e => mlkemPublic e.2)).getD 0)

/-- The report with its dual signature (R399, R401); the randomness of its second part is drawn (log 12). -/
def reportOf (d : Dev) (n nonce : Nat) : Nat :=
  let b := reportBody d n nonce
  let s := match d.boot.ident with
    | some k => dualSign k (bytesOf 1808 b) (Config.freeValue (d.freshN + 5))
    | none => (0, 0)
  b + fv 14464 512 s.1 + fv 14976 26472 s.2

/-- The report of context n goes out, or what stands against it (R401, R403): it is then the context's latest. -/
def sendReport (n nonce : Nat) (d : Dev) : Dev :=
  if noIdentity d then doeStatus d 0x81 3
  else if ctxBits d n 0 1 = 0 then doeStatus d 0x81 2
  else
    let r := reportOf d n nonce
    let d1 := setKeys d n { keysOf d n with report := some (natOfBytes (sha384 (bytesOf 5184 r))) }
    doeSend { d1 with freshN := d1.freshN + 6 } (doeObj 0x81 5184 r)

/-- Tags of the pantry requests that have been accepted and have not taken effect, a STEP's not among them (R401; log 110). -/
def unapplied (d : Dev) : List Nat := ((d.pan.taken.filter (fun r => r.op != 8)).map (·.tag)) ++ d.pan.works.map (·.tag)

/-- GET_REPORT (R401, R403): the report is taken once the requests accepted before it have taken effect. -/
def getReport (n nonce : Nat) (d : Dev) : Dev := doeOwn d 0x81 (fun d =>
  if 16384 ≤ n then doeStatus d 0x81 1
  else if unapplied d = [] then sendReport n nonce d
  else { d with doeHeld := some { ctx := n, nonce := nonce, tags := unapplied d } })

/-- The report held goes out once the requests it waits for have taken effect (R401; log 110). -/
def reportDue (d : Dev) : Dev :=
  match d.doeHeld with
  | none => d
  | some x => if d.boot.restart ∨ x.tags.any (unapplied d).contains then d else sendReport x.ctx x.nonce { d with doeHeld := none }

/- Key release (R404, R405) -/

/-- A release fails: it counts, and after the third a new pair is drawn. -/
def releaseFail (d : Dev) (n : Nat) : Dev :=
  let k := keysOf d n
  let d1 := satF d SEC_REL_FAIL SEC_REL_FAIL_COUNT
  doeStatus (if 3 ≤ k.fails + 1 then drawEph d1 n else setKeys d1 n { k with fails := k.fails + 1 }) 0x82 5

/-- The key-encryption key of a release (R405). -/
def releaseKek (v ssX ssK ephPub : Nat) : List Nat :=
  (sha384 (ascii "OZW2 KEK v1" ++ bytesOf 32 ssX ++ bytesOf 32 ssK ++ bytesOf 1088 (bits v 704 8704) ++ bytesOf 32 ephPub ++
    bytesOf 32 (bits v 448 256) ++ bytesOf 48 (bits v 64 384))).take 32

/-- An accepted release: the context's keys, its link slot, a fresh Cellar key, STATE 2. -/
def releaseKeys (d : Dev) (n v keys : Nat) : Dev :=
  let lkey := bits v 9416 8
  let f := fresh d
  let d1 := { f.2 with keyTable := f.2.keyTable.put (ctxTag d n) (BitVec.ofNat 512 f.1) 0 }
  let d2 := setKeys d1 n { keysOf d1 n with
    eph := none
    report := none
    fails := 0
    kw := some (BitVec.ofNat 256 keys)
    kl := BitVec.ofNat 256 (keys >>> 256)
    ckpt := bit v 9408
    blobs := [] }
  doeStatus (setCtxField (setBitAt (setCtxField d2 n 16 8 lkey) (SEC_LKEYS 0) lkey true) n 5 3 2) 0x82 0

/-- KEY_RELEASE (R405) of a payload of len bytes. -/
def keyRelease (v len : Nat) (d : Dev) : Dev := doeOwn d 0x82 (fun d =>
  let n := bits v 32 32
  if len ≠ 1264 ∨ bits v 0 32 ≠ 1 ∨ 16384 ≤ n ∨ bits v 9409 7 ≠ 0 ∨ bits v 9424 48 ≠ 0 then doeStatus d 0x82 1
  else if ctxBits d n 0 1 = 0 ∨ ctxState d n ≠ 1 then doeStatus d 0x82 2
  else
    let k := keysOf d n
    match k.eph with
    | none => doeStatus d 0x82 2
    | some e =>
      if k.report ≠ some (bits v 64 384) then doeStatus d 0x82 4
      else
        let ssX := x25519 e.1 (bits v 448 256)
        let kek := releaseKek v ssX (mlkemDecaps e.2 (bits v 704 8704)) (x25519Public e.1)
        if ssX = 0 then releaseFail d n
        else match gcmOpen kek (List.replicate 12 0) (bytesOf 1184 v) (bytesOf 64 (v >>> 9472)) (bytesOf 16 (v >>> 9984)) with
          | none => releaseFail d n
          | some keys =>
            let lkey := bits v 9416 8
            if lkey = 0 ∨ getBitAt d (SEC_LKEYS 0) lkey then doeStatus d 0x82 6
            else releaseKeys d n v (natOfBytes keys))

/- Life cycle (R415-R417) -/

/-- The state that LC_FUSE gives. -/
def lcOf (fuse : Nat) : Nat :=
  if bit fuse 7 then 4
  else if bits fuse 0 7 = 0 then 0
  else
    let h := Nat.log2 (bits fuse 0 7)
    if h = 0 then 1 else if h % 2 = 1 then 2 else 3

/-- The fuse a transition blows and whether it needs a token; none where it is not allowed. -/
def lcStep (fuse tgt : Nat) : Option (Nat × Bool) :=
  let h := Nat.log2 (bits fuse 0 7)
  match lcOf fuse, tgt with
  | 0, 1 => some (0, true)
  | 1, 2 => some (1, false)
  | 2, 3 => some (h + 1, false)
  | 3, 2 => if h < 6 then some (h + 1, true) else none
  | 3, 4 => some (7, false)
  | 1, 4 | 2, 4 => some (7, true)
  | _, _ => none

/-- A token is valid for this device and change (R416; log 12). -/
def tokenOk (d : Dev) (tgt v : Nat) : Bool :=
  bits v 0 32 == 1 && bits v 32 32 == tgt && bits v 64 64 == Config.deviceId && bits v 128 32 == getF d SEC_LC SEC_LC_LC_FUSE &&
    bits v 160 96 == 0 &&
    dualOk Config.yonavosEd Config.yonavosMldsa (bytesOf 32 v) (bits v 256 512) (bits v 768 26472)

/-- The fuses of a transition are blown (R415): LC_FUSE, and the unique device secret at provisioning and scrapping. -/
def blowLc (d : Dev) (b : Nat) : Dev :=
  let fuse := getF d SEC_LC SEC_LC_LC_FUSE ||| 2 ^ b
  let st := lcOf fuse
  let d1 := setF (setF (setF d SEC_LC SEC_LC_LC_FUSE fuse) SEC_LC SEC_LC_STATE st) SEC_LC SEC_LC_DEBUG_OPEN (b2n (st == 0 || st == 3))
  let f := fresh d1
  let d2 := if b = 0 then { f.2 with boot := { f.2.boot with uds := some (f.1 % 2 ^ 256) } }
    else if b = 7 then { d1 with boot := { d1.boot with uds := some (2 ^ 256 - 1) } } else d1
  setB d2 SB_JTAG SB_JTAG_DEBUG (getB d2 SB_JTAG SB_JTAG_DEBUG && getB d2 SEC_LC SEC_LC_DEBUG_OPEN)

/-- LC_CHANGE (R417) of a payload of len bytes: the target state, and a token after it. The answer comes first, then the fuses, then
a module reset that derives the identity keys again. -/
def lcChange (v len : Nat) (d : Dev) : Dev := doeOwn d 0x83 (fun d =>
  let tgt := bits v 0 32
  if (len ≠ 4 ∧ len < 3409) ∨ 4 < tgt then doeStatus d 0x83 1
  else match lcStep (getF d SEC_LC SEC_LC_LC_FUSE) tgt with
    | none => doeStatus d 0x83 3
    | some (b, token) =>
      if token ∧ (len = 4 ∨ !tokenOk d tgt (v >>> 32)) then doeStatus d 0x83 7
      else
        let d1 := blowLc (doeStatus d 0x83 0) b
        moduleReset 32 { d1 with boot := { d1.boot with rekey := true } })

end Sys2Proof.Machine
end

