-- ==== Sys2Proof/Machine/ExecHost.lean ====
section
/-!
DEFINITION. Machine/ExecHost.lean: BAR0, BAR2, the completion ring and the PCIe function (R9-R11, R362, R432, R438, R471-R486). One meaning for each command, over the operations of its chapter.
-/
namespace Sys2Proof.Machine

/-- CQ_RECORD_WRITE (R484): A queued completion record is written to the host ring when room exists, with its MSI-X message. -/
def execCqRecordWrite (msgs : Bool) (s : State) : Answer := act s (fun d => reportDue (cqRecordWrite msgs d))

/-- CQ_HEAD_WRITE (R484): Software writes HIF_CQ_HEAD, returning ring space. -/
def execCqHeadWrite (v : Nat) (s : State) : Answer := act s (barWrite HIF_CQ_HEAD (cqHeadWrite v))

/-- CQ_ENABLE (R484): Setting HIF_CQ_CTL.EN resets ring indices and phase. -/
def execCqEnable (s : State) : Answer := act s (barWrite HIF_CQ_CTL cqEnable)

/-- DEBUG_READ (R475): Host read through the BAR2 debug window. -/
def execDebugRead (a n : Nat) (s : State) : Answer := act s (debugRead a n)

/-- DEBUG_WRITE (R475): Host write through the BAR2 debug window. -/
def execDebugWrite (a n v : Nat) (s : State) : Answer := act s (debugWrite a n v)

/-- REGISTER_WRITE (R9): A write to a register with no row of its own acts by its access code. -/
def execRegisterWrite (a size v : Nat) (s : State) : Answer := act s (registerWrite a size v)

/-- LOCK_WRITE (R11): Setting a block's LOCK bit freezes its RWL fields until a reset. -/
def execLockWrite (a v : Nat) (s : State) : Answer := act s (lockWrite a v)

/-- INJ_SEED_WRITE (R362): Writing an injection seed reloads the generator. -/
def execInjSeedWrite (a v : Nat) (s : State) : Answer := act s (injSeedWrite a v)

/-- HOST_CAP_WRITE (R432): Writing PWR_CAP_HOST changes P_cap, fast-trip current and the predicted cap ceiling. -/
def execHostCapWrite (v : Nat) (s : State) : Answer := act s (barWrite PWR_CAP_HOST (capWrite PWR_CAP_HOST PWR_CAP_HOST_CAP v))

/-- FREQ_MAX_WRITE (R438): Writing FREQ_MAX changes the module ceiling. -/
def execFreqMaxWrite (v : Nat) (s : State) : Answer := act s (barWrite FREQ_MAX (freqMaxWrite v))

/-- FLT_WIN_WRITE (R471): Writing a fault window setting, ignored for fixed classes. -/
def execFltWinWrite (c v : Nat) (s : State) : Answer := act s (barWrite (FLT_WIN c) (fltWinWrite c v))

/-- TEST_CTL_WRITE (R466): Writing FLT_TEST_CTL enables or disables the in-service test context. -/
def execTestCtlWrite (v : Nat) (s : State) : Answer := act s (barWrite FLT_TEST_CTL (testCtlWrite v))

/-- D3HOT_ENTRY (R476): The function enters D3hot and stops taking pantry slots. -/
def execD3hotEntry (s : State) : Answer := act s (d3hotEntry)

/-- D0_RETURN (R476): The function returns to D0 and resumes at the next tick. -/
def execD0Return (s : State) : Answer := act s (d0Return)

/-- PCIE_ERROR (R477): A PCIe error is reported through AER. -/
def execPcieError (k : Nat) (s : State) : Answer := act s (pcieError k)

end Sys2Proof.Machine
end

