-- ==== Sys2Proof/Machine/ExecJtag.lean ====
section
/-!
DEFINITION. Machine/ExecJtag.lean: JTAG (R489). One meaning for each command, over the operations of its chapter.
-/
namespace Sys2Proof.Machine

/-- BYPASS (R489): JTAG BYPASS instruction. -/
def execBypass (s : State) : Answer := act s (jtagLoad 0xFF)

/-- IDCODE (R489): JTAG IDCODE instruction. -/
def execIdcode (s : State) : Answer := act s (jtagIdcode)

/-- SAMPLE_PRELOAD (R489): JTAG SAMPLE/PRELOAD instruction. -/
def execSamplePreload (s : State) : Answer := act s (jtagLoad 2)

/-- EXTEST (R489): JTAG EXTEST instruction driving pins. -/
def execExtest (s : State) : Answer := act s (jtagLoad 0)

/-- HIGHZ (R489): JTAG HIGHZ instruction. -/
def execHighz (s : State) : Answer := act s (jtagLoad 3)

/-- CLAMP (R489): JTAG CLAMP instruction. -/
def execClamp (s : State) : Answer := act s (jtagLoad 4)

/-- INTERNAL_DEBUG (R489): JTAG internal debug instructions 0x40-0x4F where permitted. -/
def execInternalDebug (n : Nat) (s : State) : Answer := act s (jtagDebug n)

/-- TRST_ASSERT (R489): TRST# returns the TAP to Test-Logic-Reset, ending a session. -/
def execTrstAssert (s : State) : Answer := act s (tlrEntry)

/-- TEST_LOGIC_RESET_EXIT (R489): The TAP leaves Test-Logic-Reset under TMS and TCK, so a JTAG session becomes active and the report shows it. -/
def execTestLogicResetExit (s : State) : Answer := act s (tlrExit)

/-- TEST_LOGIC_RESET_ENTRY (R489): The TAP returns to Test-Logic-Reset under TMS without TRST#, ending the session and any pin-driving instruction. -/
def execTestLogicResetEntry (s : State) : Answer := act s (tlrEntry)

end Sys2Proof.Machine
end

