-- ==== Sys2Proof/Machine/ExecKeys.lean ====
section
/-!
DEFINITION. Machine/ExecKeys.lean: the DOE mailbox's objects (R398-R418). One meaning for each command, over the operations of its chapter.
-/
namespace Sys2Proof.Machine

/-- GET_CERT (R400): DOE request returning a certificate. -/
def execGetCert (k : Nat) (s : State) : Answer := act s (getCert k)

/-- GET_REPORT (R401): DOE request returning a signed attestation report. -/
def execGetReport (n nonce : Nat) (s : State) : Answer := act s (getReport n nonce)

/-- KEY_RELEASE (R405): DOE request unwrapping an owner's keys for a protected context. -/
def execKeyRelease (v len : Nat) (s : State) : Answer := act s (keyRelease v len)

/-- LC_CHANGE (R417): DOE request changing life-cycle state, blowing fuses and starting a module reset. -/
def execLcChange (v len : Nat) (s : State) : Answer := act s (lcChange v len)

/-- DOE_DISCOVERY (R403): DOE Discovery request. -/
def execDoeDiscovery (index : Nat) (s : State) : Answer := act s (doeDiscovery index)

/-- DOE_UNKNOWN_TYPE (R403): A DOE object of unknown type, or a malformed one, arrives and is answered with a 12 B object carrying status 1. -/
def execDoeUnknownType (type : Nat) (s : State) : Answer := act s (doeUnknownType type)

end Sys2Proof.Machine
end

