-- ==== Sys2Proof/Machine/ExecLink.lean ====
section
/-!
DEFINITION. Machine/ExecLink.lean: the Gorith ports (R329-R341). One meaning for each command, over the operations of its chapter.
-/
namespace Sys2Proof.Machine

/-- FRAME (R332): A codeword and frame arrive and are accepted in FSEQ order or discarded. -/
def execFrame (p : Nat) (lo hi : List (BitVec 680)) (pois : BitVec 20) (s : State) : Answer := act s (frameIn p (lo ++ hi) pois)

/-- LINK_ACK (R332): A cumulative link acknowledgement arrives. -/
def execLinkAck (p : Nat) (s : State) : Answer := act s (linkAck p)

/-- LINK_RETRY (R332): A RETRY arrives and the sender replays from the named frame. -/
def execLinkRetry (p : Nat) (s : State) : Answer := act s (linkRetry p)

/-- LINK_CREDIT (R334): A CREDIT packet updates the far side's LIMIT values. -/
def execLinkCredit (p : Nat) (s : State) : Answer := act s (linkCredit p)

/-- LINK_LEVEL (R340): The peer's link protocol level arrives at training and the link level is agreed. -/
def execLinkLevel (p lv : Nat) (s : State) : Answer := act s (linkLevel p lv)

/-- LINK_ACK_SEND (R332): The receiver sends an acknowledgement at least every 64 frames or 1 µs. -/
def execLinkAckSend (p : Nat) (s : State) : Answer := act s (linkAckSend p)

/-- LINK_ACK_TIMEOUT (R333): No acknowledgement advances for 50 µs and the port goes down. -/
def execLinkAckTimeout (p : Nat) (s : State) : Answer := act s (linkAckTimeout p)

/-- LANE_LOCK_LOSS (R333): A port loses lane lock and goes down. -/
def execLaneLockLoss (p : Nat) (s : State) : Answer := act s (laneLockLoss p)

/-- PORT_TRAIN_DONE (R333): A training attempt ends, bringing the port up or, after three failures, lost. -/
def execPortTrainDone (p : Nat) (ok : Bool) (s : State) : Answer := act s (portTrainDone p ok)

/-- PACKET_SEND (R334): A queued packet starts once its class credit allows. -/
def execPacketSend (p c : Nat) (s : State) : Answer := act s (packetSend p c)

/-- LINK_RETRY_SEND (R332): While a receiver waits for the expected FSEQ, it sends a RETRY link packet naming it, at most once every 2 µs. -/
def execLinkRetrySend (p : Nat) (s : State) : Answer := act s (linkRetrySend p)

end Sys2Proof.Machine
end

