-- ==== Sys2Proof/Machine/ExecLoss.lean ====
section
/-!
DEFINITION. Machine/ExecLoss.lean: losses, shedding and temperatures (R421-R424, R446-R450, R514). One meaning for each command, over the operations of its chapter.
-/
namespace Sys2Proof.Machine

/-- STACK_TEMP_READ (R246): Each 1 ms the controller reads stack temperature and sets the refresh rate. -/
def execStackTempRead (n temp : Nat) (s : State) : Answer := act s (stackTempRead n temp)

/-- VCM_FAULT (R421): A VCM fails or leaves range and switches off, losing what it feeds. -/
def execVcmFault (n : Nat) (s : State) : Answer := act s (vcmFault n)

/-- IVR_CELL_FAIL (R424): An IVR cell is disconnected and the derate ceiling falls, or a second failure loses the die. -/
def execIvrCellFail (t j : Nat) (s : State) : Answer := act s (ivrCellFail t j)

/-- THERMAL_EVALUATION (R446): Every 10 ms the thermal ceiling is lowered or shedding arranged. -/
def execThermalEvaluation (s : State) : Answer := act s (thermalEvaluation)

/-- THERMAL_CEILING_RAISE (R446): After 100 ms below 90 °C the thermal ceiling rises one step. -/
def execThermalCeilingRaise (t : Nat) (s : State) : Answer := act s (thermalCeilingRaise t)

/-- SHED_RETURN (R448): A filler-shed tile below 90 °C for 1 s stages its cores and returns. -/
def execShedReturn (t : Nat) (s : State) : Answer := act s (shedReturn t)

end Sys2Proof.Machine
end

