-- ==== Sys2Proof/Machine/ExecMember.lean ====
section
/-!
DEFINITION. Machine/ExecMember.lean: membership and beacons (R355-R361). One meaning for each command, over the operations of its chapter.
-/
namespace Sys2Proof.Machine

/-- JOIN_PACKET (R357): A JOIN part arrives; when all members are complete the join is checked and completes, installing link keys. -/
def execJoinPacket (p n : Nat) (s : State) : Answer := act s (joinPacket p n)

/-- JOIN_TIMEOUT (R355): A join not complete within 10 s fails. -/
def execJoinTimeout (s : State) : Answer := act s (joinTimeout)

/-- BEACON (R359): A BEACON arrives, refreshing reachability and the sender's ceiling. -/
def execBeacon (p n : Nat) (s : State) : Answer := act s (beaconIn p n)

/-- REACH_TIMEOUT (R359): A member's BEACON ages past 5 ms; quorum and fencing are re-evaluated. -/
def execReachTimeout (m : Nat) (s : State) : Answer := act s (reachTimeout m)

/-- HOLD_TIMER_EXPIRE (R361): The verdict hold timer expires and the module leaves the job with a partition record. -/
def execHoldTimerExpire (s : State) : Answer := act s (holdTimerExpire)

end Sys2Proof.Machine
end

