-- ==== Sys2Proof/Machine/Origin.lean ====
section
/-!
DEFINITION. Machine/Origin.lean: stop ticks, sentence origins and guard starts (R50-R62, R202-R207), and with them the verdict sequence
of a step (R289-R292), steps of a request (R482) and what takes effect at an origin.
-/
namespace Sys2Proof.Machine

/- Stop ticks -/

/-- No clause runs on any core. -/
def noClause (d : Dev) : Bool := d.cores.all (fun k => k.2.run.isNone)

/-- The router cycle of the tick after n others (R48): the first is sent at once. -/
def tickTime (d : Dev) (n : Nat) : Nat :=
  if n = 0 then d.now else max d.now (d.originAt + 200 * getF d TG_SENT_LEN TG_SENT_LEN_CUR_LEN - 128)

/-- A CN node that received no tick: its tile's base die, or its edge die (node 64 + k), is handled as lost (R48). -/
def loseNode (d : Dev) (u : Nat) : Dev := if u < 64 then loseBase d u else loseEdge d (u - 64)

/-- The module once tick n+1 is sent: nodes that missed the last are lost, maps that waited stand, the tick is awaited everywhere. -/
def sendTick (d : Dev) (n : Nat) : Dev :=
  let d1 := set64 (setF d TG_SENT_LEN TG_SENT_LEN_CUR_LEN (10 * sentenceLen d)) TG_TICK_LO TG_TICK_HI (n + 1)
  let d2 := d.losePend.foldl loseNode { d1 with losePend := [], now := tickTime d n }
  { (applyMaps d2) with
    tickOut := true
    tickAt := [] }

/-- A function back in D0 resumes at the stop tick (R477). -/
def endD0Wait (d : Dev) : Dev := { d with boot := { d.boot with d0wait := false } }

/-- STOP_TICK (R23, R48, R50, R52, R479): the tick that opens a sentence latches its length; core maps change, nodes that missed a tick are
lost and the pantry is sampled. -/
def stopTick (d : Dev) : Dev :=
  if !getB d TG_CTL TG_CTL_RUN || d.tickOut || !d.guarded || !noClause d then d
  else samplePantry 16 (endD0Wait (sendTick d (get64 d TG_TICK_LO TG_TICK_HI)))

/-- The sequence position of a context of core c: entry and repetition. -/
def seqPos (d : Dev) (c : Nat) (fill : Bool) : Nat × Nat :=
  if fill then ((core d c).fillPos, (core d c).fillRep)
  else (getF d (CL_STATUS c) CL_STATUS_SEQ_POS, getF d (CL_STATUS c) CL_STATUS_REP)

/-- The position after a sentence of its entry. -/
def posNext (e : Nat) (p : Nat × Nat) : Nat × Nat :=
  if p.2 < bits e 16 16 then (p.1, p.2 + 1) else if bit e 14 then (0, 0) else (p.1 + 1, 0)

/-- The position of the next sentence: it advances where this one considered the context and its clause did not yield. -/
def posAfter (d : Dev) (c : Nat) (fill : Bool) : Nat × Nat :=
  let k := core d c
  let p := seqPos d c fill
  let moves := if fill then k.consFill && !k.fillYielded else k.consFg && !k.yielded
  if moves then posNext (seqEntry d c fill p.1) p else p

/-- Both positions of core c move on, and the sentence that ended is forgotten. -/
def advanceCore (d : Dev) (c : Nat) : Dev :=
  let d1 := setPos (setPos d c false (posAfter d c false)) c true (posAfter d c true)
  modCore d1 c (fun k => { k with consFg := false, consFill := false, yielded := false, fillYielded := false, sel := none, startPos := none, fillBad := false })

/-- The header of the clause a position names; none in a bubble. -/
def clauseHeader (d : Dev) (c : Nat) (fill : Bool) (p : Nat) : Option (Nat × Nat) :=
  let e := seqEntry d c fill p
  if (residentOf d c fill).isNone || bit e 13 then none
  else some (bits e 0 13, (storeBundle d c fill (bits e 0 13)).toNat)

/- Guard start -/

/-- The implicit note of core c for the next sentence: the larger LEVEL0 of its candidates (R207, R228). -/
def implicitNote (d : Dev) (c : Nat) : Dev :=
  let lv := fun (fill : Bool) => match clauseHeader d c fill (posAfter d c fill).1 with
    | some h => bits h.2 40 5
    | none => 0
  if (core d c).resFg.isNone && (core d c).resFill.isNone then d
  else modCore d c (fun k => { k with note := none, impNote := some (max (lv false) (lv true)) })

/-- GUARD_START (R51, R53, R57-R59, R207): the droop stretch lengthens the sentence, unfinished clauses end, and every core raises its
implicit note. Nothing happens while a tile's clock stands and no stretch suffices. -/
def guardStart (d : Dev) : Dev :=
  if d.guarded || d.tickOut then d
  else
    let len := getF d TG_SENT_LEN TG_SENT_LEN_CUR_LEN
    match stretchOf d (len / 10) with
    | none => d
    | some s =>
      let d1 := { d with now := max d.now (d.originAt + 200 * (len + s) - 2000), guarded := true }
      let d2 := (List.range 320).foldl (fun d c => implicitNote (guardCore d c) c) d1
      let d3 := setF d2 TG_SENT_LEN TG_SENT_LEN_CUR_LEN (len + s)
      if s = 0 then d3 else setR d3 TG_STRETCH (getR d3 TG_STRETCH + 1)

/- Selection at an origin (R60-R62, R207) -/

/-- Every core stays idle: a degraded load, a takeover, a repair or the reload of a reset tile is under way (R376, R459, R462, R503). -/
def coresHeld (d : Dev) : Bool :=
  d.pan.works.any isDegraded || getB d FLT_STATUS FLT_STATUS_TAKEOVER || !d.flt.repair.isEmpty || tileReloading d

/-- Core c can run a clause: its header switches are closed and its tile's clock runs (R426, R445, R447). -/
def coreReady (d : Dev) (c : Nat) : Bool :=
  hdrState d c == 2 && tileRuns d (c / 5) && !d.pwr.failed && (coreSlot d c).isSome

/-- A resident context of core c that R60 may consider: not one under eviction or reset. -/
def mayRun (d : Dev) (c : Nat) (fill : Bool) : Bool := (residentOf d c fill).any (fun n => ctxState d n != 4)

/-- Core c takes the clause at a position of the selected context; a change of context clears its file (R61, R119, R121, R122, R207). -/
def selectClause (d : Dev) (c : Nat) (fill : Bool) (rep : Nat) (h : Nat × Nat) : Dev :=
  let n := (residentOf d c fill).getD 0
  let same := (core d c).lastCtx == some n
  let d1 := if same then d else clearFile d c
  let xs : Tbl (BitVec 32) := (Tbl.put [] 62 (BitVec.ofNat 32 (stepNo d)) 0)
  let d2 := modCore d1 c (fun k =>
    { k with
      sel := some fill
      startPos := some (h.1, rep)
      xregs := xs.put 63 (BitVec.ofNat 32 rep) 0 })
  let d3 := setF (setF d2 (SC_SLICE c) SC_SLICE_REGION (bits h.2 24 8)) (SC_SLICE c) SC_SLICE_RPOS (bits h.2 32 8)
  setR (setR d3 (SC_SPILL_SEQ c) (bits h.2 64 32 + rep * bits h.2 48 16)) (SC_W1_SEQ c) (bits h.2 96 16 + rep * bits h.2 112 16)

/-- Selection on core c: the foreground within a step, otherwise the filler, otherwise idle (R60, R204). -/
def selectCore (d : Dev) (c : Nat) : Dev :=
  if !coreReady d c || coresHeld d then d
  else
    let fgOn := d.inStep && mayRun d c false
    let p := seqPos d c false
    let d1 := if fgOn then modCore d c (fun k => { k with consFg := true }) else d
    match fgOn, clauseHeader d c false p.1 with
    | true, some h => selectClause d1 c false p.2 h
    | _, _ =>
      if !mayRun d c true then d1
      else
        let q := seqPos d c true
        let d2 := modCore d1 c (fun k => { k with consFill := true })
        match clauseHeader d c true q.1 with
        | some h => selectClause d2 c true q.2 h
        | none => d2

/-- The hold of a layer end is over: a NEXT that waited behind an empty CUR is promoted (R192). -/
def releaseDrain (d : Dev) (c : Nat) : Dev :=
  match (core d c).drained with
  | none => d
  | some fill => (List.range 16).foldl (fun d n =>
    let x := chan d c n
    if x.cur.isNone && x.next.any (·.fill == fill) then promote d c n else d) (modCore d c (fun k => { k with drained := none }))

/-- The implicit note takes effect (R228, R428). -/
def takeNote (d : Dev) (c : Nat) : Dev :=
  match (core d c).impNote with
  | none => d
  | some lv =>
    let d1 := modCore d c (fun k => { k with impNote := none })
    if lv = getF d (CL_NOTE c) CL_NOTE_COVER then d1 else setCoverage (noteGrant d1 c lv) c lv

/- The verdict sequence of a step (R287-R292) -/

/-- The foreground latches cleared, at the start of a step and of a replay (R100). -/
def clearLatches (d : Dev) : Dev :=
  let d1 := clearUeLatches d
  { d1 with
    cores := d1.cores.map (fun k => (k.1, { k.2 with latch := false }))
    meshLatch := []
    fab := { d1.fab with edges := d1.fab.edges.map (fun e => (e.1, { e.2 with latch := false })) } }

/-- The verdict machinery at the start of an attempt's pass (R289, R312, R327): records of this attempt that have come already stay. -/
def beginAttempt (d : Dev) (rcp : Bool) : Dev :=
  let v := d.fab.verd
  let box := v.box.filter (fun x => ofAttempt d x.rec_.toNat)
  let v1 : Verd := { v with box := box, seen := box.map (fun x => (x.stage, x.pos)), fin := none, detail := [], rcp := rcp, ended := false }
  setF (showRoots (setVerd d v1)) VRD_STATUS VRD_STATUS_STATE 1

/-- The clip scale of a pass that is no RECLIP pass: 1 (R266). -/
def clipOne : BitVec 32 := 0x3FC00000

/-- The loaded placement does not serve the lost set (R370, R376). -/
def misplaced (d : Dev) : Bool := get64 d PLC_LOST_0 PLC_LOST_1 != lostSet d

/-- A step begins (R100, R266, R292, R482). A fault that is due, a loss of committed state or a changed lost set ends it in RERUN (R376,
R458, R464). -/
def beginStep (d : Dev) (s : StepReq) : Dev :=
  let d1 := clearLatches (writeInputs d s)
  let v := d1.fab.verd
  let d2 := beginAttempt (setVerd d1 { v with repair := none, fresh := false }) false
  let d3 := passBegin { d2 with inStep := true, rerunStep := false, rerunUpd := false } clipOne true false
  if !d3.flt.due.isEmpty || d3.flt.stateLost || misplaced d3 then raiseRerun d3 .step else d3

/-- The next step of the request under way may begin (R395, R480, R485). -/
def mayBegin (d : Dev) : Bool :=
  !d.inStep && d.res.fg.isSome && d.cqHeld.isEmpty && !boundaryBusy d && !coresHeld d && !d.pan.taken.any (waitsBoundary d)

def nextStep (d : Dev) : Dev :=
  match d.pan.step with
  | some s => if mayBegin d then beginStep d s else d
  | none => d

/-- A degraded load under way serves another lost set than the present one: it is abandoned and begun again (R377). -/
def restartDegraded (d : Dev) : Dev :=
  if d.pan.works.any (fun w => isDegraded w && w.src != lostSet d) then startDegraded d else d

/-- The counters of a step that commits, or is skipped (R275, R290). -/
def countStep (d : Dev) (commit : Bool) : Dev :=
  if commit then
    let a := set64 d STEP_EPOCH_LO STEP_EPOCH_HI (get64 d STEP_EPOCH_LO STEP_EPOCH_HI + 1)
    advanceBias (set64 a STEP_APPLIED_LO STEP_APPLIED_HI (get64 d STEP_APPLIED_LO STEP_APPLIED_HI + 1))
  else setR d STEP_SKIPS (getR d STEP_SKIPS + 1)

/-- The record of a step's end (R483). -/
def stepRecord (d : Dev) (commit : Bool) (code attempt : Nat) : Dev :=
  postCq d 2 (if commit then 0 else 0x20) ((d.pan.step.map (·.tag)).getD 0) (get64 d STEP_EPOCH_LO STEP_EPOCH_HI) (code + attempt <<< 8) 0

/-- The verdict state of a step that is over. -/
def verdictOver (d : Dev) : Dev :=
  let v := d.fab.verd
  setF (setVerd d { v with fin := none, detail := [], rcp := false, repair := none }) VRD_STATUS VRD_STATUS_STATE 0

/-- Objects, queues, verdict state, UEs and RERUN causes as a step leaves them; the step number one higher, the attempt 0. -/
def closeStep (d : Dev) (ctx : Nat) : Dev :=
  let d3 := restartQueues (stepResetObjs d ctx)
  let d4 := setF (set64 d3 STEP_COUNT_LO STEP_COUNT_HI (stepNo d3 + 1)) STEP_LAST STEP_LAST_ATTEMPT 0
  { (uesIdle (verdictOver d4)) with inStep := false, rerunStep := false, rerunUpd := false }

/-- The request of several steps goes on, or completes with its last (R482). -/
def nextOfRequest (d : Dev) : Dev :=
  match d.pan.step with
  | none => d
  | some s =>
    if s.k + 1 < s.count then { d with pan := { d.pan with step := some { s with k := s.k + 1 } } }
    else postCq { d with pan := { d.pan with step := none } } 1 0 s.tag 0 0 0

/-- COMMIT or SKIP applied: the step ends, its record is written, and the request completes with its last step (R275, R276, R290, R302,
R325, R482, R483). -/
def endStep (d : Dev) (code attempt : Nat) : Dev :=
  nextOfRequest (closeStep (stepRecord (countStep d (code == 1)) (code == 1) code attempt) (d.res.fg.getD 0))

/-- Every core of the foreground selects its first entry again (R204). -/
def rewindCores (d : Dev) : Dev :=
  (List.range 320).foldl (fun d c => if (core d c).resFg.isSome then setPos d c false (0, 0) else d) d

/-- The input table of the step request is written again (R204). -/
def againInputs (d : Dev) : Dev :=
  match d.pan.step with
  | some s => writeInputs d s
  | none => d

/-- A degraded package starts to load where the lost set asks for one (R376). -/
def degradeIfMisplaced (d : Dev) : Dev := if d.res.fg.isSome && misplaced d then startDegraded d else d

/-- The verdict state waits for cores that are held. -/
def freshVerdict (d : Dev) (v : Verd) : Dev := setVerd d { v with fresh := coresHeld d }

/-- A new attempt begins: objects, queues, latches, cores, resets and inputs as a step begins. A repair belongs to a rerun of update scope
(R317). -/
def newAttempt (d : Dev) (ctx : Nat) : Dev :=
  let d1 := setVerd d { d.fab.verd with repair := none }
  let d4 := applyTileResets true (rewindCores (restartQueues (stepResetObjs (clearLatches d1) ctx)))
  let d6 := passBegin (beginAttempt (againInputs d4) false) clipOne true false
  freshVerdict (degradeIfMisplaced d6) d6.fab.verd

/-- A RERUN of step scope: the step is replayed from its inputs (R204, R290, R302, R325, R376, R458, R462, R464, R503). -/
def replayStep (d : Dev) : Dev :=
  let d1 := { (startRepair (applyDue d)) with rerunStep := false, rerunUpd := false }
  if d1.flt.stateLost then endJob { d1 with flt := { d1.flt with stateLost := false } } 0x11
  else newAttempt d1 (d.res.fg.getD 0)

/-- A RERUN of update scope: the pass again with the same scale; a repaired module copies first (R291, R317, R458). -/
def rerunPass (d : Dev) : Dev :=
  let d1 := beginAttempt (clearUeLatches (applyDue d)) d.fab.verd.rcp
  match d1.fab.verd.repair with
  | none => passBegin d1 d1.upd.clip false d1.fab.verd.rcp
  | some _ =>
    report (satF (uesIdle d1) VRD_SUSPECT VRD_SUSPECT_COUNT) { cls := 0x41, kind := 6, unit := myMod d1, oper := 4, scope := .none }

/-- RECLIP: the pass again with c = STEP_CLIP × rsqrt(N2) (R129, R290, R291, R311). -/
def reclipPass (d : Dev) (r : Nat) : Dev :=
  let n2 := decodeNum fSdx32 (vrN2 r)
  let c := encodeNum fSdx32 .rne (mulNum (decodeNum fSdx32 (getR d STEP_CLIP)) (rd fSdx32 (rsqrtNum n2)))
  passBegin (beginAttempt (clearUeLatches (setR d STEP_RECLIPS (getR d STEP_RECLIPS + 1))) true) (BitVec.ofNat 32 c) false true

/-- The final record r applied at origin C (R288, R290, R318, R361, R465). -/
def applyVerdict (d : Dev) (r : Nat) : Dev :=
  if d.fab.verd.ended then endJob d 0x13
  else
    let code := vrVerdict r
    let upd := code == 4 && !bit r 3
    let attempt := getF d STEP_LAST STEP_LAST_ATTEMPT
    let d1 := setB (setF (stopHold d) STEP_LAST STEP_LAST_VERDICT code) STEP_LAST STEP_LAST_SCOPE upd
    if code = 1 ∨ code = 3 then endStep d1 code attempt
    else
      let d2 := satF d1 STEP_LAST STEP_LAST_ATTEMPT
      let limit := decide (15 ≤ attempt)
      let d3 := if code = 4 then setR d2 STEP_RERUNS (getR d2 STEP_RERUNS + 1) else d2
      if limit then
        let d4 := if code = 4 then d3 else setR d3 STEP_RECLIPS (getR d3 STEP_RECLIPS + 1)
        endJob d4 (if code = 4 ∧ !upd ∧ (startRepair (applyDue d4)).flt.stateLost then 0x11 else 0x12)
      else if code = 2 then reclipPass d3 r
      else if upd then rerunPass d3
      else replayStep d3

/-- The verdict's part of an origin: V at the first origin after the attempt has begun at which every pass is complete, C at the first at
least 1 µs after the final record (R289, R290, R361). Causes raised after V belong to the attempt that follows. -/
def verdictOrigin (d : Dev) : Dev :=
  if !d.inStep then d
  else
    let st := getF d VRD_STATUS VRD_STATUS_STATE
    let v := d.fab.verd
    if st = 1 then
      if coresHeld d then setVerd d { v with fresh := true }
      else if v.fresh then setVerd d { v with fresh := false }
      else if passDone d && v.repair.isNone then
        let d1 := startHold (submitVerdict d)
        { d1 with rerunStep := false, rerunUpd := false }
      else d
    else match v.fin with
      | some r => if st = 3 ∧ v.finAt + 2000 ≤ d.now then applyVerdict d r.toNat else d
      | none => d

/- The origin -/

/-- The nodes whose units start the sentence: tiles with a base die, edge dies and the host-and-management die (R46). -/
def liveNodes (d : Dev) : List Nat :=
  (List.range 81).filter (fun u =>
    if u < 64 then !baseLost d u && !d.losePend.contains u else if u < 80 then !(edge d (u - 64)).lost else true)

/-- What takes effect at an origin before the verdict: f_job, clocks that start again, the sensor clock, shedding, loads and evictions,
tile resets and the test context (R53, R397, R439, R445, R447, R466, R503, R534). -/
def originEffects (d : Dev) : Dev :=
  let d1 := resumeClocks (freqOrigin { d with pwr := { d.pwr with deficit := [], defAt := 0 } })
  let d2 := if d1.boot.clkBack then setB { d1 with boot := { d1.boot with clkBack := false } } SB_CLK SB_CLK_HOLDOVER false else d1
  keepTest (applyTileResets false (applyWorks (shedDue d2)))

/-- SENTENCE_ORIGIN (R46, R60-R62, R204, R207): once the tick has reached every node the sentence begins on every unit. -/
def sentenceOrigin (d : Dev) : Dev :=
  let us := liveNodes d
  if !d.tickOut || us.any (fun u => d.tickAt.get u 0 == 0) || !noClause d then d
  else
    let t := (us.map (fun u => d.tickAt.get u 0 - 1)).foldl max d.now
    let d1 : Dev := { d with
      now := t
      originAt := t
      tickOut := false
      tickAt := []
      guarded := false
      recSeen := [] }
    let d2 := (List.range 320).foldl (fun d c => advanceCore d c) d1
    let d3 := nextStep (restartDegraded (verdictOrigin (originEffects d2)))
    originReads ((List.range 320).foldl (fun d c => selectCore (releaseDrain (takeNote d c) c) c) d3)

end Sys2Proof.Machine
end

