-- ==== Sys2Proof/Machine/ExecOrigin.lean ====
section
/-!
DEFINITION. Machine/ExecOrigin.lean: stop ticks, sentence origins and guard starts (R46-R62, R204, R290). One meaning for each command, over the operations of its chapter.
-/
namespace Sys2Proof.Machine

/-- STOP_TICK (R50): The tick generator emits a stop tick when the sentence length expires, latching the next sentence's length and any lengthening. -/
def execStopTick (s : State) : Answer := act s (stopTick)

/-- SENTENCE_ORIGIN (R46): TICK_ALIGN expires and the unit starts its sentence, applying frequency, map and loss changes that fall due there. -/
def execSentenceOrigin (s : State) : Answer := act s (fun d => reportDue (sentenceOrigin d))

/-- GUARD_START (R51): Guard start is marked; unfinished clauses overrun, yielding clauses end, the schedule window closes and the implicit note is raised. -/
def execGuardStart (s : State) : Answer := act s (guardStart)

end Sys2Proof.Machine
end

