-- ==== Sys2Proof/Machine/ExecPower.lean ====
section
/-!
DEFINITION. Machine/ExecPower.lean: supply, caps, frequency and power measurement (R359, R421-R445). One meaning for each command, over the operations of its chapter.
-/
namespace Sys2Proof.Machine

/-- COVERAGE_CHANGE (R228): 200 ns after a note, coverage takes its level and the regulator grants or refuses the note. -/
def execCoverageChange (c : Nat) (s : State) : Answer := act s (coverageChange c)

/-- BEACON_SEND (R359): Every 1 ms, or on a ceiling change, the module sends a BEACON to every member. -/
def execBeaconSend (s : State) : Answer := act s (beacons)

/-- DROOP_WARNING (R442): Input below 45.0 V puts every tile in droop hold. -/
def execDroopWarning (t : Nat) (s : State) : Answer := act s (droopWarning t)

/-- DROOP_CLOCK_STEP (R442): Every 100 ns during droop hold or its exit ramp the compute clock steps by 25 MHz. -/
def execDroopClockStep (t : Nat) (s : State) : Answer := act s (droopClockStep t)

/-- SUPPLY_RECOVERY (R443): Input above 46.0 V for 50 µs ends droop hold or power-fail. -/
def execSupplyRecovery (t : Nat) (s : State) : Answer := act s (supplyRecovery t)

/-- POWER_FAIL (R445): Input below 41.0 V stops compute clocks and reruns the step. -/
def execPowerFail (t : Nat) (s : State) : Answer := act s (powerFail t)

/-- RAIL_SAG (R429): The compute rail falls 40 mV and the adaptive clock runs at 7/8. -/
def execRailSag (k t : Nat) (s : State) : Answer := act s (railSag k t)

/-- SAG_RECOVERY (R429): The rail stays within 20 mV for 100 ns and full clock resumes. -/
def execSagRecovery (k t : Nat) (s : State) : Answer := act s (sagRecovery k t)

/-- FAST_TRIP (R436): Compute current exceeds FT and every core of the tile holds issue. -/
def execFastTrip (k t : Nat) (s : State) : Answer := act s (fastTrip k t)

/-- FAST_TRIP_RELEASE (R436): Current stays below 0.9 FT for 200 ns and issue resumes. -/
def execFastTripRelease (k t : Nat) (s : State) : Answer := act s (fastTripRelease k t)

/-- HEADER_STAGE (R426): Each 250 ns the next header-switch stage of a core closes until the supply settles. -/
def execHeaderStage (c : Nat) (settled : Bool) (s : State) : Answer := act s (headerStage c settled)

/-- PWE_ESTIMATE (R430): Every 2 µs the tile estimator forms a compute-power estimate. -/
def execPweEstimate (k : Nat) (acts : List Nat) (s : State) : Answer := act s (pweEstimate k acts)

/-- VCM_POWER_SAMPLE (R431): Every 100 µs VCMs measure input power and calibration K is updated. -/
def execVcmPowerSample (ps cls : List Nat) (vin : Nat) (s : State) : Answer := act s (vcmPowerSample ps cls vin)

/-- CAP_CONTROL_TICK (R434): Every 1 ms the cap ceiling is adjusted from measured input power. -/
def execCapControlTick (p : Nat) (s : State) : Answer := act s (capControlTick p)

end Sys2Proof.Machine
end

