-- ==== Sys2Proof/Machine/ExecReduce.lean ====
section
/-!
DEFINITION. Machine/ExecReduce.lean: reduce-exchange and the verdict reduction (R297-R318). One meaning for each command, over the operations of its chapter.
-/
namespace Sys2Proof.Machine

/-- RDX_DESC_START (R298): The RDX starts its next collective descriptor once its START object is reached. -/
def execRdxDescStart (k : Nat) (s : State) : Answer := act s (rdxDescStart k)

/-- ALLREDUCE (R299): Ring reduce-scatter then all-gather of a descriptor's rows. -/
def execAllreduce (k : Nat) (s : State) : Answer := act s (allreduce k)

/-- REDUCE_SCATTER (R299): Ring reduce-scatter of a descriptor's rows. -/
def execReduceScatter (k : Nat) (s : State) : Answer := act s (reduceScatter k)

/-- ALL_GATHER (R299): Ring all-gather of a descriptor's rows. -/
def execAllGather (k : Nat) (s : State) : Answer := act s (allGather k)

/-- RDX_DESC_DONE (R301): All DST rows have landed and the RDX adds 1 to DONE. -/
def execRdxDescDone (k : Nat) (s : State) : Answer := act s (rdxDescDone k)

/-- CONTRIB (R305): A contribution packet arrives and its rows are added or copied. -/
def execContrib (p n : Nat) (s : State) : Answer := act s (contribIn p n)

/-- DIGEST (R305): A digest packet ends a contribution; a mismatch poisons its rows and sends a notice. -/
def execDigest (p n : Nat) (s : State) : Answer := act s (digestIn p n)

/-- NOTICE (R306): A digest notice arrives and blames this module as sender. -/
def execNotice (p n : Nat) (s : State) : Answer := act s (noticeIn p n)

/-- VRD (R311): A verdict record arrives at a root and is combined, compared and forwarded, or a final record is received. -/
def execVrd (p n : Nat) (s : State) : Answer := act s (vrdIn p n)

/-- REPAIR_DONE (R317): The repair copy completes and the repaired member's UE starts its rerun. -/
def execRepairDone (rows : List (Nat × Row)) (s : State) : Answer := act s (repairDone rows)

end Sys2Proof.Machine
end

