-- ==== Sys2Proof/Machine/ExecReset.lean ====
section
/-!
DEFINITION. Machine/ExecReset.lean: supply, start and PERST# (R422, R492-R505). One meaning for each command, over the operations of its chapter.
-/
namespace Sys2Proof.Machine

/-- INPUT_UVLO (R441): Input below 38.0 V locks out the VCMs and the module loses power. -/
def execInputUvlo (s : State) : Answer := act s (inputUvlo)

/-- INPUT_OVERVOLTAGE (R537): Input above 60.0 V for 10 µs switches every VCM off. -/
def execInputOvervoltage (s : State) : Answer := act s (inputOvervoltage)

/-- POWER_GOOD (R492): VCMs 66 and 67 reach regulation and a cold start begins from ROM. -/
def execPowerGood (s : State) : Answer := act s (powerGood)

/-- BOOT_STAGE_DONE (R492): A cold-start stage completes and the next begins. -/
def execBootStageDone (res : List Nat) (s : State) : Answer := act s (bootStageDone res)

/-- READY (R520): HIF_STATUS.READY is set; trial slots become GOOD and anti-rollback fuses are blown. -/
def execReady (ms : Nat) (s : State) : Answer := act s (ready ms)

/-- PERST_ASSERT (R500): PERST# asserted holds the module idle for a PERST# reset. -/
def execPerstAssert (s : State) : Answer := act s (perstAssert)

/-- PERST_DEASSERT (R500): PERST# deasserted starts the PERST# restart from ROM. -/
def execPerstDeassert (s : State) : Answer := act s (perstDeassert)

end Sys2Proof.Machine
end

