-- ==== Sys2Proof/Machine/ExecSlots.lean ====
section
/-!
DEFINITION. Machine/ExecSlots.lean: the operations of a bundle's four slots (R209-R226): each command issues one slot of the bundle core c is at. One meaning for each command, over the operations of its chapter.
-/
namespace Sys2Proof.Machine

/-- MSPARSE (R125): Sparse-mode matrix operation issuing X(XG) groups from an indexed channel into a half. -/
def execMsparse (c : Nat) (s : State) : Answer := act s (issueOp 1 c)

/-- MMASK (R126): Masked-mode matrix operation forming weight gradients at gloss positions into the sum half. -/
def execMmask (c : Nat) (s : State) : Answer := act s (issueOp 2 c)

/-- MDENSE (R127): Dense-mode matrix operation generating groups from a shape word and a weight stream. -/
def execMdense (c : Nat) (s : State) : Answer := act s (issueOp 3 c)

/-- SPILL (R120): Converts accumulator rows to SDX32 and writes them to a shelf handle, optionally clearing them. -/
def execSpill (c : Nat) (s : State) : Answer := act s (issueOp 4 c)

/-- ACCLD (R123): Loads accumulator rows exactly from shelf rows. -/
def execAccld (c : Nat) (s : State) : Answer := act s (issueOp 5 c)

/-- ACCCLR (R119): Clears a range of accumulator rows. -/
def execAccclr (c : Nat) (s : State) : Answer := act s (issueOp 6 c)

/-- VADD (R218): Vector element-wise add. -/
def execVadd (c : Nat) (s : State) : Answer := act s (issueOp 65 c)

/-- VSUB (R218): Vector element-wise subtract. -/
def execVsub (c : Nat) (s : State) : Answer := act s (issueOp 66 c)

/-- VMUL (R218): Vector element-wise multiply. -/
def execVmul (c : Nat) (s : State) : Answer := act s (issueOp 67 c)

/-- VFMA (R218): Vector fused multiply-add with one rounding. -/
def execVfma (c : Nat) (s : State) : Answer := act s (issueOp 68 c)

/-- VMAX (R88): Vector element-wise maximum. -/
def execVmax (c : Nat) (s : State) : Answer := act s (issueOp 69 c)

/-- VMIN (R88): Vector element-wise minimum. -/
def execVmin (c : Nat) (s : State) : Answer := act s (issueOp 70 c)

/-- VMOV (R218): Vector copy of A into D. -/
def execVmov (c : Nat) (s : State) : Answer := act s (issueOp 71 c)

/-- VRCP (R129): Vector correctly rounded reciprocal. -/
def execVrcp (c : Nat) (s : State) : Answer := act s (issueOp 72 c)

/-- VRSQRT (R129): Vector correctly rounded reciprocal square root. -/
def execVrsqrt (c : Nat) (s : State) : Answer := act s (issueOp 73 c)

/-- VSQRT (R129): Vector correctly rounded square root. -/
def execVsqrt (c : Nat) (s : State) : Answer := act s (issueOp 74 c)

/-- VEXP (R129): Vector correctly rounded exp. -/
def execVexp (c : Nat) (s : State) : Answer := act s (issueOp 75 c)

/-- VEXP2 (R129): Vector correctly rounded exp2. -/
def execVexp2 (c : Nat) (s : State) : Answer := act s (issueOp 76 c)

/-- VLOG2 (R129): Vector correctly rounded log2. -/
def execVlog2 (c : Nat) (s : State) : Answer := act s (issueOp 77 c)

/-- VTANH (R129): Vector correctly rounded tanh. -/
def execVtanh (c : Nat) (s : State) : Answer := act s (issueOp 78 c)

/-- VSIGM (R129): Vector correctly rounded sigmoid. -/
def execVsigm (c : Nat) (s : State) : Answer := act s (issueOp 79 c)

/-- VGELU (R129): Vector correctly rounded tanh-form gelu. -/
def execVgelu (c : Nat) (s : State) : Answer := act s (issueOp 80 c)

/-- VCVT (R549): Vector format conversion, using side-field headers for SDX8 targets and W1 stochastic rounding when set. -/
def execVcvt (c : Nat) (s : State) : Answer := act s (issueOp 81 c)

/-- VSCAN (R83): Vector scan pass writing block headers into D's side fields. -/
def execVscan (c : Nat) (s : State) : Answer := act s (issueOp 82 c)

/-- VSUM (R218): Sums A's rows per lane into one row. -/
def execVsum (c : Nat) (s : State) : Answer := act s (issueOp 83 c)

/-- VMAXR (R218): Folds A's rows per lane by maximum into one row. -/
def execVmaxr (c : Nat) (s : State) : Answer := act s (issueOp 84 c)

/-- VSOFTMAX (R131): Softmax over N rows per token lane. -/
def execVsoftmax (c : Nat) (s : State) : Answer := act s (issueOp 85 c)

/-- VRMSNORM (R132): RMS normalisation over N rows with scale and epsilon. -/
def execVrmsnorm (c : Nat) (s : State) : Answer := act s (issueOp 86 c)

/-- VLNORM (R132): Layer normalisation over N rows with scale, shift and epsilon. -/
def execVlnorm (c : Nat) (s : State) : Answer := act s (issueOp 87 c)

/-- VTOPK (R133): Selects the k largest keys per lane, writing index and value rows. -/
def execVtopk (c : Nat) (s : State) : Answer := act s (issueOp 88 c)

/-- MCOPY (R222): Copies logical rows between handles of equal width. -/
def execMcopy (c : Nat) (s : State) : Answer := act s (issueOp 129 c)

/-- MFILL (R222): Fills an extent with a 32-bit value. -/
def execMfill (c : Nat) (s : State) : Answer := act s (issueOp 130 c)

/-- HSET (R153): Writes a handle table entry of the issuing context's half if well-formed. -/
def execHset (c : Nat) (s : State) : Answer := act s (issueOp 131 c)

/-- CNC (R155): Compare-and-count over shelf rows writing counts to a destination row. -/
def execCnc (c : Nat) (s : State) : Answer := act s (issueOp 132 c)

/-- SLEEP (R159): Closes the named bank groups' write windows to power them down. -/
def execSleep (c : Nat) (s : State) : Answer := act s (issueOp 133 c)

/-- WAKE (R162): Starts powering up the named bank groups. -/
def execWake (c : Nat) (s : State) : Answer := act s (issueOp 134 c)

/-- SPUT (R169): STREAM_PUT copies a shelf row into program entry 128-255. -/
def execSput (c : Nat) (s : State) : Answer := act s (issueOp 135 c)

/-- XLD (R223): Loads a 32-bit larder word into an index register. -/
def execXld (c : Nat) (s : State) : Answer := act s (issueOp 136 c)

/-- XST (R223): Stores an index register to a 32-bit larder word. -/
def execXst (c : Nat) (s : State) : Answer := act s (issueOp 137 c)

/-- XLI (R224): Loads a zero-extended immediate into an index register. -/
def execXli (c : Nat) (s : State) : Answer := act s (issueOp 193 c)

/-- XLIH (R224): Loads an immediate into the high half of an index register. -/
def execXlih (c : Nat) (s : State) : Answer := act s (issueOp 194 c)

/-- XADDI (R224): Adds a signed immediate to an index register. -/
def execXaddi (c : Nat) (s : State) : Answer := act s (issueOp 195 c)

/-- XADD (R224): Adds two index registers. -/
def execXadd (c : Nat) (s : State) : Answer := act s (issueOp 196 c)

/-- XMULI (R224): Multiplies an index register by an immediate. -/
def execXmuli (c : Nat) (s : State) : Answer := act s (issueOp 197 c)

/-- BRNZ (R224): Branches if an index register is nonzero. -/
def execBrnz (c : Nat) (s : State) : Answer := act s (issueOp 198 c)

/-- LOOP (R224): Decrements an index register and branches if nonzero. -/
def execLoop (c : Nat) (s : State) : Answer := act s (issueOp 199 c)

/-- END (R232): Ends issue for the clause. -/
def execClauseEnd (c : Nat) (s : State) : Answer := act s (issueOp 200 c)

/-- BR (R224): Unconditional branch. -/
def execBr (c : Nat) (s : State) : Answer := act s (issueOp 201 c)

/-- NOTE (R228): Load note requesting a coverage level 200 ns later. -/
def execNote (c : Nat) (s : State) : Answer := act s (issueOp 202 c)

/-- STRS (R170): STREAM_START loads a program into CUR or NEXT of a channel, or is refused. -/
def execStrs (c : Nat) (s : State) : Answer := act s (issueOp 203 c)

/-- STRA (R172): STREAM_AWAIT waits until a stream's LANDED count reaches n or it ends. -/
def execStra (c : Nat) (s : State) : Answer := act s (issueOp 204 c)

/-- STRC (R194): STREAM_CONFIRM makes a held program an ordinary stream. -/
def execStrc (c : Nat) (s : State) : Answer := act s (issueOp 205 c)

/-- STRX (R195): STREAM_CANCEL discards a held program. -/
def execStrx (c : Nat) (s : State) : Answer := act s (issueOp 206 c)

/-- FENCE (R224): Waits until named pipes have at most KEEP unretired operations. -/
def execFence (c : Nat) (s : State) : Answer := act s (issueOp 207 c)

/-- SYNCADD (R226): After all earlier operations retire, sends an increment to a sync object. -/
def execSyncadd (c : Nat) (s : State) : Answer := act s (issueOp 208 c)

/-- SYNCWAIT (R322): Waits until a sync object is reached, entering the wait table if needed. -/
def execSyncwait (c : Nat) (s : State) : Answer := act s (issueOp 209 c)

end Sys2Proof.Machine
end

