-- ==== Sys2Proof/Machine/ExecSmbus.lean ====
section
/-!
DEFINITION. Machine/ExecSmbus.lean: SMBus commands (R487, R488). One meaning for each command, over the operations of its chapter.
-/
namespace Sys2Proof.Machine

/-- STATUS (R487): SMBus read of module status. -/
def execStatus (s : State) : Answer := act s (smStatus)

/-- ALERT (R487): SMBus read of alert bits, clearing them. -/
def execAlert (s : State) : Answer := act s (smAlert)

/-- ALERT_RESPONSE (R487): SMBus Alert Response Address read. -/
def execAlertResponse (s : State) : Answer := act s (smAlertResponse)

/-- VIN (R487): SMBus read of input voltage. -/
def execVin (s : State) : Answer := act s (smVin)

/-- PIN (R487): SMBus read of input power. -/
def execPin (s : State) : Answer := act s (smPin)

/-- PCLASS (R487): SMBus block read of power class draws. -/
def execPclass (s : State) : Answer := act s (smPclass)

/-- TMAX (R487): SMBus read of hottest junction. -/
def execTmax (s : State) : Answer := act s (smTmax)

/-- TTILE (R487): SMBus block read of tile temperatures. -/
def execTtile (s : State) : Answer := act s (smTtile)

/-- TSTACK (R487): SMBus block read of stack temperatures. -/
def execTstack (s : State) : Answer := act s (smTstack)

/-- CAP_READ (R487): SMBus read of PWR_CAP_BMC. -/
def execCapRead (s : State) : Answer := act s (smCapRead)

/-- CAP_WRITE (R432): SMBus write of PWR_CAP_BMC, changing P_cap. -/
def execCapWrite (v pec : Nat) (s : State) : Answer := act s (smCapWrite v pec)

/-- FREQ (R487): SMBus read of frequency status. -/
def execFreq (s : State) : Answer := act s (smFreq)

/-- STATE_REQ_RUNNING (R507): SMBus power-state request for Running. -/
def execStateReqRunning (pec : Nat) (s : State) : Answer := act s (smStateReq 0 pec)

/-- STATE_REQ_QUIET (R507): SMBus power-state request for Quiet. -/
def execStateReqQuiet (pec : Nat) (s : State) : Answer := act s (smStateReq 1 pec)

/-- STATE_REQ_HOLD (R507): SMBus power-state request for Hold. -/
def execStateReqHold (pec : Nat) (s : State) : Answer := act s (smStateReq 2 pec)

/-- RESET_REQ_COLD (R500): SMBus reset request 0x01 switching VCMs off for a cold start. -/
def execResetReqCold (key pec : Nat) (s : State) : Answer := act s (smResetReq 1 key pec)

/-- RESET_REQ_MODULE (R500): SMBus reset request 0x02 starting a module reset. -/
def execResetReqModule (key pec : Nat) (s : State) : Answer := act s (smResetReq 2 key pec)

/-- ID (R487): SMBus block read of identity. -/
def execId (s : State) : Answer := act s (smId)

/-- PLOG_SEL (R487): SMBus selection of a persistent-log record. -/
def execPlogSel (v pec : Nat) (s : State) : Answer := act s (smPlogSel v pec)

/-- PLOG (R487): SMBus block read of the selected persistent-log record. -/
def execPlog (s : State) : Answer := act s (smPlog)

/-- UNDEFINED_COMMAND_CODE (R487): An SMBus transaction with an undefined command code arrives and is answered with NACK. -/
def execUndefinedCommandCode (s : State) : Answer := act s (smUndefined)

end Sys2Proof.Machine
end

