-- ==== Sys2Proof/Machine/ExecStates.lean ====
section
/-!
DEFINITION. Machine/ExecStates.lean: resets, power states, the management core and the sensor hub (R446, R501-R514, R534). One meaning for each command, over the operations of its chapter.
-/
namespace Sys2Proof.Machine

/-- POWER_RUNNING (R507): Pantry POWER request for Running. -/
def execPowerRunning (s : State) : Answer := act s (powerReq 0)

/-- POWER_QUIET (R507): Pantry POWER request for Quiet. -/
def execPowerQuiet (s : State) : Answer := act s (powerReq 1)

/-- POWER_HOLD (R507): Pantry POWER request for Hold. -/
def execPowerHold (s : State) : Answer := act s (powerReq 2)

/-- POWER_TRANSITION_DONE (R507): A power-state transition completes. -/
def execPowerTransitionDone (arr stks cores edges : List Nat) (s : State) : Answer := act s (powerTransitionDone arr stks cores edges)

/-- MODULE_RESET (R500): Pantry RESET with code 0x02 starting a module reset. -/
def execModuleReset (s : State) : Answer := act s (moduleResetReq)

/-- TILE_RESET (R503): Pantry RESET with code 0x03 resetting one tile. -/
def execTileReset (s : State) : Answer := act s (tileResetReq)

/-- CONTEXT_RESET (R504): Pantry RESET with code 0x04 resetting one context. -/
def execContextReset (s : State) : Answer := act s (contextResetReq)

/-- TILE_RELOAD_DONE (R503): A tile reset's section reload from the reserve completes. -/
def execTileReloadDone (s : State) : Answer := act s (tileReloadDone)

/-- RESET_DONE (R502): A reset completes and the module becomes ready or records completion. -/
def execResetDone (ms : Nat) (s : State) : Answer := act s (resetDone ms)

/-- THERMAL_SAMPLE (R446): Every 1 ms sensors are read, failed sensors marked and hard trips taken. -/
def execThermalSample (tiles : List (Nat × List Int)) (edges : List Int) (mgmt : Int) (s : State) : Answer := act s (thermalSample tiles edges mgmt)

/-- VOLTAGE_MONITOR_SAMPLE (R514): Every 10 µs the sensor hub samples rail monitors. -/
def execVoltageMonitorSample (xs : List (Nat × Nat)) (s : State) : Answer := act s (voltageMonitorSample xs)

/-- MODCLK_LOSS (R534): MODCLK absent for 1 µs switches PLLs to the holdover oscillator. -/
def execModclkLoss (s : State) : Answer := act s (modclkLoss)

/-- MODCLK_RETURN (R534): MODCLK present for 10 ms; PLLs switch back at the next origin. -/
def execModclkReturn (s : State) : Answer := act s (modclkReturn)

/-- WATCHDOG_EXPIRE (R513): The management watchdog expires, starting a module reset or management restart. -/
def execWatchdogExpire (since : Option Nat) (s : State) : Answer := act s (watchdogExpire since)

/-- SRAM_UE (R513): An uncorrectable SRAM error outside the retained partition starts a management restart. -/
def execSramUe (s : State) : Answer := act s (sramUe)

/-- MGMT_RESTART_DONE (R513): A management restart completes within 2 s. -/
def execMgmtRestartDone (s : State) : Answer := act s (mgmtRestartDone)

end Sys2Proof.Machine
end

