-- ==== Sys2Proof/Machine/ExecStreams.lean ====
section
/-!
DEFINITION. Machine/ExecStreams.lean: the mesh and the stream channels (R67-R72, R167-R200, R548). One meaning for each command, over the operations of its chapter.
-/
namespace Sys2Proof.Machine

/-- FLIT_HOP (R67): A router applies its slot-table entry, forwarding, adding or reading flits between ports. -/
def execFlitHop (t c : Nat) (s : State) : Answer := act s (flitHop t c)

/-- FLIT_DELIVER (R548): A flit delivered to a core, larder or controller port is taken by the channel or agent its port map names. -/
def execFlitDeliver (n : Nat) (s : State) : Answer := act s (flitDeliver n)

/-- STREAM_OPEN (R176): A stream open arrives at a far agent, which starts its address sequence or refuses. -/
def execStreamOpen (s : State) : Answer := act s (streamOpen)

/-- STREAM_END (R190): A CUR stream completes and NEXT is promoted in the same cycle. -/
def execStreamEnd (c n : Nat) (s : State) : Answer := act s (streamEnd c n)

/-- STREAM_CLOSE (R198): A stream close reaches a far agent on eviction; it writes nothing more and acknowledges. -/
def execStreamClose (s : State) : Answer := act s (streamClose)

end Sys2Proof.Machine
end

