-- ==== Sys2Proof/Machine/ExecSync.lean ====
section
/-!
DEFINITION. Machine/ExecSync.lean: the sync objects (R319-R326). One meaning for each command, over the operations of its chapter.
-/
namespace Sys2Proof.Machine

/-- SYNC_INCREMENT (R320): A CN node applies an increment to a sync object and performs reach actions once. -/
def execSyncIncrement (n : Nat) (s : State) : Answer := act s (fun d => flushSync (syncIncrement n d))

end Sys2Proof.Machine
end

