-- ==== Sys2Proof/Machine/ExecUpdate.lean ====
section
/-!
DEFINITION. Machine/ExecUpdate.lean: the Update Engines (R258-R293). One meaning for each command, over the operations of its chapter.
-/
namespace Sys2Proof.Machine

/-- UE_SHARD_START (R266): Once a shard's TOKEN is reached the UE starts the shard's update, forming step constants at pass start. -/
def execUeShardStart (t : Nat) (s : State) : Answer := act s (ueShardStart t)

/-- UE_LOFT_WRITE (R272): The UE writes a loft row in an agent-62 slot, swapping the chunk-map entry on the first write. -/
def execUeLoftWrite (t a n : Nat) (s : State) : Answer := act s (ueLoftWrite t a n)

/-- UE_SHARD_DONE (R266): A shard pass completes; its norm and digest fold in and the pass completes after the last shard. -/
def execUeShardDone (t : Nat) (s : State) : Answer := act s (ueShardDone t)

/-- UE_SHARD_INTERRUPT (R267): A parity error, side-port refusal or tile reset interrupts a shard, which is redone or fails after three tries. -/
def execUeShardInterrupt (t : Nat) (s : State) : Answer := act s (ueShardInterrupt t)

end Sys2Proof.Machine
end

