-- ==== Sys2Proof/Machine/ExecXfer.lean ====
section
/-!
DEFINITION. Machine/ExecXfer.lean: the transfer engines and multicast (R349-R354). One meaning for each command, over the operations of its chapter.
-/
namespace Sys2Proof.Machine

/-- XFER_DESC_START (R349): The transfer engine starts its next descriptor once START is reached. -/
def execXferDescStart (k : Nat) (s : State) : Answer := act s (xferDescStart k)

/-- XFER_WRITE (R350): Transfer descriptor sending WRITE packets of 32 rows. -/
def execXferWrite (k : Nat) (s : State) : Answer := act s (xferWrite k)

/-- XFER_READ (R350): Transfer descriptor sending READ requests. -/
def execXferRead (k : Nat) (s : State) : Answer := act s (xferRead k)

/-- MCAST_WRITE (R353): Transfer descriptor sending each packet to every valid entry of a multicast list. -/
def execMcastWrite (k : Nat) (s : State) : Answer := act s (mcastWrite k)

/-- MCAST_COPY_SEND (R353): An MCP copy is sent once class credit allows. -/
def execMcastCopySend (k n e : Nat) (s : State) : Answer := act s (mcastCopySend k n e)

/-- MCAST_HOLD_EXPIRE (R354): A copy waiting past FAB_MCAST_HOLD becomes faulty and the step reruns. -/
def execMcastHoldExpire (k n e : Nat) (s : State) : Answer := act s (mcastHoldExpire k n e)

/-- XFER_DESC_DONE (R350): Every packet is answered or timed out and the engine adds 1 to DONE. -/
def execXferDescDone (k : Nat) (s : State) : Answer := act s (xferDescDone k)

end Sys2Proof.Machine
end

