-- ==== Sys2Proof/Machine/Dispatch.lean ====
section
/-!
DEFINITION. Machine/Dispatch.lean: one arm for each command.
-/
namespace Sys2Proof.Machine

/-- A command's effect on the module. -/
def exec (i : Instr) (s : State) : Host.Outcome State Fault Refusal :=
  match i with
  | .stopTick => Sys2Proof.Machine.execStopTick s
  | .tickArrival u => Sys2Proof.Machine.execTickArrival u s
  | .pantryPoll => Sys2Proof.Machine.execPantryPoll s
  | .sentenceOrigin => Sys2Proof.Machine.execSentenceOrigin s
  | .clauseStart c => Sys2Proof.Machine.execClauseStart c s
  | .guardStart => Sys2Proof.Machine.execGuardStart s
  | .drainSpanEnd => Sys2Proof.Machine.execDrainSpanEnd s
  | .tickFault t => Sys2Proof.Machine.execTickFault t s
  | .flitHop t c => Sys2Proof.Machine.execFlitHop t c s
  | .flitDeliver n => Sys2Proof.Machine.execFlitDeliver n s
  | .nop c => Sys2Proof.Machine.execNop c s
  | .illegalBundle c t => Sys2Proof.Machine.execIllegalBundle c t s
  | .msparse c => Sys2Proof.Machine.execMsparse c s
  | .mmask c => Sys2Proof.Machine.execMmask c s
  | .mdense c => Sys2Proof.Machine.execMdense c s
  | .spill c => Sys2Proof.Machine.execSpill c s
  | .accld c => Sys2Proof.Machine.execAccld c s
  | .accclr c => Sys2Proof.Machine.execAccclr c s
  | .gfGroup c cyc us ua => Sys2Proof.Machine.execGfGroup c cyc us ua s
  | .vadd c => Sys2Proof.Machine.execVadd c s
  | .vsub c => Sys2Proof.Machine.execVsub c s
  | .vmul c => Sys2Proof.Machine.execVmul c s
  | .vfma c => Sys2Proof.Machine.execVfma c s
  | .vmax c => Sys2Proof.Machine.execVmax c s
  | .vmin c => Sys2Proof.Machine.execVmin c s
  | .vmov c => Sys2Proof.Machine.execVmov c s
  | .vrcp c => Sys2Proof.Machine.execVrcp c s
  | .vrsqrt c => Sys2Proof.Machine.execVrsqrt c s
  | .vsqrt c => Sys2Proof.Machine.execVsqrt c s
  | .vexp c => Sys2Proof.Machine.execVexp c s
  | .vexp2 c => Sys2Proof.Machine.execVexp2 c s
  | .vlog2 c => Sys2Proof.Machine.execVlog2 c s
  | .vtanh c => Sys2Proof.Machine.execVtanh c s
  | .vsigm c => Sys2Proof.Machine.execVsigm c s
  | .vgelu c => Sys2Proof.Machine.execVgelu c s
  | .vcvt c => Sys2Proof.Machine.execVcvt c s
  | .vscan c => Sys2Proof.Machine.execVscan c s
  | .vsum c => Sys2Proof.Machine.execVsum c s
  | .vmaxr c => Sys2Proof.Machine.execVmaxr c s
  | .vsoftmax c => Sys2Proof.Machine.execVsoftmax c s
  | .vrmsnorm c => Sys2Proof.Machine.execVrmsnorm c s
  | .vlnorm c => Sys2Proof.Machine.execVlnorm c s
  | .vtopk c => Sys2Proof.Machine.execVtopk c s
  | .mcopy c => Sys2Proof.Machine.execMcopy c s
  | .mfill c => Sys2Proof.Machine.execMfill c s
  | .hset c => Sys2Proof.Machine.execHset c s
  | .cnc c => Sys2Proof.Machine.execCnc c s
  | .sleep c => Sys2Proof.Machine.execSleep c s
  | .shfSleepDone c t => Sys2Proof.Machine.execShfSleepDone c t s
  | .wake c => Sys2Proof.Machine.execWake c s
  | .shfWakeDone c => Sys2Proof.Machine.execShfWakeDone c s
  | .sput c => Sys2Proof.Machine.execSput c s
  | .xld c => Sys2Proof.Machine.execXld c s
  | .xst c => Sys2Proof.Machine.execXst c s
  | .xli c => Sys2Proof.Machine.execXli c s
  | .xlih c => Sys2Proof.Machine.execXlih c s
  | .xaddi c => Sys2Proof.Machine.execXaddi c s
  | .xadd c => Sys2Proof.Machine.execXadd c s
  | .xmuli c => Sys2Proof.Machine.execXmuli c s
  | .brnz c => Sys2Proof.Machine.execBrnz c s
  | .loop c => Sys2Proof.Machine.execLoop c s
  | .clauseEnd c => Sys2Proof.Machine.execClauseEnd c s
  | .br c => Sys2Proof.Machine.execBr c s
  | .note c => Sys2Proof.Machine.execNote c s
  | .strs c => Sys2Proof.Machine.execStrs c s
  | .stra c => Sys2Proof.Machine.execStra c s
  | .strc c => Sys2Proof.Machine.execStrc c s
  | .strx c => Sys2Proof.Machine.execStrx c s
  | .fence c => Sys2Proof.Machine.execFence c s
  | .syncadd c => Sys2Proof.Machine.execSyncadd c s
  | .syncwait c => Sys2Proof.Machine.execSyncwait c s
  | .opStart c pipe t up clash => Sys2Proof.Machine.execOpStart c pipe t up clash s
  | .opRetire c pipe no t up => Sys2Proof.Machine.execOpRetire c pipe no t up s
  | .clauseFinish c t => Sys2Proof.Machine.execClauseFinish c t s
  | .coverageChange c => Sys2Proof.Machine.execCoverageChange c s
  | .coverageFall c => Sys2Proof.Machine.execCoverageFall c s
  | .streamOpen => Sys2Proof.Machine.execStreamOpen s
  | .streamEnd c n => Sys2Proof.Machine.execStreamEnd c n s
  | .streamClose => Sys2Proof.Machine.execStreamClose s
  | .shelfWindowRow n => Sys2Proof.Machine.execShelfWindowRow n s
  | .bulkRefuseReport n => Sys2Proof.Machine.execBulkRefuseReport n s
  | .cellarRead n ofs tag err => Sys2Proof.Machine.execCellarRead n ofs tag err s
  | .cellarWrite n ofs tag ue row => Sys2Proof.Machine.execCellarWrite n ofs tag ue row s
  | .cellarWriteback n => Sys2Proof.Machine.execCellarWriteback n s
  | .refresh n => Sys2Proof.Machine.execRefresh n s
  | .scrubRead n err => Sys2Proof.Machine.execScrubRead n err s
  | .stackTempRead n temp => Sys2Proof.Machine.execStackTempRead n temp s
  | .ueShardStart t => Sys2Proof.Machine.execUeShardStart t s
  | .ueLoftWrite t a n => Sys2Proof.Machine.execUeLoftWrite t a n s
  | .ueShardDone t => Sys2Proof.Machine.execUeShardDone t s
  | .ueShardInterrupt t => Sys2Proof.Machine.execUeShardInterrupt t s
  | .rdxDescStart k => Sys2Proof.Machine.execRdxDescStart k s
  | .allreduce k => Sys2Proof.Machine.execAllreduce k s
  | .reduceScatter k => Sys2Proof.Machine.execReduceScatter k s
  | .allGather k => Sys2Proof.Machine.execAllGather k s
  | .rdxDescDone k => Sys2Proof.Machine.execRdxDescDone k s
  | .contrib p n => Sys2Proof.Machine.execContrib p n s
  | .digest p n => Sys2Proof.Machine.execDigest p n s
  | .notice p n => Sys2Proof.Machine.execNotice p n s
  | .vrd p n => Sys2Proof.Machine.execVrd p n s
  | .repairDone rows => Sys2Proof.Machine.execRepairDone rows s
  | .syncIncrement n => Sys2Proof.Machine.execSyncIncrement n s
  | .sync p n => Sys2Proof.Machine.execSync p n s
  | .frame p lo hi pois => Sys2Proof.Machine.execFrame p lo hi pois s
  | .linkAck p => Sys2Proof.Machine.execLinkAck p s
  | .linkRetry p => Sys2Proof.Machine.execLinkRetry p s
  | .linkCredit p => Sys2Proof.Machine.execLinkCredit p s
  | .linkLevel p lv => Sys2Proof.Machine.execLinkLevel p lv s
  | .linkAckSend p => Sys2Proof.Machine.execLinkAckSend p s
  | .linkAckTimeout p => Sys2Proof.Machine.execLinkAckTimeout p s
  | .laneLockLoss p => Sys2Proof.Machine.execLaneLockLoss p s
  | .portTrainDone p ok => Sys2Proof.Machine.execPortTrainDone p ok s
  | .packetSend p c => Sys2Proof.Machine.execPacketSend p c s
  | .write p n => Sys2Proof.Machine.execWrite p n s
  | .read p n => Sys2Proof.Machine.execRead p n s
  | .windowLand n m => Sys2Proof.Machine.execWindowLand n m s
  | .rdata p n => Sys2Proof.Machine.execRdata p n s
  | .ack p n => Sys2Proof.Machine.execAck p n s
  | .nack p n => Sys2Proof.Machine.execNack p n s
  | .xferDescStart k => Sys2Proof.Machine.execXferDescStart k s
  | .xferWrite k => Sys2Proof.Machine.execXferWrite k s
  | .xferRead k => Sys2Proof.Machine.execXferRead k s
  | .mcastWrite k => Sys2Proof.Machine.execMcastWrite k s
  | .mcastCopySend k n e => Sys2Proof.Machine.execMcastCopySend k n e s
  | .mcastHoldExpire k n e => Sys2Proof.Machine.execMcastHoldExpire k n e s
  | .xferDescDone k => Sys2Proof.Machine.execXferDescDone k s
  | .txnTimeout n => Sys2Proof.Machine.execTxnTimeout n s
  | .windowCloseDone n => Sys2Proof.Machine.execWindowCloseDone n s
  | .joinPacket p n => Sys2Proof.Machine.execJoinPacket p n s
  | .joinTimeout => Sys2Proof.Machine.execJoinTimeout s
  | .beacon p n => Sys2Proof.Machine.execBeacon p n s
  | .beaconSend => Sys2Proof.Machine.execBeaconSend s
  | .reachTimeout m => Sys2Proof.Machine.execReachTimeout m s
  | .holdTimerExpire => Sys2Proof.Machine.execHoldTimerExpire s
  | .dispatch k => Sys2Proof.Machine.execDispatch k s
  | .combine k => Sys2Proof.Machine.execCombine k s
  | .xchDescStart k => Sys2Proof.Machine.execXchDescStart k s
  | .degradedLoadDone => Sys2Proof.Machine.execDegradedLoadDone s
  | .define => Sys2Proof.Machine.execDefine s
  | .load host => Sys2Proof.Machine.execLoad host s
  | .evict => Sys2Proof.Machine.execEvict s
  | .evictRelease => Sys2Proof.Machine.execEvictRelease s
  | .delete => Sys2Proof.Machine.execDelete s
  | .contextWritesDone n => Sys2Proof.Machine.execContextWritesDone n s
  | .stage host => Sys2Proof.Machine.execStage host s
  | .join host => Sys2Proof.Machine.execJoin host s
  | .leave => Sys2Proof.Machine.execLeave s
  | .step => Sys2Proof.Machine.execStep s
  | .rules host => Sys2Proof.Machine.execRules host s
  | .pantryRequestRelease host => Sys2Proof.Machine.execPantryRequestRelease host s
  | .blobLoad => Sys2Proof.Machine.execBlobLoad s
  | .blobLoadDone n => Sys2Proof.Machine.execBlobLoadDone n s
  | .ckptOut => Sys2Proof.Machine.execCkptOut s
  | .copyIn => Sys2Proof.Machine.execCopyIn s
  | .copyOut => Sys2Proof.Machine.execCopyOut s
  | .tileReturn => Sys2Proof.Machine.execTileReturn s
  | .windowOpen => Sys2Proof.Machine.execWindowOpen s
  | .windowClose => Sys2Proof.Machine.execWindowClose s
  | .powerRunning => Sys2Proof.Machine.execPowerRunning s
  | .powerQuiet => Sys2Proof.Machine.execPowerQuiet s
  | .powerHold => Sys2Proof.Machine.execPowerHold s
  | .powerTransitionDone arr stks cores edges => Sys2Proof.Machine.execPowerTransitionDone arr stks cores edges s
  | .moduleReset => Sys2Proof.Machine.execModuleReset s
  | .tileReset => Sys2Proof.Machine.execTileReset s
  | .contextReset => Sys2Proof.Machine.execContextReset s
  | .tileReloadDone => Sys2Proof.Machine.execTileReloadDone s
  | .resetDone ms => Sys2Proof.Machine.execResetDone ms s
  | .fwUpdate host => Sys2Proof.Machine.execFwUpdate host s
  | .configImageUpdate host => Sys2Proof.Machine.execConfigImageUpdate host s
  | .fwUpdateDone => Sys2Proof.Machine.execFwUpdateDone s
  | .getCert k => Sys2Proof.Machine.execGetCert k s
  | .getReport n nonce => Sys2Proof.Machine.execGetReport n nonce s
  | .keyRelease v len => Sys2Proof.Machine.execKeyRelease v len s
  | .lcChange v len => Sys2Proof.Machine.execLcChange v len s
  | .doeDiscovery index => Sys2Proof.Machine.execDoeDiscovery index s
  | .cqRecordWrite msgs => Sys2Proof.Machine.execCqRecordWrite msgs s
  | .cqHeadWrite v => Sys2Proof.Machine.execCqHeadWrite v s
  | .cqEnable => Sys2Proof.Machine.execCqEnable s
  | .debugRead a n => Sys2Proof.Machine.execDebugRead a n s
  | .debugWrite a n v => Sys2Proof.Machine.execDebugWrite a n v s
  | .registerWrite a size v => Sys2Proof.Machine.execRegisterWrite a size v s
  | .lockWrite a v => Sys2Proof.Machine.execLockWrite a v s
  | .injSeedWrite a v => Sys2Proof.Machine.execInjSeedWrite a v s
  | .hostCapWrite v => Sys2Proof.Machine.execHostCapWrite v s
  | .freqMaxWrite v => Sys2Proof.Machine.execFreqMaxWrite v s
  | .fltWinWrite c v => Sys2Proof.Machine.execFltWinWrite c v s
  | .testCtlWrite v => Sys2Proof.Machine.execTestCtlWrite v s
  | .rcvPiece n => Sys2Proof.Machine.execRcvPiece n s
  | .d3hotEntry => Sys2Proof.Machine.execD3hotEntry s
  | .d0Return => Sys2Proof.Machine.execD0Return s
  | .pcieError k => Sys2Proof.Machine.execPcieError k s
  | .status => Sys2Proof.Machine.execStatus s
  | .alert => Sys2Proof.Machine.execAlert s
  | .alertResponse => Sys2Proof.Machine.execAlertResponse s
  | .vin => Sys2Proof.Machine.execVin s
  | .pin => Sys2Proof.Machine.execPin s
  | .pclass => Sys2Proof.Machine.execPclass s
  | .tmax => Sys2Proof.Machine.execTmax s
  | .ttile => Sys2Proof.Machine.execTtile s
  | .tstack => Sys2Proof.Machine.execTstack s
  | .capRead => Sys2Proof.Machine.execCapRead s
  | .capWrite v pec => Sys2Proof.Machine.execCapWrite v pec s
  | .freq => Sys2Proof.Machine.execFreq s
  | .stateReqRunning pec => Sys2Proof.Machine.execStateReqRunning pec s
  | .stateReqQuiet pec => Sys2Proof.Machine.execStateReqQuiet pec s
  | .stateReqHold pec => Sys2Proof.Machine.execStateReqHold pec s
  | .resetReqCold key pec => Sys2Proof.Machine.execResetReqCold key pec s
  | .resetReqModule key pec => Sys2Proof.Machine.execResetReqModule key pec s
  | .id => Sys2Proof.Machine.execId s
  | .plogSel v pec => Sys2Proof.Machine.execPlogSel v pec s
  | .plog => Sys2Proof.Machine.execPlog s
  | .bypass => Sys2Proof.Machine.execBypass s
  | .idcode => Sys2Proof.Machine.execIdcode s
  | .samplePreload => Sys2Proof.Machine.execSamplePreload s
  | .extest => Sys2Proof.Machine.execExtest s
  | .highz => Sys2Proof.Machine.execHighz s
  | .clamp => Sys2Proof.Machine.execClamp s
  | .internalDebug n => Sys2Proof.Machine.execInternalDebug n s
  | .trstAssert => Sys2Proof.Machine.execTrstAssert s
  | .droopWarning t => Sys2Proof.Machine.execDroopWarning t s
  | .droopClockStep t => Sys2Proof.Machine.execDroopClockStep t s
  | .supplyRecovery t => Sys2Proof.Machine.execSupplyRecovery t s
  | .powerFail t => Sys2Proof.Machine.execPowerFail t s
  | .inputUvlo => Sys2Proof.Machine.execInputUvlo s
  | .inputOvervoltage => Sys2Proof.Machine.execInputOvervoltage s
  | .powerGood => Sys2Proof.Machine.execPowerGood s
  | .bootStageDone res => Sys2Proof.Machine.execBootStageDone res s
  | .ready ms => Sys2Proof.Machine.execReady ms s
  | .perstAssert => Sys2Proof.Machine.execPerstAssert s
  | .perstDeassert => Sys2Proof.Machine.execPerstDeassert s
  | .vcmFault n => Sys2Proof.Machine.execVcmFault n s
  | .ivrCellFail t j => Sys2Proof.Machine.execIvrCellFail t j s
  | .railSag k t => Sys2Proof.Machine.execRailSag k t s
  | .sagRecovery k t => Sys2Proof.Machine.execSagRecovery k t s
  | .fastTrip k t => Sys2Proof.Machine.execFastTrip k t s
  | .fastTripRelease k t => Sys2Proof.Machine.execFastTripRelease k t s
  | .headerStage c settled => Sys2Proof.Machine.execHeaderStage c settled s
  | .pweEstimate k acts => Sys2Proof.Machine.execPweEstimate k acts s
  | .vcmPowerSample ps cls vin => Sys2Proof.Machine.execVcmPowerSample ps cls vin s
  | .capControlTick p => Sys2Proof.Machine.execCapControlTick p s
  | .thermalSample tiles edges mgmt => Sys2Proof.Machine.execThermalSample tiles edges mgmt s
  | .thermalEvaluation => Sys2Proof.Machine.execThermalEvaluation s
  | .thermalCeilingRaise t => Sys2Proof.Machine.execThermalCeilingRaise t s
  | .shedReturn t => Sys2Proof.Machine.execShedReturn t s
  | .voltageMonitorSample xs => Sys2Proof.Machine.execVoltageMonitorSample xs s
  | .modclkLoss => Sys2Proof.Machine.execModclkLoss s
  | .modclkReturn => Sys2Proof.Machine.execModclkReturn s
  | .errorRecord n t => Sys2Proof.Machine.execErrorRecord n t s
  | .plogCopy => Sys2Proof.Machine.execPlogCopy s
  | .plogCopyTimeout n => Sys2Proof.Machine.execPlogCopyTimeout n s
  | .takeoverDone t => Sys2Proof.Machine.execTakeoverDone t s
  | .poisonRepairDone chunk poisoned rows => Sys2Proof.Machine.execPoisonRepairDone chunk poisoned rows s
  | .testRound runs => Sys2Proof.Machine.execTestRound runs s
  | .testReferee q dig => Sys2Proof.Machine.execTestReferee q dig s
  | .watchdogExpire since => Sys2Proof.Machine.execWatchdogExpire since s
  | .sramUe => Sys2Proof.Machine.execSramUe s
  | .mgmtRestartDone => Sys2Proof.Machine.execMgmtRestartDone s
  | .linkRetrySend p => Sys2Proof.Machine.execLinkRetrySend p s
  | .xchDescDone k => Sys2Proof.Machine.execXchDescDone k s
  | .ckptOutDone n => Sys2Proof.Machine.execCkptOutDone n s
  | .copyInDone n host => Sys2Proof.Machine.execCopyInDone n host s
  | .copyOutDone n => Sys2Proof.Machine.execCopyOutDone n s
  | .undefinedCommandCode => Sys2Proof.Machine.execUndefinedCommandCode s
  | .doeUnknownType type => Sys2Proof.Machine.execDoeUnknownType type s
  | .testLogicResetExit => Sys2Proof.Machine.execTestLogicResetExit s
  | .testLogicResetEntry => Sys2Proof.Machine.execTestLogicResetEntry s

end Sys2Proof.Machine
end

