-- ==== Sys2Proof/Machine/Step.lean ====
section
/-!
DEFINITION. Machine/Step.lean: the step takes the command at the front of the queue.
-/
namespace Sys2Proof.Machine

/-- One step: the command at the front of the queue takes effect; on an empty queue one router cycle passes (log 2). -/
def step (s : State) : Host.Outcome State Fault Refusal :=
  match s.pending with
  | [] => .next { s with dev := { s.dev with now := s.dev.now + 1 } }
  | c :: rest => exec c { s with pending := rest }

/-- The state with the command a table word spells in front of its queue. The operation table gives no row any bits, so no
word spells a command. -/
def State.withFetchWord (s : State) (nbits w : Nat) : State :=
  match decodeTableWord nbits w with
  | some c => { s with pending := c :: s.pending }
  | none => s

end Sys2Proof.Machine
end

