-- ==== Sys2Proof/Safety.lean ====
section
/-!
DEFINITION. Safety.lean: what a safe run is, in the terms the claims use.
-/
namespace Sys2Proof.Safety
open Sys2Proof.Machine

/-- Command i completes in s: exec answers a next state whose module is d and whose queue is that of s. -/
def becomes (i : Instr) (s : State) (d : Dev) : Prop := exec i s = .next { s with dev := d }

/-- Command i completes in s: exec answers a next state with the queue of s and a module of which P holds. -/
def answers (i : Instr) (s : State) (P : Dev → Prop) : Prop := ∃ t, exec i s = .next t ∧ t.pending = s.pending ∧ P t.dev

/-- Every byte of memory reads in e as it does in d. -/
def sameMem (d e : Dev) : Prop := ∀ a, readByte e a = readByte d a

/-- Memory, the accumulator files and core c's vector registers are in e what they are in d. -/
def keepsData (c : Nat) (d e : Dev) : Prop :=
  sameMem d e ∧ e.acc = d.acc ∧ (Machine.core e c).vregs = (Machine.core d c).vregs ∧ (Machine.core e c).vpois = (Machine.core d c).vpois

/-- A running clause whose bundle has issued: issue goes to bundle pc, n cycles on (R210). -/
def issued (r : RunSt) (pc n : Nat) : RunSt :=
  { r with pc := pc, slot := 0, cyc := r.cyc + n, await := none, waitObj := none, released := false }

/-- The command that issues a matrix slot operation on core c. -/
def matCommand (o : MatOp) (c : Nat) : Instr :=
  match o with
  | .nop => .nop c
  | .msparse _ _ _ _ _ => .msparse c
  | .mmask _ _ _ _ _ _ => .mmask c
  | .mdense _ _ _ _ _ => .mdense c
  | .spill _ _ _ _ _ _ => .spill c
  | .accld _ _ _ _ => .accld c
  | .accclr _ _ _ => .accclr c

/-- The command that issues a vector slot operation on core c. -/
def vecCommand (fn : VecFn) (c : Nat) : Instr :=
  match fn with
  | .vadd => .vadd c
  | .vsub => .vsub c
  | .vmul => .vmul c
  | .vfma => .vfma c
  | .vmax => .vmax c
  | .vmin => .vmin c
  | .vmov => .vmov c
  | .vrcp => .vrcp c
  | .vrsqrt => .vrsqrt c
  | .vsqrt => .vsqrt c
  | .vexp => .vexp c
  | .vexp2 => .vexp2 c
  | .vlog2 => .vlog2 c
  | .vtanh => .vtanh c
  | .vsigm => .vsigm c
  | .vgelu => .vgelu c
  | .vcvt => .vcvt c
  | .vscan => .vscan c
  | .vsum => .vsum c
  | .vmaxr => .vmaxr c
  | .vsoftmax => .vsoftmax c
  | .vrmsnorm => .vrmsnorm c
  | .vlnorm => .vlnorm c
  | .vtopk => .vtopk c

/-- The command that issues a move slot operation on core c. -/
def movCommand (o : MovOp) (c : Nat) : Instr :=
  match o with
  | .nop => .nop c
  | .mcopy _ _ => .mcopy c
  | .mfill _ _ => .mfill c
  | .hset _ _ _ => .hset c
  | .cnc _ _ _ _ _ _ => .cnc c
  | .sleep _ => .sleep c
  | .wake _ => .wake c
  | .sput _ _ => .sput c
  | .xld _ _ => .xld c
  | .xst _ _ => .xst c

/-- The command that issues a control slot operation on core c. -/
def ctlCommand (o : CtlOp) (c : Nat) : Instr :=
  match o with
  | .nop => .nop c
  | .xli _ _ => .xli c
  | .xlih _ _ => .xlih c
  | .xaddi _ _ _ => .xaddi c
  | .xadd _ _ _ => .xadd c
  | .xmuli _ _ _ => .xmuli c
  | .brnz _ _ => .brnz c
  | .loop _ _ => .loop c
  | .endc => .clauseEnd c
  | .br _ => .br c
  | .note _ => .note c
  | .strs _ _ _ => .strs c
  | .stra _ _ _ => .stra c
  | .strc _ => .strc c
  | .strx _ => .strx c
  | .fence _ _ _ _ => .fence c
  | .syncadd _ _ => .syncadd c
  | .syncwait _ _ => .syncwait c

end Sys2Proof.Safety
end

