-- ==== Sys2Proof/Certificates/Slice0/Obligations.lean ====
section
/-!
DEFINITION. Certificates/Slice0/Obligations.lean: the statements for the provers. `becomes` and `answers` (Safety.lean) say that exec
answers a next state with the queue as it was.
-/
open Sys2Proof Sys2Proof.Machine Sys2Proof.Safety

/-- For every command c and state s, a step of s with c at the front of its queue is exec of c on s with the rest of the queue; with
an empty queue it passes one router cycle and changes nothing else (that an idle step is one router cycle is this model's
choice, log 2). -/
def Obligations.StepTakesTheFrontCommand : Prop :=
  ∀ (c : Instr) (s : State) (rest : List Instr),
    step { s with pending := c :: rest } = exec c { s with pending := rest } ∧
      step { s with pending := [] } = .next { s with pending := [], dev := { s.dev with now := s.dev.now + 1 } }

/-- For every command i (every constructor of Instr, at every operand) and every state s, exec of i on s answers a next state with
the queue of s: no command of the table is refused or faults, and none changes the queue. A step answers a next state whose
queue is the old queue without its first command. (What each command does where its rules let it act is the business of the
statements of its family.) -/
def Obligations.EveryStepCompletesAndConsumesOneCommand : Prop :=
  (∀ (i : Instr) (s : State), ∃ t, exec i s = .next t ∧ t.pending = s.pending) ∧
    ∀ s : State, ∃ t, step s = .next t ∧ t.pending = s.pending.tail

/-- State.reset holds the reset values the register tables give: HIF_STATUS reads 0, HIF_CQ_CTL.SIZE_LOG2 6, HIF_PAN_CONS.PHASE 1,
both power caps 1,800, FREQ_MAX 80, the tick generator stopped, scrub periods 12 h. No command waits, memory is in its canonical
form, no context is resident. (That an unlisted byte reads 0 is log 3's choice and is not claimed here.) -/
def Obligations.ResetRegistersAndMemory : Prop :=
  getR State.reset.dev HIF_STATUS = 0 ∧ getF State.reset.dev HIF_CQ_CTL HIF_CQ_CTL_SIZE_LOG2 = 6 ∧
    getB State.reset.dev HIF_PAN_CONS HIF_PAN_CONS_PHASE = true ∧
    getF State.reset.dev PWR_CAP_HOST PWR_CAP_HOST_CAP = 1800 ∧ getF State.reset.dev PWR_CAP_BMC PWR_CAP_BMC_CAP = 1800 ∧
    getF State.reset.dev FREQ_MAX FREQ_MAX_CODE = 80 ∧ getB State.reset.dev TG_CTL TG_CTL_RUN = false ∧
    getF State.reset.dev (CC_SCRUB_CTL 63 1) CC_SCRUB_CTL_PERIOD_H = 12 ∧ State.reset.pending = [] ∧
    memWf State.reset.dev.mem ∧ State.reset.dev.res.fg = none

/-- For every state whose memory lists strictly rising addresses and no byte equal to what an unlisted address reads as, the next
state of a step, whatever command is at the front, has such a memory: equal memories stay equal data. The canonical form is the
model's own (log 3). -/
def Obligations.EveryStepKeepsMemoryCanonical : Prop :=
  ∀ s t : State, memWf s.dev.mem → step s = .next t → memWf t.dev.mem

/-- For every bundle b, with every field of every slot operation at every value its width admits, the decoder reads the 128 bits of
b as b: no field of an encoding of R209, R216, R218, R222 and R224 is dropped or overlaps another. -/
def Obligations.BundleDecodeOfEncode : Prop :=
  ∀ b : Bundle, Bundle.ofBits b.toBits = some b

/-- If the decoder reads a bundle b from 128 bits x, the encoding of b is x: one bundle has one encoding, and every word with a
reserved bit set or an undefined opcode is refused. -/
def Obligations.BundleEncodeOfDecode : Prop :=
  ∀ (x : BitVec 128) (b : Bundle), Bundle.ofBits x = some b → b.toBits = x

/-- Words written bit by bit from the matrix, vector, move and control slot tables: MSPARSE, SPILL, VCVT, CNC, XADDI with IMM14 -1,
BRNZ and SYNCADD read as written; a set reserved bit, opcode 0x07 of the matrix slot and 0x12 of the control slot read as
nothing. -/
def Obligations.SlotWordsReadAsTheTablesGiveThem : Prop :=
  MatOp.ofWord 0b00000000001010000001100110000001 = some (.msparse 2 1 0 3 5) ∧
    MatOp.ofWord 0b00000001100111110100000100000100 = some (.spill 0 2 125 0 0 3) ∧
    VecOp.ofWord 0b00000100000110000000000010010001 = some (.op .vcvt 0 1 0 3 2) ∧
    MovOp.ofWord 0b00110001000011000010000001000100 = some (.cnc 1 2 3 1 2 1) ∧
    CtlOp.ofWord 0b11111111111111000010000001000011 = some (.xaddi 1 2 (-1)) ∧
    CtlOp.ofWord 0b00000001111111111111000101000110 = some (.brnz 5 (-1)) ∧
    CtlOp.ofWord 0b00001111111100000000000001010000 = some (.syncadd 1 255) ∧
    MatOp.ofWord 0b10000000001010000001100110000001 = none ∧ MatOp.ofWord 7 = none ∧ CtlOp.ofWord 0x12 = none

/-- Over all 256 codes: every SDX8W code decodes to a finite number and 0x80 to -0; SDX8G code 0x80 decodes to NaN, every other
SDX8G code to a finite number, and none to -0. -/
def Obligations.Sdx8CodesFiniteOrNaN : Prop :=
  (∀ c < 256, isNF (decodeNum fSdx8W c) = false) ∧
    (isZero (decodeNum fSdx8W 0x80) = true ∧ signOf (decodeNum fSdx8W 0x80) = true) ∧
    isNaN (decodeNum fSdx8G 0x80) = true ∧ (∀ c < 256, c ≠ 0x80 → isNF (decodeNum fSdx8G c) = false) ∧
    (∀ c < 256, ¬ (isZero (decodeNum fSdx8G c) = true ∧ signOf (decodeNum fSdx8G c) = true))

/-- For SDX32, SDX16 and the long sum, round-to-nearest-even of the value of any code that is not a NaN returns that code; for SDX8W
of any code; for SDX8G of any code but 0x80 (R75 to R78, R85, R90). -/
def Obligations.FormatsEncodeWhatTheyDecode : Prop :=
  (∀ F ∈ [fSdx32, fSdx16, fLong], ∀ c < 2 ^ (F.mag + 1), isNaN (decodeNum F c) = false →
      encodeNum F .rne (decodeNum F c) = c) ∧
    (∀ c < 256, encodeNum fSdx8W .rne (decodeNum fSdx8W c) = c) ∧
    (∀ c < 256, c ≠ 0x80 → encodeNum fSdx8G .rne (decodeNum fSdx8G c) = c)

/-- For every core number below 320, bank below 128 and row below 32, the module-local address of the row decodes to that core's
shelf window at byte offset (r x 128 + b) x 128, below 512 KiB. -/
def Obligations.ShelfRowsAppearInTheirWindow : Prop :=
  ∀ c b r, c < 320 → b < 128 → r < 32 →
    regionOf (shelfRowAddr c b r) = .shelf c ((r * 128 + b) * 128) ∧ (r * 128 + b) * 128 + 128 ≤ 512 * 1024

/-- For a valid, well-formed handle entry of the partition of rows lo to hi - 1 (hi at most 32), index j of logical row q below LEN
lies in bank BANK_BASE + (i mod BANK_COUNT) and row ROW_BASE + i div BANK_COUNT with i = w x q + j (R150), that bank is below
128 and that row is at least lo and below hi (R151). -/
def Obligations.HandleIndicesStayInTheirPartition : Prop :=
  ∀ h lo hi q j, hValid h = true → hWf h lo hi = true → hi ≤ 32 → q < hLen h → j < hW h →
    hLoc h (hW h * q + j) =
        (hBankBase h + (hW h * q + j) % hBankCount h, hRowBase h + (hW h * q + j) / hBankCount h) ∧
      (hLoc h (hW h * q + j)).1 < 128 ∧ lo ≤ (hLoc h (hW h * q + j)).2 ∧ (hLoc h (hW h * q + j)).2 < hi

/-- From stage 3 of a start on (smFull), each read of Table "SMBus commands" completes by answering its bytes (a block read led by
its count) with their PEC; the module is otherwise unchanged, but ALERT clears the alert word and releases SMBALERT#. ID is that
of a module whose fuse words pass their check; ALERT_RESPONSE answers the device address while SMBALERT# is asserted; PLOG
answers the selected persistent-log record (erased flash as ones); an undefined code is answered with NACK (R487, R488). The
packet error code and the addressing byte follow the SMBus standard (log 55). -/
def Obligations.SmbusReadsAnswer : Prop :=
  ∀ s : State, smFull s.dev = true →
    becomes (.status) s (smAnswer s.dev 0x01 (bytesOf 2 (b2n (isReady s.dev) + fv 1 3 (lcState s.dev) + fv 4 2 (getF s.dev PWR_STATUS PWR_STATUS_SUPPLY) +
          fv 6 1 (getF s.dev PWR_STATUS PWR_STATUS_CAP_UNMET) + fv 7 1 (b2n (s.dev.alert != 0)) + fv 8 2 (pState s.dev)))) ∧
    becomes (.vin) s (smAnswer s.dev 0x10 (bytesOf 2 (getR s.dev PWR_IN_V))) ∧
    becomes (.pin) s (smAnswer s.dev 0x11 (bytesOf 2 (getR s.dev PWR_IN_P))) ∧
    becomes (.pclass) s (smAnswer s.dev 0x12 (8 :: (bytesOf 4 (getR s.dev PWR_CLASS_0) ++ bytesOf 4 (getR s.dev PWR_CLASS_1)))) ∧
    becomes (.tmax) s (smAnswer s.dev 0x13 (bytesOf 2 (getR s.dev THM_MAX % 2 ^ 14))) ∧
    becomes (.ttile) s (smAnswer s.dev 0x14 (64 :: (List.range 64).map (fun t => min 255 (s.dev.heat.junction.get t 0)))) ∧
    becomes (.tstack) s (smAnswer s.dev 0x15 (128 :: (List.range 128).map (fun n => getF s.dev (CC_TEMP (n / 2) (n % 2)) CC_TEMP_TEMP_C))) ∧
    becomes (.capRead) s (smAnswer s.dev 0x20 (bytesOf 2 (getR s.dev PWR_CAP_BMC))) ∧
    becomes (.freq) s (smAnswer s.dev 0x21 (bytesOf 2 (getR s.dev FREQ_STATUS % 2 ^ 16))) ∧
    becomes (.alert) s (setB { (smAnswer s.dev 0x02 (bytesOf 2 s.dev.alert)) with alert := 0 } SB_SMB SB_SMB_ALERT false) ∧
    (getB s.dev SB_SMB SB_SMB_ALERT = true →
      becomes (.alertResponse) s
        ({ s.dev with out := s.dev.out ++ [.smbus ([smAddr s.dev, crc8 [0x19, smAddr s.dev]].map (BitVec.ofNat 8))] })) ∧
    (s.dev.boot.fuseBad = false → becomes (.id) s (smAnswer s.dev 0x40 (32 :: (bytesOf 8 Config.deviceId ++ (ascii "OZW2-128-A" ++ List.replicate 6 0) ++
      [getF s.dev FAB_LEVEL FAB_LEVEL_LINK_LEVEL, getF s.dev FAB_LEVEL FAB_LEVEL_NUM_LEVEL, getF s.dev SEC_LC SEC_LC_LC_FUSE] ++
      List.replicate 5 0)))) ∧
    becomes (.plog) s (smAnswer s.dev 0x42
      (64 :: bytesOf 64 ((s.dev.flt.plog.find s.dev.boot.plogSel).getD (BitVec.allOnes 512)).toNat)) ∧
    becomes (.undefinedCommandCode) s ({ s.dev with out := s.dev.out ++ [.smbusNack] })

/-- From stage 3 on, with the PEC of the bytes written: CAP within 600 to 1,800 sets PWR_CAP_BMC, and its consequences follow where
the effective cap changes; STATE_REQ on a ready module is taken as a power-state request; RESET_REQ with 0xA5 in its upper byte
starts a cold or a module reset unless one of equal or higher rank is under way; PLOG_SEL selects a record. With any other PEC
each of these writes leaves the whole state as it is (R432, R487, R500, R507). -/
def Obligations.SmbusWritesTakeEffect : Prop :=
  ∀ (s : State) (v key pec : Nat), smFull s.dev = true →
    (600 ≤ v → v ≤ 1800 → pCap (setF s.dev PWR_CAP_BMC PWR_CAP_BMC_CAP v) ≠ pCap s.dev →
      becomes (.capWrite v (crc8 ([smAddr s.dev, 0x20] ++ bytesOf 2 v))) s
        (capChanged (setF s.dev PWR_CAP_BMC PWR_CAP_BMC_CAP v))) ∧
    (isReady s.dev = true →
      becomes (.stateReqRunning (crc8 [smAddr s.dev, 0x30, 0])) s (powerSmbus 0 s.dev) ∧
      becomes (.stateReqQuiet (crc8 [smAddr s.dev, 0x30, 1])) s (powerSmbus 1 s.dev) ∧
      becomes (.stateReqHold (crc8 [smAddr s.dev, 0x30, 2])) s (powerSmbus 2 s.dev)) ∧
    (key = 0xA5 → absorbed s.dev 1 = false →
      becomes (.resetReqCold key (crc8 [smAddr s.dev, 0x31, 1, 0xA5])) s (powerOff 8 s.dev)) ∧
    (key = 0xA5 → absorbed s.dev 3 = false →
      becomes (.resetReqModule key (crc8 [smAddr s.dev, 0x31, 2, 0xA5])) s (romStart (beginWipe 3 8 s.dev) 3)) ∧
    becomes (.plogSel v (crc8 ([smAddr s.dev, 0x41] ++ bytesOf 2 v))) s
      { s.dev with boot := { s.dev.boot with plogSel := v % 32768 } } ∧
    (pec ≠ crc8 ([smAddr s.dev, 0x20] ++ bytesOf 2 v) → exec (.capWrite v pec) s = .next s) ∧
    (pec ≠ crc8 [smAddr s.dev, 0x30, 0] → exec (.stateReqRunning pec) s = .next s) ∧
    (pec ≠ crc8 [smAddr s.dev, 0x30, 1] → exec (.stateReqQuiet pec) s = .next s) ∧
    (pec ≠ crc8 [smAddr s.dev, 0x30, 2] → exec (.stateReqHold pec) s = .next s) ∧
    (pec ≠ crc8 [smAddr s.dev, 0x31, 1, key % 256] → exec (.resetReqCold key pec) s = .next s) ∧
    (pec ≠ crc8 [smAddr s.dev, 0x31, 2, key % 256] → exec (.resetReqModule key pec) s = .next s) ∧
    (pec ≠ crc8 ([smAddr s.dev, 0x41] ++ bytesOf 2 v) → exec (.plogSel v pec) s = .next s)

/-- In a powered module with a session active, and no pin-driving instruction in force: BYPASS, IDCODE (which also shifts out
0x10A2_056B), SAMPLE/PRELOAD outside Scrapped, and an internal debug instruction in Blank or Returned come into force; EXTEST,
HIGHZ and CLAMP with no context resident outside Scrapped come into force and drive the pins, which takes the links down; an
internal debug instruction in Provisioned or Deployed runs as BYPASS. Leaving Test-Logic-Reset sets SESSION; entering it, or
asserting TRST#, clears SESSION and DEBUG, releases the pins and loads IDCODE (R489; that IDCODE is loaded is log 46). -/
def Obligations.JtagInstructionsComeIntoForce : Prop :=
  ∀ (s : State) (n : Nat), s.dev.boot.off = false →
    becomes (.testLogicResetExit) s (setB s.dev SB_JTAG SB_JTAG_SESSION true) ∧
    (∃ t, exec (.testLogicResetEntry) s = .next t ∧ t.pending = s.pending ∧ getB t.dev SB_JTAG SB_JTAG_SESSION = false ∧
      getB t.dev SB_JTAG SB_JTAG_DEBUG = false ∧ getB t.dev SB_JTAG SB_JTAG_PINS = false ∧ t.dev.jtag.ir = 0x01) ∧
    (∃ t, exec (.trstAssert) s = .next t ∧ t.pending = s.pending ∧ getB t.dev SB_JTAG SB_JTAG_SESSION = false ∧
      getB t.dev SB_JTAG SB_JTAG_DEBUG = false ∧ getB t.dev SB_JTAG SB_JTAG_PINS = false ∧ t.dev.jtag.ir = 0x01) ∧
    (getB s.dev SB_JTAG SB_JTAG_SESSION = true → getB s.dev SB_JTAG SB_JTAG_PINS = false →
    becomes (.bypass) s (setB { s.dev with jtag := { s.dev.jtag with ir := 0xFF } } SB_JTAG SB_JTAG_DEBUG false) ∧
    (∃ t, exec (.idcode) s = .next t ∧ t.pending = s.pending ∧ t.dev.jtag.ir = 0x01 ∧ t.dev.out = s.dev.out ++ [.tdo 0x10A2056B] ∧
      getB t.dev SB_JTAG SB_JTAG_DEBUG = false) ∧
    (lcState s.dev ≠ 4 → becomes (.samplePreload) s (setB { s.dev with jtag := { s.dev.jtag with ir := 0x02 } } SB_JTAG SB_JTAG_DEBUG false)) ∧
    (lcState s.dev ≠ 4 → noneResident s.dev = true →
      becomes (.extest) s
        (setB { (pinsOn s.dev) with jtag := { (pinsOn s.dev).jtag with ir := 0x00 } } SB_JTAG SB_JTAG_DEBUG false) ∧
      becomes (.highz) s
        (setB { (pinsOn s.dev) with jtag := { (pinsOn s.dev).jtag with ir := 0x03 } } SB_JTAG SB_JTAG_DEBUG false) ∧
      becomes (.clamp) s
        (setB { (pinsOn s.dev) with jtag := { (pinsOn s.dev).jtag with ir := 0x04 } } SB_JTAG SB_JTAG_DEBUG false)) ∧
    (n < 16 → lcState s.dev = 0 ∨ lcState s.dev = 3 → becomes (.internalDebug n) s (setB { s.dev with jtag := { s.dev.jtag with ir := 0x40 + n } } SB_JTAG SB_JTAG_DEBUG true)) ∧
    (lcState s.dev = 1 ∨ lcState s.dev = 2 → becomes (.internalDebug n) s (setB { s.dev with jtag := { s.dev.jtag with ir := 0xFF } } SB_JTAG SB_JTAG_DEBUG false)))

/-- On a ready module with its PCIe link up whose mailbox is free (its management core does not restart, no report is held): an
unknown type is answered with status 1; discovery of index 0 to 4 answers its protocol and the next index, and above 4 protocol
0xFFFF; GET_CERT of index 0 or 1 answers the 5,432 B certificate; GET_REPORT of a defined context, with no accepted request
still to take effect, answers the 5,184 B report, which becomes the context's latest; with one, the report is held; in Blank and
Scrapped certificate and report are refused with status 3. On a ready module whose mailbox is not free, each of the five vendor
requests is answered with status 8 (R400 to R403, R415). The discovery object's layout is log 50, which requests a report waits
for log 110. -/
def Obligations.DoeObjectsAreAnswered : Prop :=
  ∀ (s : State) (k n nonce type index v len : Nat), (doeOn s.dev = true →
    becomes (.doeUnknownType type) s (doeSend s.dev (doeObj type 4 1)) ∧
    becomes (.doeDiscovery index) s (doeSend s.dev ((bytesOf 12 (1 + fv 32 18 3 + fv 64 32 (if index % 256 = 0 then fv 0 16 1 + fv 24 8 1
      else if index % 256 ≤ 4 then fv 0 16 0x1FA7 + fv 16 8 (0x7F + index % 256) + fv 24 8 (if index % 256 = 4 then 0 else index % 256 + 1)
      else 0xFFFF))).map (BitVec.ofNat 8))) ∧
    (k ≤ 1 → noIdentity s.dev = false →
      becomes (.getCert k) s (doeSend s.dev (doeObj 0x80 5432 (certOf s.dev k)))) ∧
    (n < 16384 → unapplied s.dev ≠ [] →
      becomes (.getReport n nonce) s { s.dev with doeHeld := some { ctx := n, nonce := nonce, tags := unapplied s.dev } }) ∧
    (n < 16384 → noIdentity s.dev = false → ctxBits s.dev n 0 1 = 1 → unapplied s.dev = [] →
      ∃ t, exec (.getReport n nonce) s = .next t ∧ t.pending = s.pending ∧
        t.dev.out = s.dev.out ++ [.doe (doeObj 0x81 5184 (reportOf s.dev n nonce))] ∧
        (keysOf t.dev n).report = some (natOfBytes (sha384 (bytesOf 5184 (reportOf s.dev n nonce)))) ∧ sameMem s.dev t.dev) ∧
    (k ≤ 1 → noIdentity s.dev = true → becomes (.getCert k) s (doeStatus s.dev 0x80 3)) ∧
    (n < 16384 → noIdentity s.dev = true → unapplied s.dev = [] → becomes (.getReport n nonce) s (doeStatus s.dev 0x81 3))) ∧
    (doeUp s.dev = true → doeFree s.dev = false → becomes (.doeUnknownType type) s (doeStatus s.dev type 8) ∧
      becomes (.getCert k) s (doeStatus s.dev 0x80 8) ∧ becomes (.getReport n nonce) s (doeStatus s.dev 0x81 8) ∧
      becomes (.keyRelease v len) s (doeStatus s.dev 0x82 8) ∧ becomes (.lcChange v len) s (doeStatus s.dev 0x83 8))

/-- A well-formed release for a context in STATE 1, made for its latest report and with its ephemeral pair: a shared secret of 0 or
a failed seal counts a failure; a link key slot of 0 or one in use is refused with status 6; otherwise the keys are installed,
the context gets its link slot and a fresh Cellar key, and enters STATE 2 (R404, R405). A release for another state is refused
with status 2. LC_CHANGE to a state with no transition is refused with status 3; a transition that needs no token answers status
0, blows its fuse and starts a module reset that derives the identity keys again (R415 to R417). -/
def Obligations.KeyReleaseAndLifeCycleChange : Prop :=
  (∀ (s : State) (v : Nat) (e : Nat × Nat), doeOn s.dev = true → bits v 0 32 = 1 → bits v 32 32 < 16384 → bits v 9409 7 = 0 → bits v 9424 48 = 0 →
    (ctxBits s.dev (bits v 32 32) 0 1 = 1 → ctxState s.dev (bits v 32 32) = 1 → (keysOf s.dev (bits v 32 32)).eph = some e →
      (keysOf s.dev (bits v 32 32)).report = some (bits v 64 384) →
      becomes (.keyRelease v 1264) s
        (if x25519 e.1 (bits v 448 256) = 0 then releaseFail s.dev (bits v 32 32)
        else match gcmOpen (releaseKek v (x25519 e.1 (bits v 448 256)) (mlkemDecaps e.2 (bits v 704 8704)) (x25519Public e.1))
            (List.replicate 12 0) (bytesOf 1184 v) (bytesOf 64 (v >>> 9472)) (bytesOf 16 (v >>> 9984)) with
          | none => releaseFail s.dev (bits v 32 32)
          | some keys =>
            if bits v 9416 8 = 0 ∨ getBitAt s.dev (SEC_LKEYS 0) (bits v 9416 8) then doeStatus s.dev 0x82 6
            else releaseKeys s.dev (bits v 32 32) v (natOfBytes keys))) ∧
    (ctxState s.dev (bits v 32 32) ≠ 1 → becomes (.keyRelease v 1264) s (doeStatus s.dev 0x82 2))) ∧
  (∀ (s : State) (v : Nat), doeOn s.dev = true → bits v 0 32 ≤ 4 →
    (lcStep (getF s.dev SEC_LC SEC_LC_LC_FUSE) (bits v 0 32) = none →
      becomes (.lcChange v 4) s (doeStatus s.dev 0x83 3)) ∧
    (∀ b, lcStep (getF s.dev SEC_LC SEC_LC_LC_FUSE) (bits v 0 32) = some (b, false) →
      becomes (.lcChange v 4) s (moduleReset 32
        { (blowLc (doeStatus s.dev 0x83 0) b) with boot := { (blowLc (doeStatus s.dev 0x83 0) b).boot with rekey := true } })))

/-- For every LOCK register, a LOCK_WRITE of any value to any register, and a REGISTER_WRITE of any size and value to the LOCK
register, leave a set LOCK bit set: "Once software sets a block's LOCK bit, that bit cannot be cleared by any write" (R11).
Neither changes a byte of memory. The reset half of R11, and writes of other registers, are not claimed here. -/
def Obligations.LockBitsAreNeverClearedByAWrite : Prop :=
  ∀ (s : State) (a size v l : Nat), isLock l = true → getB s.dev l MOD_LOCK_LOCK = true →
    (answers (.registerWrite l size v) s fun d => getB d l MOD_LOCK_LOCK = true ∧ sameMem s.dev d) ∧
    (answers (.lockWrite a v) s fun d => getB d l MOD_LOCK_LOCK = true ∧ sameMem s.dev d)

/-- A served word write of a register with no effect of its own (the debug window base, as R9, R10 and R490 give it): BASE takes the
value's low 19 bits, reserved bits stay 0, every other register and every byte of memory reads as before. A write of another
size, or to a block that does not answer, changes nothing (R474). -/
def Obligations.RegisterWritesFollowTheirAccessCodes : Prop :=
  ∀ (s : State) (v : Nat), barOk s.dev HIF_DBG_BASE 4 = true → getR s.dev HIF_DBG_BASE < 2 ^ 19 →
    (∃ t, exec (.registerWrite HIF_DBG_BASE 4 v) s = .next t ∧ t.pending = s.pending ∧ getR t.dev HIF_DBG_BASE = v % 2 ^ 19 ∧
      (∀ a, a ≠ HIF_DBG_BASE → getR t.dev a = getR s.dev a) ∧ sameMem s.dev t.dev) ∧
    (∀ a size, barOk s.dev a size = false → exec (.registerWrite a size v) s = .next s)

/-- A served LOCK write of 1 sets the bit; a port's or a tile's seed write loads its generator (0 loads 1); a host cap of 600 to
1,800 that changes the effective cap sets PWR_CAP_HOST and what follows from it; a FREQ_MAX of at most 80 is stored and the
ceiling is found again; a fault window entry takes N and WINDOW where R457 allows, a test control write EN and PERIOD_S. -/
def Obligations.HostRegisterCommandsTakeEffect : Prop :=
  ∀ (s : State) (a c v : Nat),
    (barOk s.dev a 4 = true → isLock a = true → bit v 0 = true →
      becomes (.lockWrite a v) s (setB s.dev a MOD_LOCK_LOCK true)) ∧
    (barOk s.dev (MSH_INJ_SEED 5) 4 = true → ∃ t, exec (.injSeedWrite (MSH_INJ_SEED 5) v) s = .next t ∧ t.pending = s.pending ∧
      t.dev.meshInj.gen.get 5 1 = (if v % 2 ^ 32 = 0 then 1 else BitVec.ofNat 32 v) ∧ sameMem s.dev t.dev) ∧
    (barOk s.dev PWR_CAP_HOST 4 = true → 600 ≤ v → v ≤ 1800 → pCap (setF s.dev PWR_CAP_HOST PWR_CAP_HOST_CAP v) ≠ pCap s.dev →
      becomes (.hostCapWrite v) s (capChanged (setF s.dev PWR_CAP_HOST PWR_CAP_HOST_CAP v))) ∧
    (barOk s.dev FREQ_MAX 4 = true → v ≤ 80 →
      becomes (.freqMaxWrite v) s (newCeiling (setF s.dev FREQ_MAX FREQ_MAX_CODE v))) ∧
    (barOk s.dev (FLT_WIN c) 4 = true → fltWinDefaults.any (fun r => r.1 == c && r.2.2 != 0) = true → bits v 0 4 ≤ 8 → bits v 4 20 ≠ 0 →
      becomes (.fltWinWrite c v) s (setF (setF s.dev (FLT_WIN c) FLT_WIN_N (bits v 0 4)) (FLT_WIN c) FLT_WIN_SPAN_S (bits v 4 20))) ∧
    (barOk s.dev FLT_TEST_CTL 4 = true → becomes (.testCtlWrite v) s (keepTest (setF (setF s.dev FLT_TEST_CTL FLT_TEST_CTL_EN v) FLT_TEST_CTL FLT_TEST_CTL_PERIOD_S (v / 2))))

/-- CQ_RECORD_WRITE with the ring enabled and room: the oldest queued record goes to host address base + 32 x TAIL as its 32 bytes
with the current phase, TAIL moves on modulo the ring size, and the phase flips when TAIL wraps; without room, and with no
message due, nothing changes (R483, R484). No report waits for the request it completes (R401). Where BAR0 serves them:
CQ_ENABLE on a disabled ring sets EN, both indices to 0 and the phase to 1; CQ_HEAD_WRITE stores HEAD; while EN is 1, writes of
the ring base are ignored and SIZE_LOG2 keeps its value (R484). -/
def Obligations.CompletionRingRecordsAndRegisters : Prop :=
  (∀ (s : State) (r : CqRec) (rest : List CqRec), s.dev.cqQueue = r :: rest → s.dev.doeHeld = none →
    (cqRoom s.dev = true → ∃ t, exec (.cqRecordWrite false) s = .next t ∧ t.pending = s.pending ∧
      t.dev.out = s.dev.out ++ [.hostWrite (get64 s.dev HIF_CQ_BASE_LO HIF_CQ_BASE_HI + 32 * getF s.dev HIF_CQ_TAIL HIF_CQ_TAIL_TAIL) 32
        (cqBytes r s.dev.cqPhase)] ∧
      getF t.dev HIF_CQ_TAIL HIF_CQ_TAIL_TAIL = (getF s.dev HIF_CQ_TAIL HIF_CQ_TAIL_TAIL + 1) % cqSize s.dev % 2 ^ 16 ∧
      t.dev.cqPhase = (if (getF s.dev HIF_CQ_TAIL HIF_CQ_TAIL_TAIL + 1) % cqSize s.dev = 0 then 1 - s.dev.cqPhase else s.dev.cqPhase) ∧
      sameMem s.dev t.dev) ∧
    (cqRoom s.dev = false → exec (.cqRecordWrite false) s = .next s)) ∧
  (∀ (s : State) (v : Nat),
    (barOk s.dev HIF_CQ_CTL 4 = true → getB s.dev HIF_CQ_CTL HIF_CQ_CTL_EN = false →
      ∃ t, exec (.cqEnable) s = .next t ∧ t.pending = s.pending ∧ getB t.dev HIF_CQ_CTL HIF_CQ_CTL_EN = true ∧
        getF t.dev HIF_CQ_HEAD HIF_CQ_HEAD_HEAD = 0 ∧ getF t.dev HIF_CQ_TAIL HIF_CQ_TAIL_TAIL = 0 ∧ t.dev.cqPhase = 1) ∧
    (barOk s.dev HIF_CQ_HEAD 4 = true →
      becomes (.cqHeadWrite v) s (setF s.dev HIF_CQ_HEAD HIF_CQ_HEAD_HEAD v)) ∧
    (getB s.dev HIF_CQ_CTL HIF_CQ_CTL_EN = true →
      exec (.registerWrite HIF_CQ_BASE_LO 4 v) s = .next s ∧ exec (.registerWrite HIF_CQ_BASE_HI 4 v) s = .next s ∧
      ∃ t, exec (.registerWrite HIF_CQ_CTL 4 v) s = .next t ∧ t.pending = s.pending ∧
        getF t.dev HIF_CQ_CTL HIF_CQ_CTL_SIZE_LOG2 = getF s.dev HIF_CQ_CTL HIF_CQ_CTL_SIZE_LOG2))

/-- On a ready module outside D3hot with its PCIe link up: a pantry write of n bytes inside the pantry stores exactly those bytes of
the value, every other pantry byte and all of memory unchanged; a pantry read, a log-window read and a read outside every window
answer data and change nothing else (R474, R478). The operand is a BAR2 offset (log 52). With the PCIe link up, a ready module
enters D3hot; on return to D0 it resumes at the next stop tick; each of the 15 errors of Table "AER use" is recorded and
reported through AER on a powered module, and changes no register, no memory, no verdict cause and no error record (R476, R477). -/
def Obligations.DebugWindowsAndPcieFunctionEvents : Prop :=
  (∀ (s : State) (a n v x : Nat), isReady s.dev = true → linkOpen s.dev = true →
    (a + n ≤ 0x40000 → 0 < n → ∃ t, exec (.debugWrite a n v) s = .next t ∧ t.pending = s.pending ∧ sameMem s.dev t.dev ∧
      (a ≤ x → x < a + n → Tbl.get t.dev.pantry x 0 = BitVec.ofNat 8 (v >>> (8 * (x - a)))) ∧
      (x < a ∨ a + n ≤ x → Tbl.get t.dev.pantry x 0 = Tbl.get s.dev.pantry x 0)) ∧
    (a + n ≤ 0x40000 → 0 < n →
      becomes (.debugRead a n) s ({ s.dev with out := s.dev.out ++ [.readData (bytesAt s.dev.pantry a n)] })) ∧
    (0x100000 ≤ a → a + n ≤ 0x180000 → 0 < n → becomes (.debugRead a n) s ({ s.dev with out := s.dev.out ++ [.readData (logBytes s.dev (a - 0x100000) n)] })) ∧
    (0x180000 ≤ a → a < 0x20000000 →
      becomes (.debugRead a n) s ({ s.dev with out := s.dev.out ++ [.readData 0] }))) ∧
  (∀ (s : State) (k : Nat),
    (isReady s.dev = true → linkOpen s.dev = true → becomes (.d3hotEntry) s (setB s.dev HIF_STATUS HIF_STATUS_D3HOT true)) ∧
    (getB s.dev HIF_STATUS HIF_STATUS_D3HOT = true → getB s.dev SB_JTAG SB_JTAG_PINS = false → becomes (.d0Return) s (setB { s.dev with boot := { s.dev.boot with d0wait := true } } HIF_STATUS HIF_STATUS_D3HOT false)) ∧
    (k < 15 → s.dev.boot.off = false →
      becomes (.pcieError k) s ({ s.dev with aer := s.dev.aer ||| 2 ^ k, out := s.dev.out ++ [.aer k] })))

/-- When the issue of core c stands at the matrix slot of a bundle holding operation o (not a no-operation), nothing holds issue and
no parity error has discarded the filler's results, the command of o completes: the operation is appended to the pipe of its
engine (the half it names for SPILL, ACCLD and ACCCLR, else the group engine), with the cycle, the index registers and the
handle entry it reads in that cycle (R211, R216), the slot count moves to the vector slot, and no byte of memory changes. -/
def Obligations.MatrixOperationsIssue : Prop :=
  ∀ (s : State) (c : Nat) (r : RunSt) (b : Bundle), c < 320 → issueHeld s.dev c = false → (core s.dev c).fillBad = false →
    view (attempt s.dev c) c = .go r b → r.slot = 0 → b.mat ≠ .nop →
    becomes (matCommand b.mat c) s
        (modRun (issueMat (setF (attempt s.dev c) (CL_WAIT c) CL_WAIT_WAIT 0) c r b.mat) c (fun r => { r with slot := 1 })) ∧
      (∃ t p, exec (matCommand b.mat c) s = .next t ∧ t.pending = s.pending ∧ sameMem s.dev t.dev ∧
        p.op = .mat b.mat ∧ p.iss = r.cyc ∧ p.start = none ∧
        matOps (core t.dev c) = (match b.mat with
          | .spill h _ _ _ _ _ | .accld h _ _ _ | .accclr h _ _ => if h = 0
            then (core s.dev c).group ++ ((core s.dev c).half0 ++ [p]) ++ (core s.dev c).half1
            else (core s.dev c).group ++ (core s.dev c).half0 ++ ((core s.dev c).half1 ++ [p])
          | _ => ((core s.dev c).group ++ [p]) ++ (core s.dev c).half0 ++ (core s.dev c).half1))

/-- When the issue of core c stands at the vector slot of a bundle holding operation fn, nothing holds issue and no parity error has
discarded the filler's results, the command of fn completes: the vector pipe lists one operation more, with the cycle it issued
in and the index registers its shelf operands name, the slot count moves to the move slot, and no byte of memory, no other pipe
and no index register changes (R211, R218). A VCVT that rounds stochastically also takes one W1 sequence number (R122). -/
def Obligations.VectorOperationsIssue : Prop :=
  ∀ (s : State) (c : Nat) (r : RunSt) (b : Bundle) (fn : VecFn) (fmt : BitVec 1) (x y z : BitVec 6) (m : BitVec 7), c < 320 →
    issueHeld s.dev c = false → (core s.dev c).fillBad = false → view (attempt s.dev c) c = .go r b → r.slot = 1 → b.vec = .op fn fmt x y z m →
    becomes (vecCommand fn c) s
        (modRun (issueVec (attempt s.dev c) c r b.vec) c (fun r => { r with slot := 2 })) ∧
      (∃ t p, exec (vecCommand fn c) s = .next t ∧ t.pending = s.pending ∧ sameMem s.dev t.dev ∧
        (core t.dev c).vec = (core s.dev c).vec ++ [p] ∧ p.op = .vec b.vec ∧ p.iss = r.cyc ∧ p.start = none ∧
        matOps (core t.dev c) = matOps (core s.dev c) ∧ (core t.dev c).mov = (core s.dev c).mov ∧
        (core t.dev c).xregs = (core s.dev c).xregs)

/-- When the issue of core c stands at the move slot of a bundle holding operation o (not a no-operation), nothing holds issue and
no parity error has discarded the filler's results, the command of o completes and the slot count moves to the control slot.
Every operation but SLEEP and WAKE enters the move pipe with the registers it read, no byte of memory and no index register
changed; SLEEP by the foreground of a core with no filler partition closes the windows of its groups and enters the pipe; with
FG_ROWS below 32 it leaves SHF_AWAKE and SHF_ACCEPT as they are and sets SLEEP_REFUSED (R159, R160, R222). -/
def Obligations.MoveOperationsIssue : Prop :=
  ∀ (s : State) (c : Nat) (r : RunSt) (b : Bundle), c < 320 → issueHeld s.dev c = false → (core s.dev c).fillBad = false →
    view (attempt s.dev c) c = .go r b → r.slot = 2 → b.mov ≠ .nop →
    becomes (movCommand b.mov c) s
        (modRun (issueMov (attempt s.dev c) c r b.mov) c (fun r => { r with slot := 3 })) ∧
      ((∀ g, b.mov ≠ .sleep g ∧ b.mov ≠ .wake g) → ∃ t p, exec (movCommand b.mov c) s = .next t ∧ t.pending = s.pending ∧
        sameMem s.dev t.dev ∧ (core t.dev c).mov = (core s.dev c).mov ++ [p] ∧ p.op = .mov b.mov ∧ p.iss = r.cyc ∧
        matOps (core t.dev c) = matOps (core s.dev c) ∧ (core t.dev c).vec = (core s.dev c).vec ∧
        (core t.dev c).xregs = (core s.dev c).xregs) ∧
      (∀ g, b.mov = .sleep g → r.fill = false → getF (attempt s.dev c) (SHF_PART c) SHF_PART_FG_ROWS < 32 →
        ∃ t, exec (movCommand b.mov c) s = .next t ∧ t.pending = s.pending ∧ getR t.dev (SHF_AWAKE c) = getR s.dev (SHF_AWAKE c) ∧
          getR t.dev (SHF_ACCEPT c) = getR s.dev (SHF_ACCEPT c) ∧ getB t.dev (SHF_FAULT c) SHF_FAULT_SLEEP_REFUSED = true ∧
          (core t.dev c).mov = (core s.dev c).mov)

/-- When the issue of core c stands at the control slot of a bundle holding operation o (not a no-operation), nothing holds issue
and no parity error has discarded the filler's results, the command of o completes with the effect of R224 to R226 (ctlEffect),
the handle write of an HSET beside it, and issue goes to the next bundle or, two cycles on, to the target of a taken branch
(R210). NOP at an empty matrix slot moves issue to the vector slot (R209). -/
def Obligations.ControlOperationsIssue : Prop :=
  ∀ (s : State) (c : Nat) (r : RunSt) (b : Bundle), c < 320 → issueHeld s.dev c = false → (core s.dev c).fillBad = false →
    view (attempt s.dev c) c = .go r b →
    (r.slot = 3 → b.ctl ≠ .nop → becomes (ctlCommand b.ctl c) s (issueCtl (attempt s.dev c) c r b)) ∧
    (r.slot = 0 → b.mat = .nop → becomes (.nop c) s
      (modRun (setF (attempt s.dev c) (CL_WAIT c) CL_WAIT_WAIT 0) c (fun r => { r with slot := 1 })))

/-- With no handle write beside it, each of these control operations completes with its destination register as R224 gives it (XLI
zero-extends IMM16; XLIH replaces the upper half; XADDI adds the signed IMM14 modulo 2^32; XADD adds; XMULI multiplies by the
unsigned IMM14; LOOP subtracts 1), every other index register, every vector register, all memory unchanged. -/
def Obligations.IndexRegisterArithmetic : Prop :=
  ∀ (s : State) (c : Nat) (r : RunSt) (b : Bundle) (i : Nat), c < 320 → issueHeld s.dev c = false → (core s.dev c).fillBad = false →
    view (attempt s.dev c) c = .go r b → r.slot = 3 → (∀ h xl xh, b.mov ≠ .hset h xl xh) → i < 64 →
    (match b.ctl with
      | .xli xd k => ∃ t, exec (.xli c) s = .next t ∧ t.pending = s.pending ∧ keepsData c s.dev t.dev ∧
          xreg t.dev c i = if i = xd.toNat then k.toNat else xreg s.dev c i
      | .xlih xd k => ∃ t, exec (.xlih c) s = .next t ∧ t.pending = s.pending ∧ keepsData c s.dev t.dev ∧
          xreg t.dev c i = if i = xd.toNat then xreg s.dev c xd.toNat % 2 ^ 16 + k.toNat * 2 ^ 16 else xreg s.dev c i
      | .xaddi xd xa k => ∃ t, exec (.xaddi c) s = .next t ∧ t.pending = s.pending ∧ keepsData c s.dev t.dev ∧
          (xreg t.dev c i : Int) = if i = xd.toNat then ((xreg s.dev c xa.toNat : Int) + k.toInt) % (4294967296 : Int) else (xreg s.dev c i : Int)
      | .xadd xd xa xb => ∃ t, exec (.xadd c) s = .next t ∧ t.pending = s.pending ∧ keepsData c s.dev t.dev ∧
          xreg t.dev c i = if i = xd.toNat then (xreg s.dev c xa.toNat + xreg s.dev c xb.toNat) % 2 ^ 32 else xreg s.dev c i
      | .xmuli xd xa k => ∃ t, exec (.xmuli c) s = .next t ∧ t.pending = s.pending ∧ keepsData c s.dev t.dev ∧
          xreg t.dev c i = if i = xd.toNat then xreg s.dev c xa.toNat * k.toNat % 2 ^ 32 else xreg s.dev c i
      | .loop xc _ => ∃ t, exec (.loop c) s = .next t ∧ t.pending = s.pending ∧ keepsData c s.dev t.dev ∧
          xreg t.dev c i = if i = xc.toNat then (xreg s.dev c xc.toNat + 0xFFFFFFFF) % 2 ^ 32 else xreg s.dev c i
      | _ => True)

/-- Every slot command of a core whose tile holds issue (R436), or after a power-fail (R445), leaves the whole state as it is. -/
def Obligations.FastTripHoldsIssue : Prop :=
  ∀ (s : State) (c : Nat), c < 320 → issueHeld s.dev c = true →
    (∀ o, o ≠ .nop → exec (matCommand o c) s = .next s) ∧ (∀ fn, exec (vecCommand fn c) s = .next s) ∧
      (∀ o, o ≠ .nop → exec (movCommand o c) s = .next s) ∧ (∀ o, o ≠ .nop → exec (ctlCommand o c) s = .next s) ∧ exec (.nop c) s = .next s

/-- With no handle write beside it: BRNZ is taken where its register is not 0, LOOP where its decremented register is not 0, BR
always, to the branch bundle plus the signed OFS; a taken branch costs two cycles, anything else one; FENCE and ENDC go to the
next bundle, and ENDC ends the clause (R210, R224, R232). -/
def Obligations.BranchesGoToTheirTargets : Prop :=
  ∀ (s : State) (c : Nat) (r : RunSt) (b : Bundle), c < 320 → issueHeld s.dev c = false → (core s.dev c).fillBad = false →
    view (attempt s.dev c) c = .go r b → r.slot = 3 → (∀ h xl xh, b.mov ≠ .hset h xl xh) →
    (match b.ctl with
      | .brnz xc o => answers (.brnz c) s fun d => (core d c).run = some (if xreg s.dev c xc.toNat = 0 then issued r (r.pc + 1) 1
          else issued r ((r.pc : Int) + o.toInt).toNat 2)
      | .loop xc o => answers (.loop c) s fun d => (core d c).run = some (if xreg s.dev c xc.toNat = 1 then issued r (r.pc + 1) 1
          else issued r ((r.pc : Int) + o.toInt).toNat 2)
      | .br o => answers (.br c) s fun d => (core d c).run = some (issued r ((r.pc : Int) + o.toInt).toNat 2)
      | .fence _ _ _ _ => answers (.fence c) s fun d => (core d c).run = some (issued r (r.pc + 1) 1)
      | .endc => answers (.clauseEnd c) s fun d => (core d c).run = some { (issued r (r.pc + 1) 1) with ended := true }
      | _ => True)

/-- CLAUSE_START on an idle core with a selected entry: the core runs it from the bundle after its constants, the constants stand in
X0 onward, SC_STATUS.RUNNING shows which context, memory is unchanged (R54, R207). CLAUSE_FINISH of an ended clause with no
operation left and no layer-end drain: the core is idle and SC_CLAUSE_CYC shows its cycles (R54). ILLEGAL_BUNDLE where a clause
fault stands: the clause ends with its operations abandoned (R214, R57). -/
def Obligations.ClausesStartRunAndEnd : Prop :=
  ∀ (s : State) (c t : Nat) (fill : Bool) (start rep : Nat) (r : RunSt) (f : Fld), c < 320 →
    ((core s.dev c).run = none → (core s.dev c).sel = some fill → (core s.dev c).startPos = some (start, rep) →
      answers (.clauseStart c) s fun d => (core d c).run = some
          { fill := fill, ctx := (residentOf s.dev c fill).getD 0, start := start,
            len := bits (storeBundle s.dev c fill start).toNat 0 13, nconst := bits (storeBundle s.dev c fill start).toNat 16 4,
            last := bit (storeBundle s.dev c fill start).toNat 13, rep := rep, no := (core s.dev c).clauseCnt + 1,
            pc := start + 1 + bits (storeBundle s.dev c fill start).toNat 16 4,
            cyc := bits (storeBundle s.dev c fill start).toNat 16 4 } ∧
        getF d (SC_STATUS c) SC_STATUS_RUNNING = (if fill then 2 else 1) ∧ sameMem s.dev d ∧
        (∀ i, i < 60 → i / 4 < bits (storeBundle s.dev c fill start).toNat 16 4 →
          xreg d c i = bits (storeBundle s.dev c fill (start + 1 + i / 4)).toNat (32 * (i % 4)) 32)) ∧
    ((core s.dev c).run = some r → r.ended = true → r.last = false → matOps (core s.dev c) = [] → (core s.dev c).vec = [] →
      (core s.dev c).mov = [] → answers (.clauseFinish c t) s fun d => (core d c).run = none ∧
        getR d (SC_CLAUSE_CYC c) = max (r.lastRet + 1) r.cyc % 2 ^ 32 ∧ getF d (SC_STATUS c) SC_STATUS_RUNNING = 0 ∧ sameMem s.dev d) ∧
    (issueHeld s.dev c = false → (core s.dev c).run = some r → view s.dev c = .fault f →
      answers (.illegalBundle c t) s fun d => d = abandon (coreFault s.dev c (CL_FAULT c) f (clauseEv c r)) c t true ∧
        (core d c).run = none ∧ matOps (core d c) = [] ∧ (core d c).vec = [] ∧ (core d c).mov = [])

/-- OP_START of the oldest waiting operation that its pipe and interlocks allow and that the note gate lets pass starts it
(startOp), the cycles it stood gated added to CL_GATED; one the gate holds stays in its pipe, CL_WAIT shows 6 and no data
changes. OP_RETIRE of a finished operation (a word operation the oldest of its kind) takes it out of its pipe. GF_GROUP with a
group staged and the file ports of its halves done occupies the gather front for the group's D cycles. SHF_SLEEP_DONE clears the
named groups' awake bits, SHF_WAKE_DONE sets them and reopens their windows. COVERAGE_FALL sets coverage to the activity level
200 ns after the drop it follows (R110, R124, R159, R162, R212, R229, R230). -/
def Obligations.OperationsStartAndRetire : Prop :=
  ∀ (s : State) (c t no : Nat) (pipe : Pipe) (us ua clash : List Nat) (up : Upsets) (p q : POp) (g : BitVec 16) (m : MatOp) (go : GOp) (pr : Prog)
      (x : GRec) (xs : List GRec) (f : Nat), c < 320 →
    ((pipeOps (core s.dev c) pipe).find? (fun p => p.start.isNone) = some p → mayStart (core s.dev c) pipe p t = true →
      (pipe = .move → ∀ o ∈ (core s.dev c).mov, o.start.isSome = true → (∀ g, o.op ≠ .mov (.sleep g)) ∧ (∀ g, o.op ≠ .mov (.wake g))) →
      (activity (core s.dev c) t + opUnits p ≤ getF s.dev (CL_NOTE c) CL_NOTE_COVER + 2 ∨ opUnits p = 0) →
      answers (.opStart c pipe t up clash) s fun d => ∃ d0, d = discardFiller (startOp (upset d0 up.shelf up.acc) c t pipe clash p) c t ∧
        getR d0 (CL_GATED c) = (getR s.dev (CL_GATED c) + (t - p.gate.getD t)) % 2 ^ 32 ∧ sameMem s.dev d0 ∧ d0.acc = s.dev.acc) ∧
    ((pipeOps (core s.dev c) pipe).find? (fun p => p.start.isNone) = some p → pipe ≠ .move → mayStart (core s.dev c) pipe p t = true →
      getF s.dev (CL_NOTE c) CL_NOTE_COVER + 2 < activity (core s.dev c) t + opUnits p → 0 < opUnits p → getF s.dev (CL_WAIT c) CL_WAIT_WAIT = 0 →
      answers (.opStart c pipe t up clash) s fun d => getF d (CL_WAIT c) CL_WAIT_WAIT = 6 ∧ sameMem s.dev d ∧ d.acc = s.dev.acc ∧
        (pipeOps (core d c) pipe).map (·.no) = (pipeOps (core s.dev c) pipe).map (·.no)) ∧
    ((pipeOps (core s.dev c) pipe).find? (fun p => p.no == no && p.start.isSome && p.done == p.total) = some p →
      (∀ g, p.op ≠ .mov (.sleep g) ∧ p.op ≠ .mov (.wake g)) → (isWord p = true → ∀ o ∈ (core s.dev c).mov, isWord o = true → no ≤ o.no) →
      answers (.opRetire c pipe no t up) s fun d => ∀ o ∈ pipeOps (core d c) pipe, o.no ≠ no) ∧
    (gatherOp (core s.dev c) = some q → (core s.dev c).gfFree ≤ t → portsFree (core s.dev c) q t = true → q.start.getD 0 ≤ t → q.op = .mat m → gopOf m q.done = some go →
      (chan s.dev c go.ch).cur = some pr → pr.held = false → pr.discard = false → pr.gstage = x :: xs →
      answers (.gfGroup c t us ua) s fun d => (core d c).gfFree = t +
        groupCycles q go pr x) ∧
    ((core s.dev c).mov.find? (fun p => p.start.isSome) = some p → p.op = .mov (.sleep g) →
      answers (.shfSleepDone c t) s fun d => getF d (SHF_AWAKE c) SHF_AWAKE_AWAKE =
        getF s.dev (SHF_AWAKE c) SHF_AWAKE_AWAKE &&& (0xFFFF ^^^ g.toNat)) ∧
    ((core s.dev c).mov.find? (fun p => p.start.isSome) = some p → p.op = .mov (.wake g) →
      answers (.shfWakeDone c) s fun d => getF d (SHF_AWAKE c) SHF_AWAKE_AWAKE = getF s.dev (SHF_AWAKE c) SHF_AWAKE_AWAKE ||| g.toNat ∧
        getF d (SHF_ACCEPT c) SHF_ACCEPT_ACCEPT = getF s.dev (SHF_ACCEPT c) SHF_ACCEPT_ACCEPT ||| g.toNat) ∧
    ((core s.dev c).fall = some f → answers (.coverageFall c) s fun d => sameMem s.dev d ∧ getF d (CL_NOTE c) CL_NOTE_COVER =
      activity (core s.dev c) (((f + 400000 - 1000 * (s.dev.originAt + 128)) * fMHz s.dev + 1000000) / 2000000) % 2 ^ CL_NOTE_COVER.w)

/-- OP_RETIRE of the oldest XST of core c: with the offset of X(XA) aligned and inside the larder extent of the running context, the
four bytes at that offset of the tile's larder take the captured register, every other byte of memory reads as before; otherwise
every byte reads as before and CL_FAULT.WORD is set for a foreground clause. An XLD served so leaves memory unchanged and puts
the word into its register; a refused one puts 0 there (R223). -/
def Obligations.LarderWordPortStoresOneWord : Prop :=
  ∀ (s : State) (c t no : Nat) (p : POp) (a : Nat) (xd xa : BitVec 6) (up : Upsets), c < 320 →
    (core s.dev c).mov.find? (fun p => p.no == no && p.start.isSome && p.done == p.total) = some p →
    (core s.dev c).mov.any (fun q => (match q.op with | .mov (.xld _ _) => true | .mov (.xst _ _) => true | _ => false) && decide (q.no < no)) = false →
    (p.op = .mov (.xst xd xa) → answers (.opRetire c .move no t up) s fun d =>
      (larderOk s.dev (runWho s.dev c).2 (p.x 0 % 2 ^ 29) = true →
        (larderAddr (c / 5) (p.x 0 % 2 ^ 29) ≤ a → a < larderAddr (c / 5) (p.x 0 % 2 ^ 29) + 4 →
          readByte d a = BitVec.ofNat 8 (p.x 1 >>> (8 * (a - larderAddr (c / 5) (p.x 0 % 2 ^ 29))))) ∧
        (a < larderAddr (c / 5) (p.x 0 % 2 ^ 29) ∨ larderAddr (c / 5) (p.x 0 % 2 ^ 29) + 4 ≤ a → readByte d a = readByte s.dev a)) ∧
      (larderOk s.dev (runWho s.dev c).2 (p.x 0 % 2 ^ 29) = false → sameMem s.dev d)) ∧
    (p.op = .mov (.xld xd xa) → answers (.opRetire c .move no t up) s fun d => sameMem s.dev d ∧
      xreg d c xd.toNat = if larderOk s.dev (runWho s.dev c).2 (p.x 0 % 2 ^ 29)
        then readMem s.dev (larderAddr (c / 5) (p.x 0 % 2 ^ 29)) 4 % 2 ^ 32 else 0)

/-- STREAM_OPEN of the oldest open at an idle agent (not 63, and not 62 of a controller) gives the agent the program; at a busy one
it raises the channel's AGENT fault. STREAM_END of a phrase in CUR that has moved everything empties CUR and keeps its number
for later awaits where no NEXT waits, and makes a NEXT that waits CUR where no layer-end drain holds it. STREAM_CLOSE frees the
agent that runs that stream, and the channel has one close less to wait for (R177, R190, R198). -/
def Obligations.StreamProgramsOpenEndAndClose : Prop :=
  ∀ (s : State) (o : OpenMsg) (os : List OpenMsg) (m : CloseMsg) (ms : List CloseMsg) (c n : Nat) (p : Prog),
    (s.dev.opens = o :: os → s.dev.agents.get (agentKey o.unit o.agent) none = none → o.agent ≠ 63 → o.agent ≠ 62 ∨ o.unit < 64 →
      becomes .streamOpen s (putAgent { s.dev with opens := os } o.unit o.agent { core := o.core, ch := o.ch, prog := o.prog })) ∧
    (s.dev.opens = o :: os → (s.dev.agents.get (agentKey o.unit o.agent) none).isSome = true →
      becomes .streamOpen s (coreFault { s.dev with opens := os } o.core (STR_FAULT o.core o.ch) STR_FAULT_AGENT
        { cls := 0x54, kind := 1, unit := o.core, sub := o.ch, ctx := o.prog.ctx, filler := o.prog.fill, scope := .step })) ∧
    (c < 320 → n < 16 → (chan s.dev c n).cur = some p → (chan s.dev c n).next = none → progDone p = true → isPhrase p = true →
      answers (.streamEnd c n) s fun d => (chan d c n).cur = none ∧ (chan d c n).lastSid = p.sid ∧ sameMem s.dev d) ∧
    (c < 320 → n < 16 → (chan s.dev c n).cur = some p → (chan s.dev c n).next.isSome = true → progDone p = true → isPhrase p = true →
      (core s.dev c).drained ≠ some p.fill →
      answers (.streamEnd c n) s fun d => (chan d c n).cur.isSome = true ∧ (chan d c n).next = none) ∧
    (s.dev.closes = m :: ms → answers .streamClose s fun d => d.closes = ms ∧
      (chan d m.core m.ch).closing = (chan s.dev m.core m.ch).closing - 1 ∧ sameMem s.dev d ∧
      (∀ a, s.dev.agents.get (agentKey m.unit m.agent) none = some a → a.core = m.core → a.ch = m.ch → a.prog.sid = m.sid →
        d.agents.get (agentKey m.unit m.agent) none = none))

/-- With a held program in CUR (not being discarded) STRC makes it ordinary, records what its far rows met (releaseFar) and runs it,
STRX cancels it; with none held in CUR but one in NEXT they act on NEXT; with no held program the channel, every register and
every fault bit stay as they are. -/
def Obligations.ConfirmAndCancelNeedAHeldProgram : Prop :=
  ∀ (d : Dev) (c n : Nat),
    (∀ p, (chan d c n).cur = some p → p.held = true → p.discard = false →
      (∀ x, x = runCur (releaseFar d c n p) c n { p with held := false, lateFar := none } →
        streamConfirm d c n = putChan x.2 c n { chan x.2 c n with cur := some x.1 }) ∧
        streamCancel d c n = putChan d c n { (chan d c n) with cur := some (cancelled p) }) ∧
    (∀ q, (∀ p, (chan d c n).cur = some p → p.held = false ∨ p.discard = true) → (chan d c n).next = some q → q.held = true →
      streamConfirm d c n = releaseFar (putChan d c n { (chan d c n) with next := some { q with held := false, lateFar := none } }) c n q ∧
        streamCancel d c n = putChan d c n { (chan d c n) with next := some (cancelled q) }) ∧
    ((∀ p, (chan d c n).cur = some p → p.held = false ∨ p.discard = true) → (∀ q, (chan d c n).next = some q → q.held = false) →
      streamConfirm d c n = d ∧ streamCancel d c n = d)

/-- SYNC_INCREMENT of the n-th increment on its way, none of the same source and object before it: at a node that is there, an
increment of the object's context that does not reach the target adds its amount to COUNT and changes no other register, no
memory and no core; an increment of another context leaves COUNT as it is and raises the object's context fault (R320). (No sync
message waiting to leave.) -/
def Obligations.SyncIncrementsAddToTheirObject : Prop :=
  ∀ (s : State) (n : Nat) (i : SyncInc), s.dev.syncFlight[n]? = some i → s.dev.syncOut = [] →
    (s.dev.syncFlight.take n).any (fun j => j.src == i.src && j.obj == i.obj) = false → i.obj < 16384 → baseLost s.dev (i.obj / 256) = false →
    (i.ctx = oCtx (objEntry s.dev i.obj) → oCount (objEntry s.dev i.obj) + i.amt < oTarget (objEntry s.dev i.obj) →
      becomes (.syncIncrement n) s (setObj { s.dev with syncFlight := s.dev.syncFlight.eraseIdx n } i.obj
        (insBits (objEntry s.dev i.obj) 0 32 (oCount (objEntry s.dev i.obj) + i.amt)))) ∧
    (i.remote = false → i.ctx ≠ oCtx (objEntry s.dev i.obj) → i.fromObj = none →
      becomes (.syncIncrement n) s (syncFault { s.dev with syncFlight := s.dev.syncFlight.eraseIdx n } i.obj SYNC_FAULT_CTX 93 i.ctx i.fill))

/-- TICK_ARRIVAL, with a tick on its way, notes the router cycle in which node u (a tile, an edge die or the host-and-management
die) starts its sentence: TICK_ALIGN cycles after now. TICK_FAULT marks the node to be lost at the next stop tick, sets a tile's
TICK_FAULT bit and ends a step in RERUN. DRAIN_SPAN_END leaves no flit in any router, and a foreground flit dropped ends a step
in RERUN. FLIT_DELIVER of a delivery that no earlier one to its port precedes takes it: at an enabled entry of a core to its
channel, at one of an agent's unit to the agent, and at a port behind which no unit is it is recorded. FLIT_HOP applies the
router's entry for the cycle; with none it drops the flits waiting there. PANTRY_POLL with the tick generator stopped samples up
to 16 slots. DEGRADED_LOAD_DONE with a degraded package for the present lost set applies it, and for another set starts over
(R46, R48, R65, R66, R376, R479, R548). -/
def Obligations.TicksFlitsAndThePantryTimer : Prop :=
  ∀ (s : State) (u t c n : Nat) (w : Work) (pk : Pkg),
    (u < 81 → s.dev.tickOut = true → becomes (.tickArrival u) s { s.dev with tickAt := (s.dev.tickAt.put u
      (s.dev.now + (if u < 64 then getF s.dev (SLOT_ALIGN u) SLOT_ALIGN_TICK_ALIGN else if u < 80 then s.dev.edgeAlign.get (u - 64) 0 else 128) + 1) 0) }) ∧
    (t < 80 → answers (.tickFault t) s fun d => t ∈ d.losePend ∧ (t < 64 → getB d (SLOT_STATUS t) SLOT_STATUS_TICK_FAULT = true) ∧
      (s.dev.inStep = true → d.rerunStep = true) ∧ sameMem s.dev d) ∧
    (answers .drainSpanEnd s fun d => d.flits = [] ∧ sameMem s.dev d ∧
      (∀ f ∈ s.dev.flits, f.fill = false → getB d (SLOT_STATUS f.tile) SLOT_STATUS_DROP = true ∧ (s.dev.inStep = true → d.rerunStep = true))) ∧
    (∀ v d1 e, s.dev.deliveries[n]? = some v → (s.dev.deliveries.take n).any (fun x => x.tile == v.tile && x.port == v.port) = false →
      d1 = { s.dev with deliveries := s.dev.deliveries.eraseIdx n } →
      (portUnit s.dev v.tile v.port = none → becomes (.flitDeliver n) s (report d1
        { cls := 0x54, kind := 2, unit := v.tile, sub := v.port, filler := v.flit.fill, scope := .step })) ∧
      (portUnit s.dev v.tile v.port = some u → e = portEntry s.dev u v.idx → bit e 6 = true →
        (u < 320 → bits e 0 6 < 16 → becomes (.flitDeliver n) s (chanRows d1 u (bits e 0 6) v.flit.rows none)) ∧
        (320 ≤ u → v.flit.addrs = [] → becomes (.flitDeliver n) s (agentRows d1 u (bits e 0 6) v.port v.flit.fill v.flit.rows true)) ∧
        (320 ≤ u → v.flit.addrs ≠ [] → becomes (.flitDeliver n) s (addrRows d1 u (bits e 0 6) v.port v.flit)))) ∧
    (t < 64 → entryIndex s.dev t c = none → (∀ p, spareServes s.dev t p = false) →
      answers (.flitHop t c) s fun d => (∀ f ∈ d.flits, ¬ (f.tile = t ∧ f.cyc = c ∧ f.port < 6)) ∧ sameMem s.dev d) ∧
    (∀ i, t < 64 → entryIndex s.dev t c = some i → c < windowCycles s.dev + 256 → becomes (.flitHop t c) s (earlyReads (applyEntry s.dev t c i
      (fun f => f.tile == t && f.cyc == c && (decide (f.port < 6) || f.port == 15))) t (c + 1))) ∧
    (getB s.dev TG_CTL TG_CTL_RUN = false →
      becomes .pantryPoll s (samplePantry 16 { s.dev with boot := { s.dev.boot with d0wait := false } })) ∧
    (s.dev.pan.works.find? (fun w => w.op == 100) = some w → w.src ≠ lostSet s.dev → becomes .degradedLoadDone s (startDegraded s.dev)) ∧
    (s.dev.pan.works.find? (fun w => w.op == 100) = some w → w.src = lostSet s.dev → w.pkg = some pk →
      becomes .degradedLoadDone s
        (applyPkg { s.dev with pan := { s.dev.pan with works := s.dev.pan.works.filter (fun x => !isDegraded x) } } w.ctx pk))

/-- FLIT_HOP of tile 1 whose entry for the cycle routes only the west input to the east output, a flit waiting at the west input and
no other flit in the module, no mesh injection, no spare serving a slot of the tile: afterwards exactly that flit waits at the
west input of tile 2, three router cycles later, and memory is unchanged (R63, R64, R67). -/
def Obligations.FlitsMoveByTheSlotTable : Prop :=
  ∀ (s : State) (c i : Nat) (f : Flit), entryIndex s.dev 1 c = some i → c < windowCycles s.dev + 256 → s.dev.flits = [f] → f.tile = 1 →
    f.port = 3 → f.cyc = c → f.rows ≠ [] → (∀ p, spareServes s.dev 1 p = false) →
    slotEntry s.dev 1 i = (List.range 16).foldl (fun acc n => acc + fv (4 * n) 4 (if n = 1 then 3 else n)) 0 →
    getF s.dev (MSH_INJ_CTL 2) MSH_INJ_CTL_MODE = 0 → s.dev.meshInj.swap = [] →
    answers (.flitHop 1 c) s fun d => d.flits = [{ f with tile := 2, port := 3, cyc := c + 3 }] ∧ sameMem s.dev d

/-- CELLAR_WRITE of a row to an unmapped chunk of key tag 0 of a working stack, asked for with tag 0: the 128 bytes at its address
take the row, its check bits are those of R240 and R242, every other byte of memory reads as before. CELLAR_READ with no flipped
bit of a row stored clean answers that row unpoisoned and changes no byte of memory (R237, R242, R243). -/
def Obligations.CellarRowsAreStoredAndReadBack : Prop :=
  ∀ (s : State) (n ofs a : Nat) (row : FRow), n < 128 → ofs < stackSize → ofs % 128 = 0 →
    ccChunk s.dev n ofs { tag := 0 } true = some (ofs / chunkSize) → ccChunk s.dev n ofs { tag := 0 } false = some (ofs / chunkSize) →
    stackLost s.dev n = false → chunkTag s.dev n (ofs / chunkSize) = 0 →
    (answers (.cellarWrite n ofs 0 false row) s fun d =>
      (cellarAddr n ofs ≤ a → a < cellarAddr n ofs + 128 →
        readByte d a = BitVec.ofNat 8 (row.data.toNat >>> (8 * (a - cellarAddr n ofs)))) ∧
      (a < cellarAddr n ofs ∨ cellarAddr n ofs + 128 ≤ a → readByte d a = readByte s.dev a) ∧
      (rowMetaAt d (cellarAddr n ofs)).chk = BitVec.ofNat 128 (rowCheck row.data.toNat row.poison)) ∧
    ((rowClasses (readMem s.dev (cellarAddr n ofs) 128) (rowMetaAt s.dev (cellarAddr n ofs)).chk.toNat).all (· == .clean) = true →
      answers (.cellarRead n ofs 0 0) s fun d => sameMem s.dev d ∧
        d.ccLast.get n {} = { data := BitVec.ofNat 1024 (readMem s.dev (cellarAddr n ofs) 128), poison := false })

/-- CELLAR_WRITEBACK stores the oldest pending writeback of its stack: the 128 bytes of its row, their check bits, no other byte,
and one writeback less waits. REFRESH sets CC_STATUS.HOT above 85 degrees and clears it at or below. SCRUB_READ with scrub on,
of a stack in service, moves CC_SCRUB_POS on by one row, or back to row 0 with one pass more in CC_SCRUB_PASS; with no bit
flipped since, it changes no byte of memory (R243, R244, R246, R247). -/
def Obligations.CellarHousekeeping : Prop :=
  ∀ (s : State) (n err a : Nat) (w : WriteBack), n < 128 →
    (s.dev.writebacks.find? (fun w => decide (w.addr / stackSize = n)) = some w →
      answers (.cellarWriteback n) s fun d => d.writebacks = s.dev.writebacks.erase w ∧
        (w.addr ≤ a → a < w.addr + 128 → readByte d a = BitVec.ofNat 8 (w.data.toNat >>> (8 * (a - w.addr)))) ∧
        (a < w.addr ∨ w.addr + 128 ≤ a → readByte d a = readByte s.dev a) ∧
        (rowMetaAt d w.addr).chk = BitVec.ofNat 128 (rowCheck w.data.toNat w.poison)) ∧
    becomes (.refresh n) s (setB s.dev (CC_STATUS (n / 2) (n % 2)) CC_STATUS_HOT
      (decide (85 < getF s.dev (CC_TEMP (n / 2) (n % 2)) CC_TEMP_TEMP_C))) ∧
    (getB s.dev (CC_SCRUB_CTL (n / 2) (n % 2)) CC_SCRUB_CTL_EN = true →
      getB s.dev (CC_STATUS (n / 2) (n % 2)) CC_STATUS_SELF_REFRESH = false → stackLost s.dev n = false →
      answers (.scrubRead n err) s fun d => getR d (CC_SCRUB_POS (n / 2) (n % 2)) =
        (if (getF s.dev (CC_SCRUB_POS (n / 2) (n % 2)) CC_SCRUB_POS_ROW + 1) * 128 < stackSize
          then (getF s.dev (CC_SCRUB_POS (n / 2) (n % 2)) CC_SCRUB_POS_ROW + 1) % 2 ^ 32 else 0) ∧
        (stackSize ≤ (getF s.dev (CC_SCRUB_POS (n / 2) (n % 2)) CC_SCRUB_POS_ROW + 1) * 128 →
          getF d (CC_SCRUB_PASS (n / 2) (n % 2)) CC_SCRUB_PASS_PASSES =
            (getF s.dev (CC_SCRUB_PASS (n / 2) (n % 2)) CC_SCRUB_PASS_PASSES + 1) % 2 ^ CC_SCRUB_PASS_PASSES.w) ∧
        (err = 0 → sameMem s.dev d))

/-- UE_SHARD_START of a ready engine whose token is reached, or whose pass waits for none, sets the engine to work on the shard with
nothing written; UE_LOFT_WRITE of the next row of an array that the engine may write counts one row more of that array;
UE_SHARD_DONE with every row of every array written folds the partial norm and the digest in and goes on; UE_SHARD_INTERRUPT of
a shard under way, not its third, sets the PARITY fault and redoes it from its first row (R266, R267, R272, R273). -/
def Obligations.UpdateEngineShards : Prop :=
  ∀ (s : State) (t a n : Nat), t < 64 →
    (ueReady s.dev t = true → s.dev.upd.wait = false ∨ objReached s.dev (sdToken (curShard s.dev t)) = true →
      becomes (.ueShardStart t) s (modUe (setF (ueUnwait s.dev t) (UE_STATUS t) UE_STATUS_STATE 2) t
        (fun u => { u with busy := true, rows := [], norm := 0, dig := 0 }))) ∧
    (baseLost s.dev t = false → becomes (.ueLoftWrite t a n) s (loftWrites t a n s.dev)) ∧
    (baseLost s.dev t = false → (loftWrite s.dev t a).1 = true → becomes (.ueLoftWrite t a 1) s (loftWrite s.dev t a).2 ∧
      answers (.ueLoftWrite t a 1) s fun d => (ueSt d t).rows.get a 0 = (ueSt s.dev t).rows.get a 0 + 1) ∧
    ((ueSt s.dev t).busy = true → (List.range 7).all (fun a => (ueSt s.dev t).rows.get a 0 ==
        arrayRows (curShard s.dev t) (ruleEntry s.dev t (sdRule (curShard s.dev t))) a (shardPanels s.dev (curShard s.dev t))) = true →
      becomes (.ueShardDone t) s (ueNext (modUe s.dev t (fun u => { u with
          busy := false
          tries := 0
          norms := u.norms ++ (if sdNorm (curShard s.dev t) then [(ueSt s.dev t).norm] else [])
          passDig := u.passDig + (ueSt s.dev t).dig })) t (getF s.dev (UE_ORDER t) UE_ORDER_POS + 1))) ∧
    ((ueSt s.dev t).busy = true → becomes (.ueShardInterrupt t) s (ueInterrupt s.dev t (some UE_FAULT_PARITY)) ∧
      ((ueSt s.dev t).tries < 2 → answers (.ueShardInterrupt t) s fun d => getB d (UE_FAULT t) UE_FAULT_PARITY = true ∧
        (ueSt d t).busy = true ∧ (ueSt d t).tries = (ueSt s.dev t).tries + 1 ∧ (ueSt d t).rows = [] ∧ sameMem s.dev d))

/-- For a die in service of a module not fenced: XFER_DESC_START with the START object reached and the port not lost sets the engine
to work. XFER_WRITE and XFER_READ with a port of the group up queue the next packet of up to 32 rows (a READ once its receive
space is reserved, no byte of memory changed) and note it as outstanding; MCAST_WRITE with room in the buffer puts its packet
there with the valid entries of its list still to be served, in order, or, with none, counts it as sent. MCAST_COPY_SEND sends
the copy of the next entry where its credit, its class and its key allow and notes it as outstanding; MCAST_HOLD_EXPIRE of a
copy that lacks credit makes it faulty: it is recorded and waits no more. XFER_DESC_DONE with nothing outstanding and nothing
buffered adds 1 to DONE, marks it where a request was refused, and goes on (R336, R349, R350, R353, R354). -/
def Obligations.TransferEngineDescriptors : Prop :=
  ∀ (s : State) (k n e pos m : Nat) (x : Nat) (pk : McPkt) (es : List Nat), k < 16 →
    ((edge s.dev k).lost = false → fenced s.dev = false → getF s.dev (XFER_STATUS k) XFER_STATUS_STATE = 1 →
      objReached s.dev (tdStart (curXfer s.dev k)) = true → gpState s.dev (k + 16 * tdPort (curXfer s.dev k)) ≠ 4 →
      becomes (.xferDescStart k) s (modEng (setF s.dev (XFER_STATUS k) XFER_STATUS_STATE 2) k 2 (fun _ => { busy := true }))) ∧
    (xferNext s.dev k 1 = some (x, pos, m) → groupUp s.dev ((k + 16 * tdPort x) / 8) = true →
      answers (.xferWrite k) s fun d => ∃ (d0 : Dev) (tag : Nat) (q : Packet), q.rows.length = m ∧
        d = advanceXfer (addOutst (queueOn d0 (k + 16 * tdPort x) q)
          { tag := tag, dst := tdDst x, port := k + 16 * tdPort x, die := k, eng := 2 }) k m) ∧
    (xferNext s.dev k 2 = some (x, pos, m) → groupUp s.dev ((k + 16 * tdPort x) / 8) = true →
      readRows s.dev (k + 16 * tdPort x) + m ≤ 32 + Config.readSpare (k + 16 * tdPort x) →
      answers (.xferRead k) s fun d => sameMem s.dev d ∧ ∃ (d0 : Dev) (tag : Nat) (q : Packet), q.rows = [] ∧
        d = advanceXfer (addOutst (queueOn d0 (k + 16 * tdPort x) q)
          { tag := tag, dst := tdDst x, port := k + 16 * tdPort x, die := k, eng := 2, read := true, addr := tdLocal x + 128 * pos, rows := m }) k m) ∧
    (xferNext s.dev k 3 = some (x, pos, m) → getF s.dev (MCP_BUF k) MCP_BUF_BYTES + 32 * pkUnits m ≤ 0x200000 →
      es = (List.range 64).filter (fun i => bit (mcEntry (engReads k (tdLocal x + 128 * pos) m s.dev).2 k (tdDst x % 16) i) 31) →
      (es = [] → becomes (.mcastWrite k) s (advanceXfer (engReads k (tdLocal x + 128 * pos) m s.dev).2 k m)) ∧
      (es ≠ [] → answers (.mcastWrite k) s fun d => ∃ (d1 : Dev) (q : McPkt), q.p.rows.length = m ∧ q.waiting = es ∧ q.desc = x ∧
        d1 = advanceXfer (engReads k (tdLocal x + 128 * pos) m s.dev).2 k m ∧
        d = setF (modEdge d1 k (fun y => { y with mcp := y.mcp ++ [q] })) (MCP_BUF k) MCP_BUF_BYTES
          (getF d1 (MCP_BUF k) MCP_BUF_BYTES + pkBytes q.p))) ∧
    (mcWaiting s.dev k n e = some pk → fenced s.dev = false → groupUp s.dev (mcPort k pk / 8) = true → mcCredit s.dev k pk = true →
      startFree s.dev (mcPort k pk) = true → classDue s.dev (mcPort k pk) (tdTc pk.desc) = true → keyReady s.dev pk.p.hdr.toNat = true →
      becomes (.mcastCopySend k n e) s (mcastSettle (addOutst
        (sendNow (nextTag s.dev).2 (mcPort k pk) (mcCopy s.dev k e (nextTag s.dev).1 pk))
        { tag := (nextTag s.dev).1, dst := bits (mcTarget s.dev k e pk) 0 16, port := mcPort k pk, die := k, eng := mcEng pk }) k n e pk)) ∧
    (mcWaiting s.dev k n e = some pk → fenced s.dev = false → mcCredit s.dev k pk = false →
      answers (.mcastHoldExpire k n e) s fun d => ∃ ev, d = mcastSettle (report (gpFault s.dev (mcPort k pk) GP_FAULT_MCAST_HOLD) ev) k n e pk ∧
        ev.cls = 0x34 ∧ ev.scope = .step ∧ ev.other = some (bits (mcTarget s.dev k e pk) 0 16)) ∧
    ((eng s.dev k 2).busy = true → tdRows (curXfer s.dev k) ≤ (eng s.dev k 2).pos → (edge s.dev k).mcp.all (·.old) = true →
      s.dev.fab.outst.any (fun o => o.die == k && o.eng == 2) = false →
      ∀ d1, d1 = sendInc s.dev { obj := tdDone (curXfer s.dev k), ctx := s.dev.res.fg.getD 0, amt := 1, src := 800 + k } →
      becomes (.xferDescDone k) s (xferAt (if (eng s.dev k 2).bad then raiseRerun (setObjBit d1 (tdDone (curXfer s.dev k)) 91) .step else d1)
        k (xferCur s.dev k + 1)))

/-- On dies 8 to 15: XCH_DESC_START with the START object reached, the die in service and, for a DISPATCH, port A not lost, sets the
engine to work; DISPATCH of a descriptor with packets left sends the next one (its position gives the expert, the share tile and
the rows) and advances its position by one; COMBINE of one with features left writes the next 16 features, with their header
word at FMT SDX8, and advances its position by one; XCH_DESC_DONE with everything sent or written and nothing outstanding adds 1
to DONE, marks it where a row or request was refused, and goes on (R349, R350, R381, R384, R385). -/
def Obligations.ExchangeEngineDescriptors : Prop :=
  ∀ (s : State) (k : Nat) (x : Nat) (idx : List FRow) (a : AsgSt) (pos : Nat) (d1 : Dev), hasXch k = true →
    ((edge s.dev k).lost = false → fenced s.dev = false → getF s.dev (XCH_STATUS (k - 8)) XCH_STATUS_STATE = 1 →
      objReached s.dev (xeStart (curXch s.dev k)) = true → (xeOp (curXch s.dev k) = 1 → gpState s.dev k ≠ 4) →
      becomes (.xchDescStart k) s (modEng (setF s.dev (XCH_STATUS (k - 8)) XCH_STATUS_STATE 2) k 3 (fun _ => { busy := true }))) ∧
    (xchBegin s.dev k 2 (combineTotal (curXch s.dev k)) = (some (x, idx, a, pos), d1) →
      ∀ rows h g, g = xeCount x / 16 →
        rows = combineRows k x idx a (pos / g / xeTiles x) (pos / g % xeTiles x) (xeFirst x + 16 * (pos % g)) 16 d1 →
        h = (if xeW x = 2 then (true, rows.2) else putHdrs rows.2 k
          (xeDstHdr x + 8 * (pos / g / xeTiles x * xeStride x + pos / g % xeTiles x * xeFeat x + (xeFirst x + 16 * (pos % g))))
          (packElems 64 (rows.1.map (·.1))) (rows.1.any (·.2.1))) →
      becomes (.combine k) s (modEng (if rows.1.any (·.2.1) then xchPoison h.2 k else h.2) k 3
        (fun e => { e with pos := e.pos + 1, bad := e.bad || !h.1 || rows.1.any (fun y => !y.2.2) }))) ∧
    (xchBegin s.dev k 1 (dispatchTotal s.dev (curXch s.dev k)) = (some (x, idx, a, pos), d1) →
      answers (.dispatch k) s fun d => ∃ (d0 : Dev) (ofs : Nat) (rows : List FRow),
        d = modEng (xchSend d0 k (expDir d1 (xeDir x + pos / (dataPkts x + hdrPkts x) / xeShare d1 x)) ofs rows) k 3
          (fun e => { e with pos := e.pos + 1 })) ∧
    ((eng s.dev k 3).busy = true →
      (if xeOp (curXch s.dev k) = 1 then dispatchTotal s.dev (curXch s.dev k) else combineTotal (curXch s.dev k)) ≤ (eng s.dev k 3).pos →
      s.dev.fab.outst.any (fun o => o.die == k && o.eng == 3) = false →
      ∀ d1, d1 = sendInc s.dev { obj := xeDone (curXch s.dev k), ctx := s.dev.res.fg.getD 0, amt := 1, src := 900 + k } →
      becomes (.xchDescDone k) s (xchAt (if (eng s.dev k 3).bad then raiseRerun (setObjBit d1 (xeDone (curXch s.dev k)) 91) .step else d1)
        k (xchCur s.dev k + 1)))

/-- For a packet taken from port p: a SYNC of the current epoch to an object with REMOTE_OK becomes an increment of the object's own
context; one of another epoch earns NACK EPOCH, one to another object NACK SYNC_OFF (R324, R348). A WRITE or READ that passes
its window's checks and its data check, to a shelf window or a place a bulk slot leads to, is held for its rows with the window
as it was checked; the first check it fails earns the NACK of its reason; one that no bulk slot leads to earns NACK NO_SLOT
(R347). ACK settles an outstanding write, RDATA a read whose rows land at LOCAL; NACK settles an outstanding request as refused,
or marks the object whose sync message it refuses, and sets GP_FAULT.NACK_RX (R324, R348, R350). -/
def Obligations.PacketsFromOtherModulesAreHandled : Prop :=
  ∀ (s : State) (p n c : Nat) (x : RxPkt) (d1 d2 : Dev) (o : Outst) (rows : List FRow) (h a b : Nat), h = x.p.hdr.toNat →
      a = wBase (winDesc d1 (hWin h)) + hOfs h →
    (takePkt s.dev p n 6 = (some x, d1) →
      (epochOk d1 h = true → oRemoteOk (objEntry d1 (hTso h)) = true → becomes (.sync p n) s (sendInc d1
        { obj := hTso h, ctx := oCtx (objEntry d1 (hTso h)), amt := 1, src := 600 + p, remote := true,
          fill := ctxFiller d1 (oCtx (objEntry d1 (hTso h))) })) ∧
      (epochOk d1 h = false → becomes (.sync p n) s (nackReq d1 p h 0x02)) ∧
      (epochOk d1 h = true → oRemoteOk (objEntry d1 (hTso h)) = false → becomes (.sync p n) s (nackReq d1 p h 0x09))) ∧
    (takePkt s.dev p n 1 = (some x, d1) →
      (reqRefusal d1 h = none → openRows d1 p x = (some rows, d2) → (inShelf a = true ∨ bulkLeads d2 (portDie p) a (hPtype h == 1) = true) →
        becomes (.write p n) s (holdReq d2 p h rows)) ∧
      (reqRefusal d1 h = some c → becomes (.write p n) s (nackReq d1 p h c)) ∧
      (reqRefusal d1 h = none → openRows d1 p x = (some rows, d2) → inShelf a = false → bulkLeads d2 (portDie p) a (hPtype h == 1) = false →
        becomes (.write p n) s (nackReq d2 p h 0x07))) ∧
    (takePkt s.dev p n 2 = (some x, d1) →
      (reqRefusal d1 h = none → openRows d1 p x = (some rows, d2) → (inShelf a = true ∨ bulkLeads d2 (portDie p) a (hPtype h == 1) = true) →
        becomes (.read p n) s (holdReq d2 p h rows)) ∧
      (reqRefusal d1 h = some c → becomes (.read p n) s (nackReq d1 p h c))) ∧
    (takePkt s.dev p n 4 = (some x, d1) → answered d1 h = some o → o.read = false →
      becomes (.ack p n) s (settle d1 o false)) ∧
    (takePkt s.dev p n 5 = (some x, d1) →
      (answered d1 h = some o → becomes (.nack p n) s (settle (gpFault d1 o.port GP_FAULT_NACK_RX) o true)) ∧
      (answered d1 h = none → syncSender d1 h = some b → becomes (.nack p n) s (syncNack (gpFault d1 p GP_FAULT_NACK_RX) b))) ∧
    (takePkt s.dev p n 3 = (some x, d1) → answered d1 h = some o → o.read = true → openRows d1 p x = (some rows, d2) →
      becomes (.rdata p n) s (settle (engWrites o.die o.addr (rows.take o.rows) d2).2 o (!(engWrites o.die o.addr (rows.take o.rows) d2).1)))

/-- WINDOW_LAND of a held request whose turn it is, sent in part or with its window still open: up to m rows land over the bulk path
or go to the shelf port, where the window stood when it was checked; one of which nothing has been sent and whose window is
closed or has another generation is refused with NACK STALE_GEN, and memory is unchanged. WINDOW_CLOSE_DONE with no committed
WRITE of the window left completes the close. TXN_TIMEOUT of a request that has left settles it as refused: TXN_TIMEOUT fault, a
RERUN cause in a step. SHELF_WINDOW_ROW of a host write writes its row at its core's stream port, of a host read takes its row
(a read of one row is answered), memory unchanged by a read, and lets a host row that waited go. BULK_REFUSE_REPORT answers NACK
TARGET (R146, R147, R346, R347, R351, R545). -/
def Obligations.WindowsLandAndClose : Prop :=
  ∀ (s : State) (n m w : Nat) (x : HeldReq) (o : Outst) (r : ShelfRow) (tag a : Nat),
    a = wBase x.win + hOfs x.hdr.toNat →
    (s.dev.fab.held[n]? = some x → x.sent = 0 → (wValid (winDesc s.dev (hWin x.hdr.toNat)) = false ∨
        wGen (winDesc s.dev (hWin x.hdr.toNat)) ≠ hWgen x.hdr.toNat) →
      becomes (.windowLand n m) s (nackReq (dropHeld s.dev x.no) x.port x.hdr.toNat 0x01) ∧
        answers (.windowLand n m) s (sameMem s.dev)) ∧
    (s.dev.fab.held[n]? = some x → (x.sent ≠ 0 ∨ wValid (winDesc s.dev (hWin x.hdr.toNat)) = true ∧
        wGen (winDesc s.dev (hWin x.hdr.toNat)) = hWgen x.hdr.toNat) → landTurn s.dev n x = true →
      (inShelf a = false → ∀ y, y = landBulk a (ctxSrc s.dev (wCtx x.win))
          ((bulkPath s.dev (portDie x.port) a (hPtype x.hdr.toNat == 1)).getD []) m x s.dev →
        becomes (.windowLand n m) s (finishHeld y.2 y.1)) ∧
      (inShelf a = true → ∀ y, y = sendShelf a (wCtx x.win) m x s.dev → becomes (.windowLand n m) s (finishHeld y.2 y.1))) ∧
    (s.dev.fab.closing.find? (fun c => c.1 == w) = some (w, some tag) →
      (∀ y ∈ s.dev.fab.held, hWin y.hdr.toNat = w → hPtype y.hdr.toNat = 1 → y.sent = 0 ∨ reqRows y.hdr.toNat ≤ y.done) →
      becomes (.windowCloseDone w) s
        (postCq { s.dev with fab := { s.dev.fab with closing := s.dev.fab.closing.erase (w, some tag) } } 1 0 tag 0 0 0)) ∧
    (s.dev.fab.outst[n]? = some o → stillHeld s.dev o = false → answers (.txnTimeout n) s fun d => (s.dev.inStep = true → d.rerunStep = true) ∧
      getB d (GP_FAULT (portDie o.port) (portHalf o.port)) GP_FAULT_TXN_TIMEOUT = true ∧ d.fab.outst = s.dev.fab.outst.erase o) ∧
    (s.dev.shelfFlight[n]? = some r → r.req = none → ∀ y, y = shelfAccess { s.dev with shelfFlight := s.dev.shelfFlight.eraseIdx n } r →
      (r.wr = true → becomes (.shelfWindowRow n) s (hostFeed 1 y.2)) ∧
      (r.wr = false → r.ctx = none → becomes (.shelfWindowRow n) s (hostFeed 1 (hostRowBack y.2 r (y.1.getD {}).data)) ∧
        answers (.shelfWindowRow n) s (sameMem s.dev))) ∧
    (s.dev.fab.held[n]? = some x → x.refused = true → x.reported = false →
      becomes (.bulkRefuseReport n) s (if reqRows x.hdr.toNat ≤ x.done then dropHeld (nackReq s.dev x.port x.hdr.toNat 0x08) x.no
        else setHeld (nackReq s.dev x.port x.hdr.toNat 0x08) { x with reported := true }))

/-- On a port that is up, frame injection off: a codeword that does not decode is counted and leaves the port waiting for its
expected FSEQ; one that decodes counts a correction if symbols were corrected, and then a data frame in order is accepted and
its units taken, one out of order is discarded and leaves the port waiting, an idle frame gives its link packets. LINK_ACK drops
the kept frames up to the one named and sends frames that waited; LINK_RETRY of a frame kept, not the eighth request for one
FSEQ, sends the kept frames again from it; LINK_CREDIT takes the far side's limits; LINK_ACK_SEND acknowledges the frames
accepted; LINK_RETRY_SEND asks for the expected FSEQ; PACKET_SEND sends the oldest packet of its class where credit and the
classes' order allow, and an idle frame at 2,048 kept frames (R329 to R335). -/
def Obligations.LinkFramesAndControlPackets : Prop :=
  ∀ (s : State) (p c n l : Nat) (lo hi : List (BitVec 680)) (pois : BitVec 20) (msg : BitVec 5140) (ce : Bool) (d1 : Dev) (pk : Packet),
    portUp s.dev p = true →
    (rsDecode (lo ++ hi) = none → becomes (.frame p lo hi pois) s
      (modPort (satF s.dev (GP_FEC_UE (portDie p) (portHalf p)) GP_FEC_UE_COUNT) p (fun g => { g with rxGap := true }))) ∧
    (rsDecode (lo ++ hi) = some (msg, ce) → getF s.dev (GP_INJ_CTL (portDie p) (portHalf p)) GP_INJ_CTL_MODE ≠ 1 →
      d1 = (if ce then satF s.dev (GP_FEC_CE (portDie p) (portHalf p)) GP_FEC_CE_COUNT else s.dev) →
      (bits msg.toNat 0 2 = 0 → bits msg.toNat 2 12 = (gport s.dev p).rxExp → becomes (.frame p lo hi pois) s
        ((frameUnits { msg := msg, pois := pois }).foldl (takeUnit p)
          (modPort d1 p (fun g => { g with rxExp := (g.rxExp + 1) % 4096, rxGap := false, rxNew := g.rxNew + 1 })))) ∧
      (bits msg.toNat 0 2 = 0 → bits msg.toNat 2 12 ≠ (gport s.dev p).rxExp →
        becomes (.frame p lo hi pois) s (modPort d1 p (fun g => { g with rxGap := true }))) ∧
      (bits msg.toNat 0 2 = 1 → becomes (.frame p lo hi pois) s ((frameUnits { msg := msg, pois := pois }).foldl
        (fun d u => if hPtype u.1.toNat = 15 then linkUnit d p u.1 else d) d1))) ∧
    (takeLink s.dev p 0 = (some l, d1) → keptBefore (gport d1 p) ((bits l 8 12 + 1) % 4096) = some n →
      becomes (.linkAck p) s (sendFrames (modPort d1 p (fun g => ackFrames g n)) p) ∧
      answers (.linkAck p) s (sameMem s.dev) ∧ ((gport d1 p).txWait = [] → answers (.linkAck p) s fun d =>
        (gport d p).kept = (gport d1 p).kept.drop n)) ∧
    (takeLink s.dev p 1 = (some l, d1) → (gport d1 p).reqSeq ≠ bits l 8 12 ∨ (gport d1 p).reqCnt < 7 →
      keptBefore (gport d1 p) (bits l 8 12) = some n →
      answers (.linkRetry p) s fun d => d.out = s.dev.out ++ ((gport d1 p).kept.drop n).map (frameOut p) ∧
        (gport d p).reqSeq = bits l 8 12 ∧ (gport d p).reqCnt = (if (gport d1 p).reqSeq = bits l 8 12 then (gport d1 p).reqCnt + 1 else 1) ∧
        (gport d p).kept = (gport d1 p).kept ∧ sameMem s.dev d) ∧
    (takeLink s.dev p 2 = (some l, d1) → c < 4 → answers (.linkCredit p) s fun d =>
      getF d (GP_CREDIT (portDie p) (portHalf p) c) GP_CREDIT_LIMIT = bits l (32 + 16 * c) 16 ∧ sameMem s.dev d) ∧
    becomes (.linkAckSend p) s (modPort (linkSend s.dev p (0xF + fv 8 12 ((gport s.dev p).rxExp + 4095))) p (fun g => { g with rxNew := 0 })) ∧
    ((gport s.dev p).rxGap = true → becomes (.linkRetrySend p) s
      (satF (linkSend s.dev p (0xF + 1 <<< 4 + fv 8 12 (gport s.dev p).rxExp)) (GP_RETRY (portDie p) (portHalf p)) GP_RETRY_REQUESTS)) ∧
    (nextToSend s.dev p c = some pk → classDue s.dev p c = true →
      becomes (.packetSend p c) s (sendNow (modPort s.dev p (fun g => { g with txq := g.txq.erase pk })) p pk)) ∧
    (2048 ≤ (gport s.dev p).kept.length →
      becomes (.packetSend p c) s { s.dev with out := s.dev.out ++ [frameOut p (idleFrame [])] })

/-- A port that is up goes down on LANE_LOCK_LOSS, and on an acknowledgement timeout while frames are unacknowledged: it retrains
with its link-down fault, what it kept and received is discarded, a RERUN cause in a step. While a port trains, LINK_LEVEL of a
level at most 1 apart agrees the lower of the two, any other leaves the link down with its LEVEL fault; PORT_TRAIN_DONE brings
the port up where the attempt succeeded and the level is agreed; a failed attempt is counted and the next one sends the level,
and a third failure leaves the port lost (R333, R340). -/
def Obligations.LinkLossAndTraining : Prop :=
  ∀ (s : State) (p lv : Nat), p < 32 →
    (portUp s.dev p = true → becomes (.laneLockLoss p) s (portDown s.dev p) ∧
      answers (.laneLockLoss p) s fun d => gpState d p = 3 ∧ (gport d p).kept = [] ∧ (gport d p).inbox = [] ∧
        getB d (GP_FAULT (portDie p) (portHalf p)) GP_FAULT_LINK_DOWN = true ∧ (s.dev.inStep = true → d.rerunStep = true) ∧ sameMem s.dev d) ∧
    (portUp s.dev p = true → (gport s.dev p).kept ≠ [] → becomes (.linkAckTimeout p) s (portDown s.dev p)) ∧
    (gpState s.dev p = 1 ∨ gpState s.dev p = 3 → lv < 256 →
      (lv ≤ getF s.dev FAB_LEVEL FAB_LEVEL_LINK_LEVEL + 1 → getF s.dev FAB_LEVEL FAB_LEVEL_LINK_LEVEL ≤ lv + 1 →
        answers (.linkLevel p lv) s fun d => (gport d p).levelOk = true ∧
          getF d (gpStatus p) GP_STATUS_LINK_LEVEL = min lv (getF s.dev FAB_LEVEL FAB_LEVEL_LINK_LEVEL) % 2 ^ GP_STATUS_LINK_LEVEL.w ∧
          getF d (gpStatus p) GP_STATUS_PEER_LEVEL = lv % 2 ^ GP_STATUS_PEER_LEVEL.w ∧ sameMem s.dev d) ∧
      (getF s.dev FAB_LEVEL FAB_LEVEL_LINK_LEVEL + 1 < lv ∨ lv + 1 < getF s.dev FAB_LEVEL FAB_LEVEL_LINK_LEVEL →
        answers (.linkLevel p lv) s fun d => gpState d p = 0 ∧
          getB d (GP_FAULT (portDie p) (portHalf p)) GP_FAULT_LEVEL = true)) ∧
    (gpState s.dev p = 1 ∨ gpState s.dev p = 3 → (edge s.dev (portDie p)).lost = false → getB s.dev SB_JTAG SB_JTAG_PINS = false →
      ((gport s.dev p).levelOk = true → becomes (.portTrainDone p true) s (portStart s.dev p) ∧
        answers (.portTrainDone p true) s fun d => gpState d p = 2 ∧ (gport d p).rxExp = 0 ∧ (gport d p).kept = []) ∧
      ((gport s.dev p).tries < 2 → answers (.portTrainDone p false) s fun d => (gport d p).tries = (gport s.dev p).tries + 1 ∧
        gpState d p = gpState s.dev p) ∧
      ((gport s.dev p).tries = 2 → answers (.portTrainDone p false) s fun d => gpState d p = 4))

/-- A JOIN part not gathered before joins the parts of its sender, job and epoch, and the join is tried; one whose check fails is
recorded. A join under way that has taken 10 s fails. A BEACON of the current epoch from a member makes it reachable and its
ceiling known, and quorum is judged again; a member whose BEACON is overdue is unreachable: quorum is judged again and the hold
timer starts; when the hold limit has passed the module leaves its job with status 0x10; BEACON_SEND sends one to every other
member (R355, R359 to R361, R439). -/
def Obligations.MembershipEvents : Prop :=
  ∀ (s : State) (p n m e tag : Nat) (x : RxPkt) (d1 : Dev),
    (takePkt s.dev p n 12 = (some x, d1) → ∀ d2, openRows d1 p x = (none, d2) → becomes (.joinPacket p n) s (integrityFault d2 p x.p.hdr.toNat)) ∧
    (takePkt s.dev p n 12 = (some x, d1) → ∀ d2 rows, openRows d1 p x = (some rows, d2) → d2.fab.mem.joins = [] →
      (∀ v, v = (rows.zip (List.range rows.length)).foldl (fun acc r => acc + r.1.data.toNat <<< (1024 * r.2)) 0 →
        bits v 144 16 < bits v 160 16 → answers (.joinPacket p n) s fun d => ∃ j : JoinRx, d = tryJoin (setMem d2 { d2.fab.mem with joins := [j] }) ∧
          j.src = hSrc x.p.hdr.toNat ∧ j.job = bits v 0 64 ∧ j.epoch = bits v 64 32 ∧ j.seen = [bits v 144 16])) ∧
    (takePkt s.dev p n 12 = (some x, d1) → ∀ d2 rows, openRows d1 p x = (some rows, d2) →
      ∀ v j0, v = (rows.zip (List.range rows.length)).foldl (fun acc r => acc + r.1.data.toNat <<< (1024 * r.2)) 0 →
        d2.fab.mem.joins.find? (fun j => j.src == hSrc x.p.hdr.toNat && j.job == bits v 0 64 && j.epoch == bits v 64 32) = some j0 →
        j0.seen.contains (bits v 144 16) = false → bits v 144 16 < j0.parts →
        answers (.joinPacket p n) s fun d => ∃ j : JoinRx, j.seen = j0.seen ++ [bits v 144 16] ∧
          d = tryJoin (setMem d2 { d2.fab.mem with joins := d2.fab.mem.joins.filter (fun j => !(j.src == hSrc x.p.hdr.toNat &&
            j.job == bits v 0 64 && j.epoch == bits v 64 32)) ++ [j] })) ∧
    (s.dev.fab.mem.joining = some (e, tag) → answers .joinTimeout s fun d => d.fab.mem.joining = none ∧ d.fab.mem.members = []) ∧
    (takePkt s.dev p n 11 = (some x, d1) → epochOk d1 x.p.hdr.toNat = true → isMember d1 (hSrc x.p.hdr.toNat) = true → inJob d1 = true →
      becomes (.beacon p n) s (judgeQuorum (agree (setBitAt
        (setMem d1 { d1.fab.mem with ceils := d1.fab.mem.ceils.put (hSrc x.p.hdr.toNat) (bits x.p.hdr.toNat 64 7) 80 })
        (FAB_PRESENT 0) (hSrc x.p.hdr.toNat) true)))) ∧
    (inJob s.dev = true → m ≠ myMod s.dev → isMember s.dev m = true → reachable s.dev m = true →
      becomes (.reachTimeout m) s (startHold (judgeQuorum (setBitAt s.dev (FAB_PRESENT 0) m false)))) ∧
    (inJob s.dev = true → s.dev.fab.mem.hold.isSome = true → becomes .holdTimerExpire s (endJob s.dev 0x10)) ∧
    (inJob s.dev = true → becomes .beaconSend s ((peers s.dev).foldl beaconTo s.dev))

/-- RDX_DESC_START with the START object reached, its die in service and its port not lost sets the unit to work; ALLREDUCE,
REDUCE_SCATTER and ALL_GATHER make the next step of a descriptor of their kind; RDX_DESC_DONE once every DST row has landed,
none refused, adds 1 to DONE and goes on. CONTRIB and DIGEST of the current epoch go to the contribution they belong to, a
NOTICE counts a blame; a VRD is gathered at the root of its axis, and elsewhere one of the module's own step and attempt is the
final record, taken on axis X and taken and returned further on Y and Z. REPAIR_DONE copies the repaired chunks and starts the
rerun where the verdict waits for it (R298 to R301, R305, R306, R308, R311, R317). -/
def Obligations.ReductionDescriptorsAndPackets : Prop :=
  ∀ (s : State) (k p n : Nat) (x : RxPkt) (d1 d2 : Dev) (rows : List FRow) (rr : List (Nat × Row)) (v : BitVec 64),
    (k < 16 → (edge s.dev k).lost = false → fenced s.dev = false → getF s.dev (RDX_STATUS k) RDX_STATUS_STATE = 1 →
      objReached s.dev (cdStart (curDesc s.dev k)) = true → gpState s.dev (k + 16 * cdPort (curDesc s.dev k)) ≠ 4 →
      becomes (.rdxDescStart k) s (modEng (setF s.dev (RDX_STATUS k) RDX_STATUS_STATE 2) k 0 (fun _ => { busy := true }))) ∧
    (∀ c ∈ [(1, Instr.allreduce k), (2, Instr.reduceScatter k), (3, Instr.allGather k)], k < 16 → (edge s.dev k).lost = false →
      fenced s.dev = false → (eng s.dev k 0).busy = true → cdOp (curDesc s.dev k) = c.1 →
      ((eng s.dev k 0).pos = 0 → becomes c.2 s (ringBegin s.dev k)) ∧
      ((eng s.dev k 0).pos = 1 → (eng s.dev k 0).sent = false → becomes c.2 s (ringSend s.dev k)) ∧
      ((eng s.dev k 0).pos = 1 → (eng s.dev k 0).sent = true → becomes c.2 s (ringTake s.dev k))) ∧
    (k < 16 → (eng s.dev k 0).busy = true → (eng s.dev k 0).pos = 2 → (eng s.dev k 0).bad = false →
      becomes (.rdxDescDone k) s (rdxAt (sendInc s.dev { obj := cdDone (curDesc s.dev k), ctx := s.dev.res.fg.getD 0, amt := 1, src := 700 + k })
        k (rdxCur s.dev k + 1))) ∧
    (takePkt s.dev p n 7 = (some x, d1) → epochOk d1 x.p.hdr.toNat = true → openRows d1 p x = (some rows, d2) →
      answers (.contrib p n) s fun d => ∃ f, d = withContrib d2 p x.p.hdr.toNat f ∧ ∀ c : Contrib, (f c).digest = c.digest ∧
        (f c).src = c.src ∧ (f c).phase = c.phase ∧ (f c).desc = c.desc) ∧
    (takePkt s.dev p n 8 = (some x, d1) → epochOk d1 x.p.hdr.toNat = true →
      becomes (.digest p n) s (withContrib d1 p x.p.hdr.toNat (fun c => { c with digest := some (BitVec.ofNat 64 (bits x.p.hdr.toNat 64 64)) }))) ∧
    (takePkt s.dev p n 9 = (some x, d1) → epochOk d1 x.p.hdr.toNat = true →
      answers (.notice p n) s fun d => getF d (RDX_BLAMED (portDie p)) RDX_BLAMED_COUNT =
        satInc RDX_BLAMED_COUNT.w (getF d1 (RDX_BLAMED (portDie p)) RDX_BLAMED_COUNT) ∧
        getB d (RDX_FAULT (portDie p)) RDX_FAULT_BLAMED = true) ∧
    (takePkt s.dev p n 10 = (some x, d1) → epochOk d1 x.p.hdr.toNat = true → openRows d1 p x = (some rows, d2) →
      ∀ r, r = bits (rows.headD {}).data.toNat 0 256 →
      (portAxis p = some 0 → myPos d2 0 ≠ 0 → ofAttempt d2 r = true → becomes (.vrd p n) s (takeFinal d2 r ((rows.drop 1).map (·.data)))) ∧
      (portAxis p = some 1 → myPos d2 1 ≠ 0 → ofAttempt d2 r = true → becomes (.vrd p n) s (returnX d2 r)) ∧
      (portAxis p = some 2 → myPos d2 2 ≠ 0 → ofAttempt d2 r = true → becomes (.vrd p n) s (returnY d2 r)) ∧
      (∀ i, portAxis p = some 0 → myPos d2 0 = 0 → ringPos d2 0 (hSrc x.p.hdr.toNat) = some i →
        becomes (.vrd p n) s (gatherX d2 i r (rowsTable ((rows.drop 1).map (·.data))))) ∧
      (∀ i, portAxis p = some 1 → myPos d2 1 = 0 → ringPos d2 1 (hSrc x.p.hdr.toNat) = some i → becomes (.vrd p n) s (gatherY d2 i r)) ∧
      (∀ i, portAxis p = some 2 → myPos d2 2 = 0 → ringPos d2 2 (hSrc x.p.hdr.toNat) = some i → becomes (.vrd p n) s (gatherZ d2 i r))) ∧
    (s.dev.fab.verd.repair = some (n, v) → ∀ d, d = setVerd (mgmtCopy s.dev (repairChunks s.dev v.toNat) rr)
        { (mgmtCopy s.dev (repairChunks s.dev v.toNat) rr).fab.verd with repair := none } →
      becomes (.repairDone rr) s (if getF d VRD_STATUS VRD_STATUS_STATE = 1 then passBegin d d.upd.clip false d.fab.verd.rcp else d))

/-- For a request that may start: DEFINE writes the descriptor (of a protected context with a key tag and its ephemeral keys) and
completes with OK; LOAD of a package that passes every check begins its writes; EVICT, with or without RELEASE, of a resident
context cancels its streams and closes its windows; DELETE of one not resident, with no LOAD under way, releases and zeroes it
and completes with OK, and of a resident one evicts it first; STAGE keeps a degraded package and completes with OK; STEP by the
foreground sets the step request; RULES replaces the rule table and completes with OK; TILE_RETURN of a shed tile returns it, a
RERUN cause, and completes with OK (R374, R376, R392 to R397, R277, R448, R482). -/
def Obligations.PantryRequestsAreCarriedOut : Prop :=
  ∀ (s : State) (r : PReq) (d1 d2 : Dev) (v : Nat) (host : Option Nat) (p q : Pkg) (n : Nat),
    (takeReq s.dev (fun r => r.op == 1) = some (r, d1) → arg r 18 32 + arg r 22 32 ≤ 98304 → ctxBits d1 r.ctx 0 1 = 0 → lcState d1 ≠ 4 →
      (bit r.flags 0 = false → becomes .define s (finish (setKeys (setCtx d1 r.ctx
        (1 + fv 1 1 0 + fv 2 1 (b2n (bit r.flags 1)) + fv 3 1 (b2n (bit r.flags 2)) + fv 4 1 (b2n (bit r.flags 3)) + fv 5 3 0 + fv 8 8 0 +
          fv 32 16 (arg r 16 16) + fv 64 64 (arg r 0 64) + fv 128 64 (arg r 8 64) + fv 192 17 (arg r 18 32) + fv 209 17 (arg r 22 32)))
        r.ctx {}) r.tag 0 0)) ∧
      (bit r.flags 0 = true → lcState d1 = 2 → freeTag d1 = some n → becomes .define s (finish (drawEph (setBitAt (setKeys (setCtx d1 r.ctx
        (1 + fv 1 1 1 + fv 2 1 (b2n (bit r.flags 1)) + fv 3 1 (b2n (bit r.flags 2)) + fv 4 1 (b2n (bit r.flags 3)) + fv 5 3 1 + fv 8 8 n +
          fv 32 16 (arg r 16 16) + fv 64 64 (arg r 0 64) + fv 128 64 (arg r 8 64) + fv 192 17 (arg r 18 32) + fv 209 17 (arg r 22 32)))
        r.ctx {}) (SEC_TAGS 0) n true) r.ctx) r.tag 0 0))) ∧
    (takeReq s.dev (fun r => r.op == 2) = some (r, d1) → payload d1 r host = ((some v, 0), d2) → parsePkg v r.plen = some p →
      loadRefused d2 r.ctx p = false → pkgRefusal d2 r.ctx (if ctxFiller d2 r.ctx then 2 else 0) p none = none →
      answers (.load host) s fun d => ∃ d3 : Dev, d = { d3 with pan := { d3.pan with works := d3.pan.works ++
        [{ op := 2, flags := 0, tag := r.tag, ctx := r.ctx, pkg := some p }] } }) ∧
    (takeReq s.dev (fun r => r.op == 3 && bit r.flags 0 == false) = some (r, d1) → ctxBits d1 r.ctx 0 1 = 1 → ctxState d1 r.ctx = 3 →
      becomes .evict s (startEvict d1 3 r.flags r.tag r.ctx)) ∧
    (takeReq s.dev (fun r => r.op == 3 && bit r.flags 0 == true) = some (r, d1) → ctxBits d1 r.ctx 0 1 = 1 → ctxState d1 r.ctx = 3 →
      becomes .evictRelease s (startEvict d1 3 r.flags r.tag r.ctx)) ∧
    (takeReq s.dev (fun r => r.op == 4) = some (r, d1) → ctxBits d1 r.ctx 0 1 = 1 →
      (ctxState d1 r.ctx < 3 → d1.pan.works.any (fun w => w.op == 2 && w.ctx == r.ctx) = false →
        becomes .delete s (finish (noPkg (zeroCtx (releaseChunks d1 r.ctx) r.ctx) r.ctx) r.tag 0 0)) ∧
      (ctxState d1 r.ctx = 3 → becomes .delete s (startEvict d1 4 1 r.tag r.ctx))) ∧
    (takeReq s.dev (fun r => r.op == 5) = some (r, d1) → payload d1 r host = ((some v, 0), d2) → d2.res.fg = some r.ctx → d2.primary = some q →
      parsePkg v r.plen = some p → pkgRefusal d2 r.ctx 1 p (some q) = none → d2.staged.length < 80 →
      ∀ d4, d4 = finish (logPkg (setR { d2 with staged := d2.staged.filter (fun s => pkLost s != pkLost p) ++ [p] } PLC_STAGED
        ((d2.staged.filter (fun s => pkLost s != pkLost p)).length + 1)) r.ctx p) r.tag 0 0 →
      becomes (.stage host) s (if d4.pan.works.any (fun w => w.op == 101) && pkLost p == lostSet d4 then startDegraded d4 else d4)) ∧
    (takeReq s.dev (fun r => r.op == 8) = some (r, d1) → 0 < arg r 0 32 → arg r 4 8 ≤ 8 → arg r 5 24 = 0 →
      (List.range 8).all (fun i => arg r (16 + 16 * i + 6) 16 == 0) = true → d1.res.fg = some r.ctx → fwBusy d1 = false →
      (arg r 4 8 = 0 ∨ ctxBits d1 r.ctx 209 17 ≠ 0) →
      becomes .step s { d1 with pan := { d1.pan with step := (some
        { tag := r.tag, count := arg r 0 32, nin := arg r 4 8, stride := arg r 8 64, ext := BitVec.ofNat 1024 (arg r 16 1024) }) } }) ∧
    (takeReq s.dev (fun r => r.op == 9) = some (r, d1) → payload d1 r host = ((some v, 0), d2) → d2.res.fg.isSome = true →
      rulesOk { typ := 0xB, idx := 0, len := r.plen, body := v } = true →
      becomes (.rules host) s (finish (loadSec r.ctx false 0 d2 { typ := 0xB, idx := 0, len := r.plen, body := v }) r.tag 0 0)) ∧
    (takeReq s.dev (fun r => r.op == 0xE) = some (r, d1) → n = arg r 0 8 → n < 64 → tileShed d1 n = true → d1.heat.fillerShed.contains n = false →
      becomes .tileReturn s (finish (raiseRerun (setBitAt (returnTile d1 n) MOD_TILE_LOST_0 n false) .step) r.tag 0 0))

/-- For a request that may start: JOIN of a valid membership record outside a job, in a life-cycle state that allows one and with no
foreground of another job, starts the join; LEAVE in a job leaves it and completes with OK, outside one with STATE; a BLOB_LOAD
whose manifest checks, a CKPT_OUT, a COPY_IN and a COPY_OUT of the form their rules ask begin their work; WINDOW_OPEN of a
window that R345 allows opens it and completes with OK; WINDOW_CLOSE of an open one closes it; PANTRY_REQUEST_RELEASE starts the
request that waited (LOAD, EVICT, DELETE, JOIN, LEAVE, STEP, RULES) as that request's own command does (R345, R346, R355, R361,
R394, R395, R409, R410, R415, R480, R481). -/
def Obligations.PantryRequestsForJobsCopiesAndWindows : Prop :=
  ∀ (s : State) (r : PReq) (d1 d2 d3 : Dev) (v n h m : Nat) (host : Option Nat),
    (takeReq s.dev (fun r => r.op == 6) = some (r, d1) → payload d1 r host = ((some v, 0), d2) → getF d2 FAB_STATE FAB_STATE_STATE = 0 →
      fwBusy d2 = false → lcState d2 ≠ 0 → lcState d2 ≠ 4 → mrOk d2 v r.plen = true →
      (∀ c, d2.res.fg = some c → ctxBits d2 c 128 64 = mrJob v) → becomes (.join host) s (startJoin d2 r.tag v)) ∧
    (takeReq s.dev (fun r => r.op == 7) = some (r, d1) → inJob d1 = true → becomes .leave s (finish (leaveJob d1) r.tag 0 0)) ∧
    (takeReq s.dev (fun r => r.op == 7) = some (r, d1) → inJob d1 = false → becomes .leave s (finish d1 r.tag 2 0)) ∧
    (s.dev.pan.taken.find? (fun r => !isHeld s.dev r) = some r →
      (∀ i ∈ [(2, Instr.load host), (4, Instr.delete), (6, Instr.join host), (7, Instr.leave), (8, Instr.step), (9, Instr.rules host)],
        r.op = i.1 → exec (.pantryRequestRelease host) s = exec i.2 s) ∧
      (r.op = 3 → exec (.pantryRequestRelease host) s = exec (if bit r.flags 0 then .evictRelease else .evict) s)) ∧
    (takeReq s.dev (fun r => r.op == 0xA) = some (r, d1) → r.pspace = 1 → reserveBytes d1 r.paddr 64 = (some h, d2) →
      reserveBytes d2 (r.paddr + 64) (8 * bits h 96 32) = (some m, d3) → bits h 0 32 = 1 → bits h 80 16 = 0 →
      (bits h 63 1 = 1 ∨ bits h 64 16 = 0) →
      ctxProt d2 r.ctx = true → ctxState d1 r.ctx = 2 ∨ ctxState d1 r.ctx = 3 → (keysOf d2 r.ctx).kw.isSome = true →
      (keysOf d2 r.ctx).blobs.contains (bits h 32 32, bits h 64 16) = false →
      natOfBytes (sha384 (bytesOf (8 * bits h 96 32) m)) = bits h 128 384 →
      (List.range (bits h 96 32)).any (fun i => bits m (64 * i + 22) 2 != 0 || bits m (64 * i + 35) 29 != 0) = false →
      ((List.range (bits h 96 32)).map (fun i => bits m (64 * i) 22)).all (ownsChunk d3 r.ctx) = true →
      becomes .blobLoad s { d3 with pan := { d3.pan with works := d3.pan.works ++
        [{ op := 0xA, flags := 0, tag := r.tag, ctx := r.ctx, src := r.paddr, len := bits h 96 32, data := m }] } }) ∧
    (takeReq s.dev (fun r => r.op == 0xB) = some (r, d1) → arg r 0 64 % 128 = 0 → ctxProt d1 r.ctx = true →
      ctxState d1 r.ctx = 2 ∨ ctxState d1 r.ctx = 3 → (keysOf d1 r.ctx).ckpt = true → (keysOf d1 r.ctx).kw.isSome = true → epoch d1 < 2 ^ 31 →
      becomes .ckptOut s { d1 with pan := { d1.pan with works := d1.pan.works ++
        [{ op := 0xB, flags := 0, tag := r.tag, ctx := r.ctx, dst := arg r 0 64 }] } }) ∧
    (takeReq s.dev (fun r => r.op == 0xC) = some (r, d1) → arg r 0 64 % 128 = 0 → r.plen % 128 = 0 → r.pspace = 0 →
      becomes .copyIn s { d1 with pan := { d1.pan with works := d1.pan.works ++
        [{ op := 0xC, flags := 0, tag := r.tag, ctx := r.ctx, src := r.paddr, dst := arg r 0 64, len := r.plen / 128 }] } }) ∧
    (takeReq s.dev (fun r => r.op == 0xD) = some (r, d1) → becomes .copyOut s { d1 with pan := { d1.pan with works := d1.pan.works ++
        [{ op := 0xD, flags := 0, tag := r.tag, ctx := r.ctx, src := arg r 0 64, dst := arg r 8 64, len := arg r 16 32 }] } }) ∧
    (takeReq s.dev (fun r => r.op == 0xF && !bit r.flags 0) = some (r, d1) → n = arg r 0 16 → n < 8192 → v = arg r 2 512 → wReserved v = 0 →
      wEpoch v = 0 → wBase v % 128 = 0 → wLen v ≠ 0 → winSpanOk (wBase v) (wLen v) = true → winOk d1 n v 0 = true →
      becomes .windowOpen s (finish (openWin d1 n v) r.tag 0 0)) ∧
    (takeReq s.dev (fun r => r.op == 0xF && bit r.flags 0) = some (r, d1) → n = arg r 0 16 → n < 8192 → wValid (winDesc d1 n) = true →
      wEpoch (winDesc d1 n) = 0 → becomes .windowClose s (closeWin d1 n (some r.tag)))

/-- CONTEXT_WRITES_DONE of a load makes it due at the next origin, and of an eviction or deletion once the context's streams are
gone and its windows closed. BLOB_LOAD_DONE with a weight key, of a blob not loaded since, its chunks still the context's own:
where every chunk opens the manifest is counted, the blob noted and OK answered, otherwise the blob tag status; without a key it
completes with STATE. CKPT_OUT_DONE copies the chunk maps, seals the context's chunks and writes header, manifest and chunks,
and answers OK, or TARGET where a write is refused; without a key STATE. Where bus-master requests are allowed (R476),
COPY_IN_DONE lands the rows fetched, or completes with HOST_READ where the fetch failed, and COPY_OUT_DONE writes the rows to
the host (R274, R397, R408 to R410, R481). -/
def Obligations.WorkUnderWayCompletes : Prop :=
  ∀ (s : State) (n v : Nat) (w : Work) (d1 : Dev), s.dev.pan.works[n]? = some w →
    d1 = { s.dev with pan := { s.dev.pan with works := s.dev.pan.works.eraseIdx n } } →
    (w.op = 2 ∨ ((w.op = 3 ∨ w.op = 4) ∧ streamsGone s.dev w.ctx = true ∧ s.dev.fab.closing.all (fun x => wCtx (winDesc s.dev x.1) != w.ctx) = true) →
      becomes (.contextWritesDone n) s
        { s.dev with pan := { s.dev.pan with works := s.dev.pan.works.set n { w with done := true } } }) ∧
    (w.op = 0xA → ∀ h d2, reserveBytes d1 w.src 64 = (h, d2) →
      ((keysOf d1 w.ctx).kw = none → becomes (.blobLoadDone n) s (finish d2 w.tag 2 0)) ∧
      (∀ kw, (keysOf d1 w.ctx).kw = some kw → (keysOf d1 w.ctx).blobs.contains (bits (h.getD 0) 32 32, bits (h.getD 0) 64 16) = false →
        ((List.range w.len).map (fun i => bits w.data (64 * i) 22)).all (ownsChunk d2 w.ctx) = true →
        ∀ o, o = openChunks w (h.getD 0) (ctxTag d2 w.ctx) (bytesOf 32 kw.toNat) w.len 0 d2 →
          answers (.blobLoadDone n) s fun d => if o.1 then ∃ d3, d = finish d3 w.tag 0 0 ∧
              (keysOf d3 w.ctx).manCount = (keysOf o.2 w.ctx).manCount + 1 ∧
              (keysOf d3 w.ctx).blobs = (keysOf o.2 w.ctx).blobs ++ [(bits (h.getD 0) 32 32, bits (h.getD 0) 64 16)]
            else d = finish o.2 w.tag 9 0)) ∧
    (w.op = 0xB →
      ((keysOf (copyMaps d1) w.ctx).kw = none → becomes (.ckptOutDone n) s (finish (copyMaps d1) w.tag 2 0)) ∧
      ((keysOf (copyMaps d1) w.ctx).kw.isSome = true → answers (.ckptOutDone n) s fun d => ∃ b m d2, d =
        finish (mgmtWrite w.dst b m d2).2 w.tag (if (mgmtWrite w.dst b m d2).1 then 0 else 5) 0)) ∧
    (w.op = 0xC → busMaster s.dev = true → becomes (.copyInDone n none) s (finish d1 w.tag 4 0) ∧
      becomes (.copyInDone n (some v)) s (finish (hostRows w.dst v w.len d1).2 w.tag (if (hostRows w.dst v w.len d1).1 then 0 else 5) 0)) ∧
    (w.op = 0xD → busMaster s.dev = true → ∀ o, o = hostOut w.src w.dst (w.len / 128 + 2) w.len (copyMaps d1) →
      becomes (.copyOutDone n) s (finish o.2 w.tag (if o.1 then 0 else 5) 0))

/-- P_cap in W is ten times the lower of PWR_CAP_HOST and PWR_CAP_BMC. A served host cap write, and an SMBus CAP write with a valid
PEC, of a value in 600 to 1,800 (units of 10 W) store it in their register, every other register and memory unchanged, and where
that changes P_cap what follows from a new cap is done (R434, R436); a write of any other value changes nothing. -/
def Obligations.EffectiveCapIsTheLowerRegister : Prop :=
  ∀ (s : State) (v : Nat),
    pCap s.dev = min (10 * getF s.dev PWR_CAP_HOST PWR_CAP_HOST_CAP) (10 * getF s.dev PWR_CAP_BMC PWR_CAP_BMC_CAP) ∧
    (barOk s.dev PWR_CAP_HOST 4 = true → 600 ≤ v ∧ v ≤ 1800 → ∃ d1, getF d1 PWR_CAP_HOST PWR_CAP_HOST_CAP = v ∧
      (∀ a, a ≠ PWR_CAP_HOST → getR d1 a = getR s.dev a) ∧ sameMem s.dev d1 ∧
      becomes (.hostCapWrite v) s (if pCap d1 = pCap s.dev then d1 else capChanged d1)) ∧
    (smFull s.dev = true → 600 ≤ v ∧ v ≤ 1800 → ∃ d1, getF d1 PWR_CAP_BMC PWR_CAP_BMC_CAP = v ∧
      (∀ a, a ≠ PWR_CAP_BMC → getR d1 a = getR s.dev a) ∧ sameMem s.dev d1 ∧
      becomes (.capWrite v (crc8 ([smAddr s.dev, 0x20] ++ bytesOf 2 v))) s (if pCap d1 = pCap s.dev then d1 else capChanged d1)) ∧
    (v < 600 ∨ 1800 < v → exec (.hostCapWrite v) s = .next s ∧
      (v < 2 ^ 16 → ∀ pec, exec (.capWrite v pec) s = .next s ∨ smRom s.dev = true))

/-- A droop warning puts the module in droop hold and shows it; each clock step lowers a held clock above 1.5 GHz by one code, and
leaves one at or below it; recovery ends the hold and counts it; a power-fail stops the compute clocks, ends the step in RERUN,
and recovery after it lets compute start at the next origin. A rail sag of a running tile adds 1 to TILE_SAG_CNT, its recovery
ends it; a fast trip holds the tile's cores and adds 1 to TILE_FT_CNT, its release lets them issue (R429, R436, R441 to R445). -/
def Obligations.SupplyDroopAndRailEvents : Prop :=
  ∀ (s : State) (k t : Nat),
    (s.dev.pwr.droop = false → s.dev.pwr.failed = false → answers (.droopWarning t) s fun d => d.pwr.droop = true ∧
      getF d PWR_STATUS PWR_STATUS_SUPPLY = 1 ∧ sameMem s.dev d) ∧
    (s.dev.pwr.failed = false → s.dev.pwr.droop = true → answers (.droopClockStep t) s fun d =>
      d.pwr.clk = (if 20 < s.dev.pwr.clk then s.dev.pwr.clk - 1 else s.dev.pwr.clk) ∧ sameMem s.dev d) ∧
    (s.dev.pwr.failed = false → s.dev.pwr.droop = true → answers (.supplyRecovery t) s fun d => d.pwr.droop = false ∧
      getF d PWR_STATUS PWR_STATUS_SUPPLY = 0 ∧ getF d PWR_DROOP_CNT PWR_DROOP_CNT_DROOP =
        satInc PWR_DROOP_CNT_DROOP.w (getF s.dev PWR_DROOP_CNT PWR_DROOP_CNT_DROOP) ∧ sameMem s.dev d) ∧
    (s.dev.pwr.failed = true → becomes (.supplyRecovery t) s { s.dev with pwr := { s.dev.pwr with resume := true } }) ∧
    (s.dev.pwr.failed = false → answers (.powerFail t) s fun d => d.pwr.failed = true ∧ getF d PWR_STATUS PWR_STATUS_SUPPLY = 2 ∧
      (∀ c, c < 320 → (core d c).run = none)) ∧
    (k < 64 → tileRuns s.dev k = true → s.dev.pwr.sag.contains k = false → answers (.railSag k t) s fun d => k ∈ d.pwr.sag ∧
      getF d (TILE_SAG_CNT k) TILE_SAG_CNT_COUNT = (getF s.dev (TILE_SAG_CNT k) TILE_SAG_CNT_COUNT + 1) % 2 ^ TILE_SAG_CNT_COUNT.w ∧
      (∀ a, a ≠ TILE_SAG_CNT k → getR d a = getR s.dev a) ∧ sameMem s.dev d ∧ d.cores = s.dev.cores) ∧
    (s.dev.pwr.sag.contains k = true → answers (.sagRecovery k t) s fun d => k ∉ d.pwr.sag ∧ d.regs = s.dev.regs ∧ sameMem s.dev d) ∧
    (k < 64 → tileRuns s.dev k = true → s.dev.pwr.trip.contains k = false → answers (.fastTrip k t) s fun d => k ∈ d.pwr.trip ∧
      getF d (TILE_FT_CNT k) TILE_FT_CNT_COUNT = (getF s.dev (TILE_FT_CNT k) TILE_FT_CNT_COUNT + 1) % 2 ^ TILE_FT_CNT_COUNT.w ∧
      (∀ a, a ≠ TILE_FT_CNT k → getR d a = getR s.dev a) ∧ d.rerunStep = s.dev.rerunStep ∧ sameMem s.dev d) ∧
    (s.dev.pwr.trip.contains k = true → answers (.fastTripRelease k t) s fun d => k ∉ d.pwr.trip ∧ d.regs = s.dev.regs ∧ sameMem s.dev d)

/-- HEADER_STAGE closes a staging core's next stage; after the eighth, with the supply settled the core is on, otherwise its
switches open again, which is recorded; either way its tile's next core begins. COVERAGE_CHANGE 200 ns after a note gives the
core that coverage. PWE_ESTIMATE shows the calibrated estimate. VCM_POWER_SAMPLE shows the measured total and lowest input.
CAP_CONTROL_TICK above the cap lowers the cap ceiling by the larger of 1 and 100 x the excess over the cap, and says the cap is
unmet where that leaves it 0; below 0.97 of the cap for the tenth tick it raises it by one up to 80; between, it stays; the
module ceiling is found again (R228, R426, R428, R430, R431, R434). -/
def Obligations.PowerMeasurementAndControl : Prop :=
  ∀ (s : State) (c k p vin lv : Nat) (acts ps cls : List Nat),
    (c < 320 → hdrState s.dev c = 1 → s.dev.pwr.stages.get c 0 < 8 → becomes (.headerStage c true) s
      { s.dev with pwr := { s.dev.pwr with stages := s.dev.pwr.stages.put c (s.dev.pwr.stages.get c 0 + 1) 0 } }) ∧
    (c < 320 → hdrState s.dev c = 1 → s.dev.pwr.stages.get c 0 = 8 → becomes (.headerStage c true) s
      (stageNext { (setHdr s.dev c 2) with pwr := { (setHdr s.dev c 2).pwr with stages := (setHdr s.dev c 2).pwr.stages.put c 0 0 } } (c / 5)) ∧
      becomes (.headerStage c false) s (stageNext (report (openHdr s.dev c) { cls := 0x04, kind := 1, unit := c, scope := .step }) (c / 5))) ∧
    (c < 320 → (core s.dev c).note = some lv → answers (.coverageChange c) s fun d => (core d c).note = none ∧
      getF d (CL_NOTE c) CL_NOTE_COVER = lv % 2 ^ CL_NOTE_COVER.w ∧ sameMem s.dev d) ∧
    (k < 64 → baseLost s.dev k = false → becomes (.pweEstimate k acts) s (setF s.dev (TILE_P k) TILE_P_EST_W
      (min 0xFFFF (getF s.dev (TILE_CAL k) TILE_CAL_K * Config.pwe k (getF s.dev (IVR_RAIL k) IVR_RAIL_VCOMP_MV)
        (getF s.dev FREQ_STATUS FREQ_STATUS_F_JOB) (unitTemp s.dev 1 (5 * k)) acts / 4096)))) ∧
    (answers (.vcmPowerSample ps cls vin) s fun d => getF d PWR_IN_P PWR_IN_P_W = min 0xFFFF ps.sum % 2 ^ PWR_IN_P_W.w ∧
      getF d PWR_IN_V PWR_IN_V_V = vin % 2 ^ PWR_IN_V_V.w ∧ sameMem s.dev d) ∧
    (pCap s.dev < p → max 1 (100 * (p - pCap s.dev) / pCap s.dev) < s.dev.pwr.capCeil → becomes (.capControlTick p) s (newCeiling
      (setB { s.dev with pwr := { s.dev.pwr with capCeil := s.dev.pwr.capCeil - max 1 (100 * (p - pCap s.dev) / pCap s.dev), under := 0 } }
        PWR_STATUS PWR_STATUS_CAP_UNMET false))) ∧
    (pCap s.dev < p → s.dev.pwr.capCeil ≤ max 1 (100 * (p - pCap s.dev) / pCap s.dev) → getB s.dev PWR_STATUS PWR_STATUS_CAP_UNMET = false →
      becomes (.capControlTick p) s (newCeiling (raiseAlert
        (setB { s.dev with pwr := { s.dev.pwr with capCeil := 0, under := 0 } } PWR_STATUS PWR_STATUS_CAP_UNMET true) 3))) ∧
    (100 * p < 97 * pCap s.dev → s.dev.pwr.under = 9 → becomes (.capControlTick p) s (newCeiling
      (setB { s.dev with pwr := { s.dev.pwr with capCeil := min 80 (s.dev.pwr.capCeil + 1), under := 0 } }
        PWR_STATUS PWR_STATUS_CAP_UNMET false))) ∧
    (p ≤ pCap s.dev → 97 * pCap s.dev ≤ 100 * p → becomes (.capControlTick p) s (newCeiling
      (setB { s.dev with pwr := { s.dev.pwr with under := 0 } } PWR_STATUS PWR_STATUS_CAP_UNMET false)))

/-- STACK_TEMP_READ shows the temperature and HOT above 85 degrees; below 105 nothing else changes, and the tenth reading in a row
of 105 or more loses the stack. VCM_FAULT of a tile's VCM alerts, is recorded with a RERUN cause, and loses the base die, of an
edge VCM its two edge dies. IVR_CELL_FAIL of the first cell of a group lowers the tile's derate ceiling to 2 codes below the
lower of f_job and its ceiling; of a second one it loses the compute die, or for groups 10 and 11 the base die.
THERMAL_EVALUATION sheds, at the next origin, a tile that has been at 105 degrees for ten samples and may be shed, lowers by 8
the ceiling of one that may not, lowers by one that of each other tile above 95 degrees, and finds the module ceiling again.
THERMAL_CEILING_RAISE after 100 ms below 90 degrees raises it by one up to 80. SHED_RETURN after 1 s returns a tile shed with
fillers only (R236, R245, R246, R421, R424, R425, R446 to R448, R450). -/
def Obligations.LossesAndTemperatures : Prop :=
  ∀ (s : State) (n t i temp : Nat),
    (n < 128 → baseLost s.dev (n / 2) = false → temp < 105 → answers (.stackTempRead n temp) s fun d =>
      getF d (CC_TEMP (n / 2) (n % 2)) CC_TEMP_TEMP_C = temp ∧
      getB d (CC_STATUS (n / 2) (n % 2)) CC_STATUS_HOT = decide (85 < temp) ∧ sameMem s.dev d) ∧
    (n < 128 → baseLost s.dev (n / 2) = false → 105 ≤ temp → s.dev.heat.stackHot.get n 0 = 9 → stackLost s.dev n = false →
      answers (.stackTempRead n temp) s fun d => ∃ d0, d = loseStack d0 n ∧ stackLost d n = true) ∧
    (n < 64 → s.dev.pwr.vcmOff.contains n = false → becomes (.vcmFault n) s (loseBase (report
      (raiseAlert { s.dev with pwr := { s.dev.pwr with vcmOff := s.dev.pwr.vcmOff ++ [n] } } 2) { cls := 0x24, kind := 8, unit := n, scope := .step }) n)) ∧
    (64 ≤ n → n < 72 → s.dev.pwr.vcmOff.contains n = false → becomes (.vcmFault n) s (loseEdge (loseEdge (report
      (raiseAlert { s.dev with pwr := { s.dev.pwr with vcmOff := s.dev.pwr.vcmOff ++ [n] } } 2) { cls := 0x24, kind := 8, unit := n, scope := .step })
        (2 * (n - 64))) (2 * (n - 64) + 1))) ∧
    (t < 64 → i < 48 → baseLost s.dev t = false → getBitAt s.dev (IVR_FAILED_LO t) i = false →
      ((List.range 4).any (fun j => getBitAt s.dev (IVR_FAILED_LO t) (4 * (i / 4) + j)) = false →
        ∀ d1, d1 = report (setBitAt s.dev (IVR_FAILED_LO t) i true) { cls := 0x22, kind := 2, unit := t, sub := i, oper := i / 4 } →
        becomes (.ivrCellFail t i) s (newCeiling (setF d1 (TILE_CEIL t) TILE_CEIL_DERATE
          (min (getF s.dev FREQ_STATUS FREQ_STATUS_F_JOB) (getF s.dev (TILE_CEIL t) TILE_CEIL_DERATE) - 2)))) ∧
      ((List.range 4).any (fun j => getBitAt s.dev (IVR_FAILED_LO t) (4 * (i / 4) + j)) = true →
        ∀ d1, d1 = report (setBitAt s.dev (IVR_FAILED_LO t) i true) { cls := 0x22, kind := 2, unit := t, sub := i, oper := i / 4, scope := .step } →
        becomes (.ivrCellFail t i) s (if i / 4 < 10 then loseCompute d1 t else loseBase d1 t))) ∧
    becomes .thermalEvaluation s (newCeiling ((List.range 64).foldl (fun d t =>
      if baseLost d t then d
      else if 10 ≤ d.heat.hot.get t 0 then
        if tileRuns d t && mayShed d t then { d with heat := { d.heat with shedDue := (d.heat.shedDue.filter (· != t)) ++ [t] } }
        else setF d (TILE_CEIL t) TILE_CEIL_THERMAL (getF d (TILE_CEIL t) TILE_CEIL_THERMAL - 8)
      else if 95 < d.heat.junction.get t 0 ∨ 95 < max (getF d (CC_TEMP t 0) CC_TEMP_TEMP_C) (getF d (CC_TEMP t 1) CC_TEMP_TEMP_C)
        then setF d (TILE_CEIL t) TILE_CEIL_THERMAL (getF d (TILE_CEIL t) TILE_CEIL_THERMAL - 1) else d) s.dev)) ∧
    (t < 64 → s.dev.heat.raised.get t 0 + 100 ≤ s.dev.heat.cool.get t 0 → becomes (.thermalCeilingRaise t) s
      (newCeiling (setF { s.dev with heat := { s.dev.heat with raised := s.dev.heat.raised.put t (s.dev.heat.raised.get t 0 + 100) 0 } } (TILE_CEIL t) TILE_CEIL_THERMAL
        (min 80 (getF s.dev (TILE_CEIL t) TILE_CEIL_THERMAL + 1))))) ∧
    (s.dev.heat.fillerShed.contains t = true → 1000 ≤ s.dev.heat.cool.get t 0 → becomes (.shedReturn t) s (returnTile s.dev t))

/-- ERROR_RECORD of a record that is not counted as lasting: FLT_LOG_SEQ rises by one, the ring holds the record stamped with that
SEQ at SEQ mod 8,192. PLOG_COPY moves the oldest waiting record into the persistent log; PLOG_COPY_TIMEOUT drops one, sets
PLOG_DROP and alerts. TEST_ROUND counts its mismatches and its round; TEST_REFEREE blames the slot whose digest differs.
TAKEOVER_DONE with the spare powered serves the slot from the next stop tick. POISON_REPAIR_DONE with a poisoned row ends the
job with status 0x11 (R453 to R455, R459, R462, R467, R468). -/
def Obligations.ErrorRecordsAndTests : Prop :=
  ∀ (s : State) (n t q chunk c : Nat) (e : BitVec 512) (rest : List (BitVec 512)) (runs : List (Nat × BitVec 64 × BitVec 64))
      (dig : BitVec 64) (rows : List (Nat × Row)) (k : Takeover),
    (s.dev.recFlight[n]? = some e → (countEvent { s.dev with recFlight := s.dev.recFlight.eraseIdx n } e t).1 = (false, c) →
      answers (.errorRecord n t) s fun d => d.recFlight = s.dev.recFlight.eraseIdx n ∧
        getR d FLT_LOG_SEQ = (getR s.dev FLT_LOG_SEQ + 1) % 2 ^ 32 ∧ (∃ p, d.flt.log.get ((getR s.dev FLT_LOG_SEQ + 1) % 2 ^ 32 % 8192) 0 =
          stamp e false p c ((getR s.dev FLT_LOG_SEQ + 1) % 2 ^ 32)) ∧ sameMem s.dev d) ∧
    (s.dev.flt.plogWait = e :: rest → answers .plogCopy s fun d => d.flt.plogWait = rest ∧
      d.flt.plog.get (s.dev.flt.plogNext % 32768) 0 = e ∧ d.flt.plogNext = (s.dev.flt.plogNext % 32768 + 1) % 32768 ∧ sameMem s.dev d) ∧
    (n < s.dev.flt.plogWait.length → answers (.plogCopyTimeout n) s fun d => d.flt.plogWait = s.dev.flt.plogWait.eraseIdx n ∧
      getB d FLT_STATUS FLT_STATUS_PLOG_DROP = true ∧ bit d.alert 5 = true ∧ sameMem s.dev d) ∧
    (s.dev.flt.test = true → anyInject s.dev = false → answers (.testRound runs) s fun d =>
      getR d FLT_TEST_ROUNDS = (getR s.dev FLT_TEST_ROUNDS + 1) % 2 ^ 32 ∧ sameMem s.dev d) ∧
    (∀ p, s.dev.flt.testPend.find? (fun p => p.1 == q) = some p → anyInject s.dev = false → dig = p.2.2.1 →
      becomes (.testReferee q dig) s (blameSlot { s.dev with flt := { s.dev.flt with testPend := s.dev.flt.testPend.erase p } } (partner q p.2.1))) ∧
    (s.dev.flt.takeovers.find? (fun k => k.tile == t && !k.done) = some k → hdrState s.dev k.spare = 2 → slotCore s.dev t k.slot = some c →
      answers (.takeoverDone t) s fun d => ∃ d0, d = mapAt d0 t
        (insBits (insBits (getR s.dev (TILE_CORE_MAP t)) (4 * k.slot) 3 (k.spare % 5)) 16 3 7)) ∧
    (s.dev.flt.repair.contains chunk = true → becomes (.poisonRepairDone chunk true rows) s
      (endJob { s.dev with flt := { s.dev.flt with repair := [] } } 0x11))

/-- FW_UPDATE of an acceptable image on a drained module empties the target slot and begins programming; FW_UPDATE_DONE of an image
whose signatures verify programs it as a TRIAL and completes with OK, of another refuses it with reason 1; CONFIG_IMAGE_UPDATE
of 64 bytes on a drained module writes the copy not in use and completes; in ROM recovery a piece out of order is ignored, the
next piece, which does not complete LENGTH, is kept (the first in an erased slot) and the one after it asked for, and the piece
that completes an acceptable image programs and selects it where its signatures verify, and else fails it (R499, R523 to R525,
R528). -/
def Obligations.FirmwareUpdatesAndRecovery : Prop :=
  ∀ (s : State) (r : PReq) (d1 d2 : Dev) (host : Option Nat) (v n : Nat) (j : FwJob) (rest : List FwJob),
    (takeReq s.dev (fun r => r.op == 0x12 && arg r 0 8 != 0x10) = some (r, d1) → arg r 0 8 ≤ 4 → fwDrained d1 = true →
      payload d1 r host = ((some v, 0), d2) → fwReason d2 (arg r 0 8) r.plen (BitVec.ofNat 2048 v) = 0 →
      answers (.fwUpdate host) s fun d => getB d FW_STATUS FW_STATUS_BUSY = true ∧ ∃ q, d.boot.fwq = q ++
        [{ tag := r.tag, comp := arg r 0 8, after := bit r.flags 0, data := v, len := r.plen, tgt := fwTarget d2 (arg r 0 8) }]) ∧
    (takeReq s.dev (fun r => r.op == 0x12 && arg r 0 8 == 0x10) = some (r, d1) → fwDrained d1 = true → r.plen = 64 →
      payload d1 r host = ((some v, 0), d2) → answers (.configImageUpdate host) s fun d => ∃ c y, d = resetAfter (finish
        { d2 with attic := { d2.attic with cfg := d2.attic.cfg.put c y (BitVec.allOnes 512) } } r.tag 0 0) (bit r.flags 0) ∧
        c = (if getB d2 CFG_STATUS CFG_STATUS_VALID then 1 - getF d2 CFG_STATUS CFG_STATUS_COPY else 0)) ∧
    (s.dev.boot.fwq = j :: rest → ∀ d1, d1 = setB { s.dev with boot := { s.dev.boot with fwq := rest } } FW_STATUS FW_STATUS_BUSY false →
      becomes .fwUpdateDone s (if imgSigned j.data then resetAfter (finish (fwProgram d1 j.comp j.tgt j.data) j.tag 0 0) j.after
        else finish (fwRefuse d1 j.comp 1) j.tag 2 0)) ∧
    (barOk s.dev RCV_CTL 4 = true → n ≠ getF s.dev RCV_STATUS RCV_STATUS_NEXT → exec (.rcvPiece n) s = .next s) ∧
    (barOk s.dev RCV_CTL 4 = true → inRecovery s.dev = true → n = getF s.dev RCV_STATUS RCV_STATUS_NEXT →
      d1 = (if n = 0 then fwErase s.dev 4 (fwTarget s.dev 4) else s.dev) →
      v = (if n = 0 then 0 else d1.boot.rcv) + rcvData s.dev <<< (262144 * n) → ihLength (BitVec.ofNat 2048 v) ≤ regionSize 4 →
      (32768 * (n + 1) < ihLength (BitVec.ofNat 2048 v) →
        becomes (.rcvPiece n) s (setRcv { d1 with boot := { d1.boot with rcv := v } } 1 (n + 1))) ∧
      (ihLength (BitVec.ofNat 2048 v) ≤ 32768 * (n + 1) → d2 = { d1 with boot := { d1.boot with rcv := 0 } } →
        imgHdrOk 4 (BitVec.ofNat 2048 v) = true → fusedArb d2 4 ≤ ihArb (BitVec.ofNat 2048 v) →
        becomes (.rcvPiece n) s (if imgSigned (v % 2 ^ (8 * ihLength (BitVec.ofNat 2048 v))) then setRcv (selectMgmt
          (fwProgram d2 4 (fwTarget s.dev 4) (v % 2 ^ (8 * ihLength (BitVec.ofNat 2048 v))))) 2 0 else setRcv d2 3 0)))

/-- POWER_GOOD of an unpowered module begins a cold start in ROM; BOOT_STAGE_DONE of a start whose fuses are good moves it from its
stage to the next with that stage's work, up to stage 9; READY at stage 9, or at stage 3 in maintenance mode, sets READY and
STAGE 10 and ends the reset, and RESET_DONE with no tile or context reset under way does the same; PERST# asserted wipes the
module and holds it idle, deasserted restarts it from ROM; input below 38.0 V, or above the overvoltage limit, switches the
module off; a MODULE_RESET request completes its record before the reset begins; a TILE_RESET request of a tile that is there,
with no reset in progress, waits for its origin, and ends the step in RERUN where the tile is used; with a tile reset in
progress it is absorbed into that one; RESET_DONE of a tile reset whose work is done completes its record with OK (R441, R492,
R500 to R503, R505, R520, R521, R537). -/
def Obligations.StartsAndResets : Prop :=
  ∀ (s : State) (ms : Nat) (res : List Nat) (r : PReq) (d1 : Dev) (x : Rst),
    (s.dev.boot.off = true → becomes .powerGood s (romStart (beginWipe 1 s.dev.boot.cause s.dev) 1)) ∧
    (s.dev.boot.off = false → s.dev.boot.held = false → s.dev.boot.run.isSome = true → s.dev.boot.fuseBad = false →
      (bootStage s.dev = 1 → becomes (.bootStageDone res) s (linkUp res (setStage s.dev 2))) ∧
      (bootStage s.dev = 2 → fwMode s.dev ≠ 2 → becomes (.bootStageDone res) s (readCfg (selectRest (setStage s.dev 3)))) ∧
      (bootStage s.dev = 3 → fwMode s.dev ≠ 1 → becomes (.bootStageDone res) s (applyCfg (setStage s.dev 4))) ∧
      (bootStage s.dev = 4 → becomes (.bootStageDone res) s (railsUp (setStage s.dev 5))) ∧
      (bootStage s.dev = 5 → becomes (.bootStageDone res) s (trainMesh res (setStage s.dev 6))) ∧
      (bootStage s.dev = 6 → becomes (.bootStageDone res) s (trainStacks res true (setStage s.dev 7))) ∧
      (bootStage s.dev = 7 → becomes (.bootStageDone res) s (checkCores res (setStage s.dev 8))) ∧
      (bootStage s.dev = 8 → becomes (.bootStageDone res) s (setLocks (trainPorts res (setStage s.dev 9))))) ∧
    (s.dev.boot.off = false → s.dev.boot.held = false → s.dev.boot.run.isSome = true → bootStage s.dev = 9 ∨ bootStage s.dev = 3 ∧ fwMode s.dev = 1 →
      becomes (.ready ms) s (confirmSlots
        { (setF (setB (setB (setStage s.dev 10) HIF_STATUS HIF_STATUS_READY true) RST_STATUS RST_STATUS_BUSY false) BOOT_MS BOOT_MS_MS ms) with
          boot := { s.dev.boot with run := none } })) ∧
    (s.dev.boot.rsts = [] → exec (.resetDone ms) s = exec (.ready ms) s) ∧
    (absorbed s.dev 2 = false → answers .perstAssert s fun d => d.boot.held = true ∧ d.boot.run = some 2 ∧ getF d RST_STATUS RST_STATUS_LAST = 2) ∧
    (s.dev.boot.held = true → becomes .perstDeassert s (romStart { s.dev with boot := { s.dev.boot with held := false } } 2)) ∧
    (s.dev.boot.off = false → answers .inputUvlo s (fun d => d.boot.off = true ∧ d.boot.cause = 2) ∧
      answers .inputOvervoltage s (fun d => d.boot.off = true ∧ d.boot.cause = 2)) ∧
    (takeReq s.dev (fun r => r.op == 0x11 && !(arg r 0 8 == 3 || arg r 0 8 == 4)) = some (r, d1) →
      (arg r 0 8 = 2 → becomes .moduleReset s (moduleReset 16 (flushCq (finish d1 r.tag 0 0)))) ∧
      (arg r 0 8 ≠ 2 → becomes .moduleReset s (finish d1 r.tag 1 0))) ∧
    (takeReq s.dev (fun r => r.op == 0x11 && arg r 0 8 == 3) = some (r, d1) → arg r 1 8 < 64 → baseLost d1 (arg r 1 8) = false →
      (d1.boot.rsts = [] → answers .tileReset s fun d => d.boot.rsts = [{ code := 3, tags := [r.tag], unit := arg r 1 8 }] ∧
        (tileUsed d1 (arg r 1 8) = true → d1.inStep = true → d.rerunStep = true)) ∧
      (d1.boot.rsts.find? (fun x => x.code == 3) = some x → becomes .tileReset s
        (modRsts d1 (fun y => if y = x then { y with tags := y.tags ++ [r.tag] } else y)))) ∧
    (s.dev.boot.rsts = [x] → x.code = 3 → x.phase = 2 → ∀ t, x.tags = [t] →
      becomes (.resetDone ms) s (finish (setB { s.dev with boot := { s.dev.boot with rsts := [] } } RST_STATUS RST_STATUS_BUSY false) t 0 0))

/-- POWER requests are decided as R507 says (powerTo), a transition ends in its state with its record, and an SMBus request that
waited is then taken; a context reset of a defined context that no load or eviction holds (log 100) waits for its streams,
clauses and windows, or is absorbed into the reset in progress; TILE_RELOAD_DONE ends a tile reset's reload; a thermal sample is
shown and sheds or trips what is too hot; monitored voltages are shown; loss of MODCLK enters holdover, with an alert, unless it
is held already, and its return waits for an origin; the watchdog of a ready module not lately restarted, or an uncorrectable
SRAM error, restarts the management core with the step ending in RERUN, the watchdog of any other resets the module;
MGMT_RESTART_DONE ends the restart with no request, step, update or join left (R504, R507, R508, R513, R514, R534). -/
def Obligations.PowerStatesClocksAndRestarts : Prop :=
  ∀ (s : State) (r : PReq) (d1 d2 d3 : Dev) (a b c e : List Nat) (tgt n : Nat) (tag since : Option Nat) (tiles : List (Nat × List Int))
      (edges : List Int) (mgmt : Int) (x : Rst),
    (∀ i ∈ [(0, Instr.powerRunning), (1, Instr.powerQuiet), (2, Instr.powerHold)],
      takeReq s.dev (fun r => r.op == 0x10 && (arg r 0 8 == i.1 || (i.1 == 0 && decide (2 < arg r 0 8)))) = some (r, d1) → arg r 0 8 = i.1 →
        becomes i.2 s (powerTo i.1 (some r.tag) d1)) ∧
    (s.dev.boot.ptrans = some (tgt, tag) →
      d2 = setB (setF (changeState (pState s.dev) tgt a b c e { s.dev with boot := { s.dev.boot with ptrans := none } }) RST_STATUS RST_STATUS_PSTATE tgt)
        RST_STATUS RST_STATUS_PTRANS false → d3 = tag.elim d2 (fun t => finish d2 t 0 0) →
      becomes (.powerTransitionDone a b c e) s (match d3.boot.pwait with
        | [] => d3
        | w :: ws => powerTo w none { d3 with boot := { d3.boot with pwait := ws } })) ∧
    (takeReq s.dev (fun r => r.op == 0x11 && arg r 0 8 == 4) = some (r, d1) → ctxBits d1 r.ctx 0 1 = 1 → ctxWork d1 r.ctx = false →
      (d1.boot.rsts = [] → answers .contextReset s fun d => d.boot.rsts = [{ code := 4, tags := [r.tag], unit := r.ctx, phase := 2 }]) ∧
      (d1.boot.rsts = [x] → becomes .contextReset s { d1 with boot := { d1.boot with rsts := [{ x with tags := x.tags ++ [r.tag] }] } })) ∧
    (takeReq s.dev (fun r => r.op == 0x11 && arg r 0 8 == 4) = some (r, d1) → ctxBits d1 r.ctx 0 1 = 0 →
      becomes .contextReset s (finish d1 r.tag 2 0)) ∧
    (s.dev.boot.rsts.find? (fun x => x.code == 3 && x.phase == 1) = some x → answers .tileReloadDone s fun d => ∃ d0, d = modRsts d0
      (fun y => if y = x then { y with phase := 2 } else y)) ∧
    (s.dev.boot.off = false → (∀ k, k < 16 → edges.getD k 0 < 115) → d2 = newCeiling (showMax (tiles.foldl sampleTile s.dev)) →
      (mgmt < 115 → becomes (.thermalSample tiles edges mgmt) s d2) ∧
      (115 ≤ mgmt → becomes (.thermalSample tiles edges mgmt) s (mgmtTrip d2))) ∧
    (answers (.voltageMonitorSample [(n, tgt)]) s fun d => d.volts.get n 0 = tgt ∧ d.regs = s.dev.regs ∧ sameMem s.dev d) ∧
    (getB s.dev SB_CLK SB_CLK_HOLDOVER = false → answers .modclkLoss s fun d => getB d SB_CLK SB_CLK_HOLDOVER = true ∧
      getB d SB_CLK SB_CLK_MODCLK_OK = false ∧ bit d.alert 6 = true ∧ sameMem s.dev d) ∧
    (getB s.dev SB_CLK SB_CLK_HOLDOVER = true → answers .modclkLoss s fun d => getB d SB_CLK SB_CLK_HOLDOVER = true ∧
      getB d SB_CLK SB_CLK_MODCLK_OK = false ∧ d.alert = s.dev.alert ∧ d.boot.clkBack = false) ∧
    (getB s.dev SB_CLK SB_CLK_HOLDOVER = true → answers .modclkReturn s fun d => d.boot.clkBack = true ∧
      getB d SB_CLK SB_CLK_MODCLK_OK = true ∧ getB d SB_CLK SB_CLK_HOLDOVER = true ∧ sameMem s.dev d) ∧
    (s.dev.boot.off = false → s.dev.boot.held = false → s.dev.boot.fuseBad = false →
      (isReady s.dev = true → (∀ t, since = some t → 10000 ≤ t) → becomes (.watchdogExpire since) s (mgmtRestart true s.dev)) ∧
      (isReady s.dev = false → becomes (.watchdogExpire since) s
        (setB (moduleReset 0 { s.dev with boot := { s.dev.boot with run := none } }) FW_STATUS FW_STATUS_WDOG true))) ∧
    (s.dev.boot.off = false → becomes .sramUe s (mgmtRestart false s.dev) ∧
      answers .sramUe s (fun d => d.boot.restart = true ∧ (s.dev.inStep = true → d.rerunStep = true))) ∧
    (s.dev.boot.restart = true → answers .mgmtRestartDone s fun d => d.boot.restart = false ∧ d.pan.taken = [] ∧ d.pan.step = none ∧
      d.boot.fwq = [] ∧ d.fab.mem.joining = none)

/-- STOP_TICK with the generator running, the guard of the last sentence begun and no clause running: the tick is sent (sendTick),
then the pantry is sampled; with no node to lose, the tick number is one higher, CUR_LEN is the configured or agreed length in
100 ns, every arrival is awaited and no byte of memory changes by it. SENTENCE_ORIGIN once every live node has its tick and no
clause runs: the clock stands at the latest node's start, the sentence is open, and the origin's effects follow in their order
on that module. GUARD_START of an open sentence whose stretch k is known: CUR_LEN is k longer, the guard has begun, and every
core has ended what still ran there. Before those, nothing happens (R46, R48, R50 to R53, R57, R60 to R62). One origin for the
whole module is this model's choice (log 2). -/
def Obligations.SentencesOpenBeginAndEnd : Prop :=
  ∀ (s : State) (k : Nat),
    (getB s.dev TG_CTL TG_CTL_RUN = true → s.dev.tickOut = false → s.dev.guarded = true → noClause s.dev = true →
      becomes .stopTick s (samplePantry 16 (endD0Wait (sendTick s.dev (get64 s.dev TG_TICK_LO TG_TICK_HI)))) ∧
      (s.dev.losePend = [] → get64 s.dev TG_TICK_LO TG_TICK_HI + 1 < 2 ^ 64 →
        answers .stopTick s fun d => ∃ d0 : Dev, d = samplePantry 16 d0 ∧ d0.tickOut = true ∧ d0.tickAt = [] ∧ d0.boot.d0wait = false ∧
          get64 d0 TG_TICK_LO TG_TICK_HI = get64 s.dev TG_TICK_LO TG_TICK_HI + 1 ∧
          getF d0 TG_SENT_LEN TG_SENT_LEN_CUR_LEN = 10 * sentenceLen s.dev % 2 ^ TG_SENT_LEN_CUR_LEN.w ∧ sameMem s.dev d0)) ∧
    (s.dev.tickOut = true → (liveNodes s.dev).all (fun u => s.dev.tickAt.get u 0 != 0) = true → noClause s.dev = true →
      answers .sentenceOrigin s fun d => ∃ d1 : Dev, d1.now = ((liveNodes s.dev).map (fun u => s.dev.tickAt.get u 0 - 1)).foldl max s.dev.now ∧
        d1.originAt = d1.now ∧ d1.tickOut = false ∧ d1.guarded = false ∧ d1.recSeen = [] ∧ d1.regs = s.dev.regs ∧ d1.mem = s.dev.mem ∧
        d1.cores = s.dev.cores ∧ d = reportDue (originReads ((List.range 320).foldl (fun d c => selectCore (releaseDrain (takeNote d c) c) c)
          (nextStep (restartDegraded (verdictOrigin (originEffects ((List.range 320).foldl (fun d c => advanceCore d c) d1)))))))) ∧
    (s.dev.guarded = false → s.dev.tickOut = false → stretchOf s.dev (getF s.dev TG_SENT_LEN TG_SENT_LEN_CUR_LEN / 10) = some k →
      answers .guardStart s fun d => getF d TG_SENT_LEN TG_SENT_LEN_CUR_LEN =
          (getF s.dev TG_SENT_LEN TG_SENT_LEN_CUR_LEN + k) % 2 ^ TG_SENT_LEN_CUR_LEN.w ∧
        ∃ d1 d2 : Dev, d1.guarded = true ∧ d1.regs = s.dev.regs ∧ d1.mem = s.dev.mem ∧ d1.cores = s.dev.cores ∧
          d1.now = max s.dev.now (s.dev.originAt + 200 * (getF s.dev TG_SENT_LEN TG_SENT_LEN_CUR_LEN + k) - 2000) ∧
          d2 = (List.range 320).foldl (fun d c => implicitNote (guardCore d c) c) d1 ∧ d.mem = d2.mem ∧ d.cores = d2.cores) ∧
    (getB s.dev TG_CTL TG_CTL_RUN = false → exec .stopTick s = .next s) ∧
    (s.dev.tickOut = false → s.dev.doeHeld = none → exec .sentenceOrigin s = .next s) ∧
    (s.dev.tickOut = true → exec .guardStart s = .next s)

/-- A final record with verdict COMMIT (1) or SKIP (3), the job not ending: the step number rises by one, the step is over, the
attempt number returns to 0; the committed-step epoch rises by one at COMMIT and keeps its value at SKIP (R95, R275, R276,
R290). -/
def Obligations.StepNumberAdvancesAtCommitAndSkip : Prop :=
  ∀ (d : Dev) (r : Nat), d.fab.verd.ended = false → stepNo d + 1 < 2 ^ 64 → get64 d STEP_EPOCH_LO STEP_EPOCH_HI + 1 < 2 ^ 64 →
    (vrVerdict r = 1 ∨ vrVerdict r = 3) →
    stepNo (applyVerdict d r) = stepNo d + 1 ∧ (applyVerdict d r).inStep = false ∧
      getF (applyVerdict d r) STEP_LAST STEP_LAST_ATTEMPT = 0 ∧
      get64 (applyVerdict d r) STEP_EPOCH_LO STEP_EPOCH_HI =
        get64 d STEP_EPOCH_LO STEP_EPOCH_HI + (if vrVerdict r = 1 then 1 else 0)
end

