-- ==== Sys2Proof/Laws/Bits.lean ====
section
/-!
SUPPORT. Laws/Bits.lean: fields read and written.
-/
namespace Sys2Proof

/-- A field just written reads as the value written, cut to its width. -/
@[simp] theorem bits_insBits_self (x lo w v : Nat) : bits (insBits x lo w v) lo w = v % 2 ^ w := by
  unfold bits insBits
  have h1 : x % 2 ^ lo < 2 ^ lo := Nat.mod_lt _ (Nat.two_pow_pos lo)
  have e : x % 2 ^ lo + (v % 2 ^ w) <<< lo + (x >>> (lo + w)) <<< (lo + w) =
      x % 2 ^ lo + 2 ^ lo * (v % 2 ^ w + 2 ^ w * (x >>> (lo + w))) := by
    simp only [Nat.shiftLeft_eq, Nat.pow_add, Nat.mul_add]
    ac_rfl
  rw [e, Nat.shiftRight_eq_div_pow, Nat.add_mul_div_left _ _ (Nat.two_pow_pos lo), Nat.div_eq_of_lt h1, Nat.zero_add,
    Nat.add_mul_mod_self_left, Nat.mod_mod]

/-- Bit i of a number with a field replaced. -/
theorem testBit_insBits (x lo w v i : Nat) :
    (insBits x lo w v).testBit i = if i < lo then x.testBit i else if i < lo + w then v.testBit (i - lo) else x.testBit i := by
  unfold insBits
  have h1 : x % 2 ^ lo < 2 ^ lo := Nat.mod_lt _ (Nat.two_pow_pos lo)
  have h2 : v % 2 ^ w < 2 ^ w := Nat.mod_lt _ (Nat.two_pow_pos w)
  have e1 : x % 2 ^ lo + (v % 2 ^ w) <<< lo = 2 ^ lo * (v % 2 ^ w) + x % 2 ^ lo := by
    rw [Nat.shiftLeft_eq, Nat.mul_comm, Nat.add_comm]
  have hb : 2 ^ lo * (v % 2 ^ w) + x % 2 ^ lo < 2 ^ (lo + w) := by
    rw [Nat.pow_add]
    calc 2 ^ lo * (v % 2 ^ w) + x % 2 ^ lo < 2 ^ lo * (v % 2 ^ w) + 2 ^ lo := by omega
      _ = 2 ^ lo * (v % 2 ^ w + 1) := by rw [Nat.mul_add, Nat.mul_one]
      _ ≤ 2 ^ lo * 2 ^ w := Nat.mul_le_mul_left _ h2
  have e2 : x % 2 ^ lo + (v % 2 ^ w) <<< lo + (x >>> (lo + w)) <<< (lo + w) =
      2 ^ (lo + w) * (x >>> (lo + w)) + (2 ^ lo * (v % 2 ^ w) + x % 2 ^ lo) := by
    rw [e1, Nat.shiftLeft_eq, Nat.mul_comm (x >>> (lo + w)), Nat.add_comm]
  rw [e2, Nat.testBit_two_pow_mul_add _ hb]
  by_cases hi : i < lo + w
  · rw [if_pos hi, Nat.testBit_two_pow_mul_add _ h1]
    by_cases hl : i < lo
    · rw [if_pos hl, if_pos hl, Nat.testBit_mod_two_pow]; simp [hl]
    · rw [if_neg hl, if_neg hl, if_pos hi, Nat.testBit_mod_two_pow]
      simp [show i - lo < w by omega]
  · rw [if_neg hi, if_neg (by omega), if_neg hi, Nat.testBit_shiftRight]
    congr 1
    omega

theorem testBit_bits (x lo w i : Nat) : (bits x lo w).testBit i = (decide (i < w) && x.testBit (lo + i)) := by
  unfold bits
  rw [Nat.testBit_mod_two_pow, Nat.testBit_shiftRight]

/-- A field write leaves a field that lies apart from it alone. -/
theorem bits_insBits_apart (x lo w v lo' w' : Nat) (h : lo' + w' ≤ lo ∨ lo + w ≤ lo') :
    bits (insBits x lo w v) lo' w' = bits x lo' w' := by
  apply Nat.eq_of_testBit_eq
  intro i
  rw [testBit_bits, testBit_bits, testBit_insBits]
  by_cases hi : i < w'
  · rcases h with h | h
    · rw [if_pos (by omega)]
    · rw [if_neg (by omega), if_neg (by omega)]
  · simp [hi]

/-- A field write inside 32 bits stays there. -/
theorem insBits_lt (x lo w v : Nat) (n : Nat) (hx : x < 2 ^ n) (h : lo + w ≤ n) : insBits x lo w v < 2 ^ n := by
  apply Nat.lt_pow_two_of_testBit
  intro i hi
  rw [testBit_insBits, if_neg (by omega), if_neg (by omega)]
  exact Nat.testBit_lt_two_pow (Nat.lt_of_lt_of_le hx (Nat.pow_le_pow_right (by decide) hi))

end Sys2Proof
end

