-- ==== Sys2Proof/Laws/Tbl.lean ====
section
/-!
SUPPORT. Laws/Tbl.lean: what a table's operations do: read after write, and that each keeps the canonical form.
-/
namespace Sys2Proof.Machine
variable {α : Type}

theorem Tbl.find_append (a b : Tbl α) (k : Nat) : Tbl.find (a ++ b) k = (Tbl.find a k).or (Tbl.find b k) := by
  induction a with
  | nil => simp [Tbl.find]
  | cons c a ih => by_cases h : c.1 = k <;> simp [Tbl.find, h, ih]

theorem Tbl.find_filter_keep (t : Tbl α) (p : Nat → Bool) (k : Nat) (h : p k = true) :
    Tbl.find (t.filter (fun c => p c.1)) k = Tbl.find t k := by
  induction t with
  | nil => rfl
  | cons c t ih =>
    by_cases hc : c.1 = k
    · simp [hc, h, Tbl.find]
    · by_cases hp : p c.1 = true <;> simp [hp, Tbl.find, hc, ih]

theorem Tbl.find_filter_drop (t : Tbl α) (p : Nat → Bool) (k : Nat) (h : p k = false) :
    Tbl.find (t.filter (fun c => p c.1)) k = none := by
  induction t with
  | nil => rfl
  | cons c t ih =>
    by_cases hp : p c.1 = true
    · have hc : c.1 ≠ k := by rintro rfl; simp [h] at hp
      simp [hp, Tbl.find, hc, ih]
    · simp [hp, ih]

/-- A cut leaves every key outside it alone. -/
theorem Tbl.get_cut_ne (t : Tbl α) {lo hi j : Nat} (e : α) (h : j < lo ∨ hi ≤ j) : Tbl.get (Tbl.cut t lo hi) j e = Tbl.get t j e := by
  have h1 := Tbl.find_filter_keep t (fun c => decide (c < lo) || decide (hi ≤ c)) j (by simpa using h)
  simp [Tbl.get, Tbl.cut, h1]

/-- A key inside a cut is unlisted afterwards. -/
theorem Tbl.get_cut_self (t : Tbl α) {lo hi j : Nat} (e : α) (h : lo ≤ j ∧ j < hi) : Tbl.get (Tbl.cut t lo hi) j e = e := by
  have h1 := Tbl.find_filter_drop t (fun c => decide (c < lo) || decide (hi ≤ c)) j (by simp; omega)
  simp [Tbl.get, Tbl.cut, h1]

variable [DecidableEq α]

/-- The value just written is read back. -/
@[simp] theorem Tbl.get_put_self (t : Tbl α) (k : Nat) (v d : α) : Tbl.get (Tbl.put t k v d) k d = v := by
  have h1 := Tbl.find_filter_drop t (fun c => decide (c < k)) k (by simp)
  have h2 := Tbl.find_filter_drop t (fun c => decide (k < c)) k (by simp)
  by_cases h : v = d <;> simp [Tbl.get, Tbl.put, Tbl.find_append, h1, h2, h, Tbl.find]

/-- A write leaves every other key alone. -/
theorem Tbl.get_put_ne (t : Tbl α) {k j : Nat} (v d e : α) (h : j ≠ k) : Tbl.get (Tbl.put t k v d) j e = Tbl.get t j e := by
  have hm : Tbl.find (if v = d then ([] : Tbl α) else [(k, v)]) j = none := by
    split <;> simp [Tbl.find, Ne.symm h]
  rcases Nat.lt_or_gt_of_ne h with hlt | hgt
  · have h1 := Tbl.find_filter_keep t (fun c => decide (c < k)) j (by simpa using hlt)
    have h2 := Tbl.find_filter_drop t (fun c => decide (k < c)) j (by simp; omega)
    simp [Tbl.get, Tbl.put, Tbl.find_append, hm, h1, h2]
  · have h1 := Tbl.find_filter_drop t (fun c => decide (c < k)) j (by simp; omega)
    have h2 := Tbl.find_filter_keep t (fun c => decide (k < c)) j (by simpa using hgt)
    simp [Tbl.get, Tbl.put, Tbl.find_append, hm, h1, h2]

/- The canonical form -/

theorem Tbl.ok_mono {f : Nat → α} {lo lo' : Nat} {t : Tbl α} (h : Tbl.ok f lo t = true) (hl : lo' ≤ lo) : Tbl.ok f lo' t = true := by
  cases t with
  | nil => rfl
  | cons c t => simp [Tbl.ok] at h ⊢; exact ⟨⟨by omega, h.1.2⟩, h.2⟩

/-- Every key of a canonical table is at or above its bound. -/
theorem Tbl.ok_key {f : Nat → α} {lo : Nat} {t : Tbl α} (h : Tbl.ok f lo t = true) : ∀ c ∈ t, lo ≤ c.1 := by
  induction t generalizing lo with
  | nil => simp
  | cons c t ih =>
    simp [Tbl.ok] at h
    intro x hx
    rcases List.mem_cons.1 hx with rfl | hx
    · exact h.1.1
    · have := ih h.2 x hx; omega

theorem Tbl.ok_filter {f : Nat → α} {lo : Nat} {t : Tbl α} (p : Nat × α → Bool) (h : Tbl.ok f lo t = true) :
    Tbl.ok f lo (t.filter p) = true := by
  induction t generalizing lo with
  | nil => rfl
  | cons c t ih =>
    simp [Tbl.ok] at h
    by_cases hp : p c = true
    · simp [hp, Tbl.ok, h.1, ih h.2]
    · simp only [List.filter_cons, hp]
      exact Tbl.ok_mono (ih h.2) (by omega)

theorem Tbl.ok_append {f : Nat → α} {lo mid : Nat} {a b : Tbl α} (ha : Tbl.ok f lo a = true) (hk : ∀ c ∈ a, c.1 < mid)
    (hb : Tbl.ok f mid b = true) (hl : lo ≤ mid) : Tbl.ok f lo (a ++ b) = true := by
  induction a generalizing lo with
  | nil => exact Tbl.ok_mono hb hl
  | cons c a ih =>
    simp [Tbl.ok] at ha
    have h1 := hk c (by simp)
    simp [Tbl.ok, ha.1, ih ha.2 (fun x hx => hk x (by simp [hx])) (by omega)]

/-- The part of a canonical table above a bound is canonical from that bound. -/
theorem Tbl.ok_above {f : Nat → α} {lo : Nat} {t : Tbl α} (k : Nat) (h : Tbl.ok f lo t = true) :
    Tbl.ok f k (t.filter (fun c => decide (k ≤ c.1))) = true := by
  induction t generalizing lo with
  | nil => rfl
  | cons c t ih =>
    simp [Tbl.ok] at h
    by_cases hp : k ≤ c.1
    · have : Tbl.ok f (c.1 + 1) (t.filter (fun c => decide (k ≤ c.1))) = true := Tbl.ok_filter _ h.2
      simp [hp, Tbl.ok, h.1, this]
    · simp only [List.filter_cons, hp, decide_false]
      exact ih h.2

/-- A write keeps the canonical form. -/
theorem Tbl.ok_put {f : Nat → α} {t : Tbl α} (k : Nat) (v : α) (h : Tbl.ok f 0 t = true) : Tbl.ok f 0 (Tbl.put t k v (f k)) = true := by
  have hb : Tbl.ok f (k + 1) (t.filter (fun c => decide (k < c.1))) = true := Tbl.ok_above (k + 1) h
  have hm : Tbl.ok f k ((if v = f k then [] else [(k, v)]) ++ t.filter (fun c => decide (k < c.1))) = true := by
    split
    · exact Tbl.ok_mono hb (by omega)
    · rename_i hv
      simp [Tbl.ok, hv, hb]
  exact Tbl.ok_append (Tbl.ok_filter _ h) (by simp) hm (by omega)

/-- A cut keeps the canonical form. -/
theorem Tbl.ok_cut {f : Nat → α} {t : Tbl α} (lo hi : Nat) (h : Tbl.ok f 0 t = true) : Tbl.ok f 0 (Tbl.cut t lo hi) = true :=
  Tbl.ok_filter _ h

end Sys2Proof.Machine
end

