-- ==== Sys2Proof/Laws/Mem.lean ====
section
/-!
SUPPORT. Laws/Mem.lean: the operations on memory: read after write, and that each keeps the canonical form (log 3).
-/
namespace Sys2Proof.Machine

/-- Byte i of n bytes at a is listed where it is not 0. -/
theorem find_byteCells (a v n b : Nat) :
    Tbl.find (byteCells a n v) b =
      if a ≤ b ∧ b < a + n ∧ BitVec.ofNat 8 (v >>> (8 * (b - a))) ≠ 0 then some (BitVec.ofNat 8 (v >>> (8 * (b - a)))) else none := by
  induction n with
  | zero => rw [if_neg (by omega)]; rfl
  | succ n ih =>
    have hs : byteCells a (n + 1) v =
        byteCells a n v ++ (if BitVec.ofNat 8 (v >>> (8 * n)) = 0 then [] else [(a + n, BitVec.ofNat 8 (v >>> (8 * n)))]) := by
      simp [byteCells, List.range_succ, List.filter_append, List.filter_cons]
    rw [hs, Tbl.find_append, ih]
    by_cases hb : b = a + n
    · subst hb
      rw [if_neg (by omega)]
      by_cases hz : BitVec.ofNat 8 (v >>> (8 * n)) = 0#8 <;> simp [hz, Tbl.find]
    · have hn : Tbl.find (if BitVec.ofNat 8 (v >>> (8 * n)) = 0 then [] else [(a + n, BitVec.ofNat 8 (v >>> (8 * n)))]) b = none := by
        split <;> simp [Tbl.find, Ne.symm hb]
      rw [hn, Option.or_none]
      by_cases h : a ≤ b ∧ b < a + n ∧ BitVec.ofNat 8 (v >>> (8 * (b - a))) ≠ 0
      · rw [if_pos h, if_pos ⟨h.1, by omega, h.2.2⟩]
      · rw [if_neg h, if_neg (fun h' => h ⟨h'.1, by omega, h'.2.2⟩)]

/-- A byte inside a write reads as the byte written. -/
theorem readByte_writeMem_in (d : Dev) {a n b : Nat} (v : Nat) (h : a ≤ b ∧ b < a + n) :
    readByte (writeMem d a n v) b = BitVec.ofNat 8 (v >>> (8 * (b - a))) := by
  have h1 := Tbl.find_filter_drop d.mem (fun c => decide (c < a)) b (by simp; omega)
  have h2 := Tbl.find_filter_drop d.mem (fun c => decide (a + n ≤ c)) b (by simp; omega)
  simp only [readByte, writeMem, putBytes, Tbl.get, Tbl.find_append, h1, h2, find_byteCells]
  by_cases hz : BitVec.ofNat 8 (v >>> (8 * (b - a))) = 0#8 <;> simp [h.1, h.2, hz]

/-- A byte outside a write reads as before. -/
theorem readByte_writeMem_out (d : Dev) {a n b : Nat} (v : Nat) (h : b < a ∨ a + n ≤ b) :
    readByte (writeMem d a n v) b = readByte d b := by
  have hm : Tbl.find (byteCells a n v) b = none := by rw [find_byteCells, if_neg (by omega)]
  rcases h with h | h
  · have h1 := Tbl.find_filter_keep d.mem (fun c => decide (c < a)) b (by simpa using h)
    have h2 := Tbl.find_filter_drop d.mem (fun c => decide (a + n ≤ c)) b (by simp; omega)
    simp [readByte, writeMem, putBytes, Tbl.get, Tbl.find_append, h1, h2, hm]
  · have h1 := Tbl.find_filter_drop d.mem (fun c => decide (c < a)) b (by simp; omega)
    have h2 := Tbl.find_filter_keep d.mem (fun c => decide (a + n ≤ c)) b (by simpa using h)
    simp [readByte, writeMem, putBytes, Tbl.get, Tbl.find_append, h1, h2, hm]

theorem byteCells_ok (a n v : Nat) : Tbl.ok (fun _ => (0 : Byte)) a (byteCells a n v) = true ∧ ∀ c ∈ byteCells a n v, c.1 < a + n := by
  have key : ∀ c ∈ byteCells a n v, c.1 < a + n := by
    intro c hc
    simp only [byteCells, List.mem_filter, List.mem_map, List.mem_range] at hc
    obtain ⟨⟨i, hi, rfl⟩, -⟩ := hc
    simpa using hi
  refine ⟨?_, key⟩
  clear key
  induction n with
  | zero => rfl
  | succ n ih =>
    have hs : byteCells a (n + 1) v =
        byteCells a n v ++ (if BitVec.ofNat 8 (v >>> (8 * n)) = 0 then [] else [(a + n, BitVec.ofNat 8 (v >>> (8 * n)))]) := by
      simp [byteCells, List.range_succ, List.filter_append, List.filter_cons]
    have key : ∀ c ∈ byteCells a n v, c.1 < a + n := by
      intro c hc
      simp only [byteCells, List.mem_filter, List.mem_map, List.mem_range] at hc
      obtain ⟨⟨i, hi, rfl⟩, -⟩ := hc
      simpa using hi
    rw [hs]
    refine Tbl.ok_append ih key ?_ (Nat.le_add_right a n)
    split
    · rfl
    · rename_i h
      simp only [Tbl.ok, Nat.le_refl, decide_true, Bool.true_and, Bool.and_true, decide_eq_true_eq]
      exact h

/-- A write of n bytes keeps the canonical form. -/
theorem putBytes_ok {m : List Host.Cell} (a n v : Nat) (h : memWf m) : memWf (putBytes m a n v) := by
  have hc := byteCells_ok a n v
  have hb : Tbl.ok (fun _ => (0 : Byte)) (a + n) (m.filter (fun c => decide (a + n ≤ c.1))) = true := Tbl.ok_above (a + n) h
  have hm := Tbl.ok_append hc.1 hc.2 hb (Nat.le_add_right a n)
  exact Tbl.ok_append (Tbl.ok_filter _ h) (by simp) hm (Nat.zero_le a)

/-- A write keeps the canonical form. -/
theorem memWf_writeMem {d : Dev} (a n v : Nat) (h : memWf d.mem) : memWf (writeMem d a n v).mem := putBytes_ok a n v h

/-- A row written keeps the canonical form. -/
theorem memWf_putRow {d : Dev} (a : Nat) (v : Row) (p : Bool) (hd : BitVec 64) (h : memWf d.mem) : memWf (putRow d a v p hd).mem :=
  putBytes_ok a 128 v.toNat h

/-- A wipe keeps the canonical form. -/
theorem memWf_wipeRows {d : Dev} (a n : Nat) (h : memWf d.mem) : memWf (wipeRows d a n).mem := Tbl.ok_cut a (a + 128 * n) h

/-- A byte outside a wipe reads as before. -/
theorem readByte_wipeRows_out (d : Dev) {a n b : Nat} (h : b < a ∨ a + 128 * n ≤ b) : readByte (wipeRows d a n) b = readByte d b :=
  Tbl.get_cut_ne _ _ h

/-- A wiped byte reads 0. -/
theorem readByte_wipeRows_in (d : Dev) {a n b : Nat} (h : a ≤ b ∧ b < a + 128 * n) : readByte (wipeRows d a n) b = 0 :=
  Tbl.get_cut_self _ _ h

/-- Memory is canonical at reset. -/
theorem memWf_reset : memWf State.reset.dev.mem := rfl

end Sys2Proof.Machine
end

