-- ==== Sys2Proof/Laws/Keep.lean ====
section
/-!
SUPPORT. Laws/Keep.lean: the predicate that memory is canonical, and how folds, iterations and takes of a request keep memory.
-/
namespace Sys2Proof.Machine

theorem foldl_mem' {β : Type} (g : Dev → β → Dev) (h : ∀ d x, (g d x).mem = d.mem) (l : List β) (d : Dev) : (l.foldl g d).mem = d.mem := by
  induction l generalizing d with
  | nil => rfl
  | cons a l ih => simp only [List.foldl_cons, ih, h]

@[simp] theorem foldl_mem {β : Type} (g : Dev → β → Dev) (l : List β) (d : Dev) (h : ∀ d x, (g d x).mem = d.mem) : (l.foldl g d).mem = d.mem :=
  foldl_mem' g h l d

theorem foldl_pair_mem {α β : Type} (g : α × Dev → β → α × Dev) (l : List β) (d : α × Dev) (h : ∀ d x, (g d x).2.mem = d.2.mem) :
    (l.foldl g d).2.mem = d.2.mem := by
  induction l generalizing d with
  | nil => rfl
  | cons a l ih => simp only [List.foldl_cons, ih, h]

theorem snd_mem {α : Type} {x : α × Dev} {a : α} {d1 : Dev} {m : List Host.Cell} (h : x = (a, d1)) (hm : x.2.mem = m) : d1.mem = m := by
  subst h; exact hm

theorem iter_mem (f : Dev → Dev) (h : ∀ d, (f d).mem = d.mem) : ∀ (n : Nat) (d : Dev), (iter f n d).mem = d.mem
  | 0, _ => rfl
  | n + 1, d => (iter_mem f h n (f d)).trans (h d)

theorem takeReq_mem {d d1 : Dev} {p : PReq → Bool} {r : PReq} (h : takeReq d p = some (r, d1)) : d1.mem = d.mem := by
  unfold takeReq at h
  repeat' split at h
  all_goals simp_all
  rw [← h.2]

@[simp] theorem barWrite_mem (a : Nat) (f : Dev → Dev) (d : Dev) (h : ∀ d, (f d).mem = d.mem) : (barWrite a f d).mem = d.mem := by
  unfold barWrite
  split <;> simp [h]

@[simp] theorem smWrite_mem (code : Nat) (bs : List Nat) (pec : Nat) (f : Dev → Dev) (d : Dev) (h : ∀ d, (f d).mem = d.mem) :
    (smWrite code bs pec f d).mem = d.mem := by
  unfold smWrite
  repeat' split
  all_goals simp [h]

@[simp] theorem doeReq_mem (d : Dev) (b f : Dev → Dev) (hb : ∀ d, (b d).mem = d.mem) (h : ∀ d, (f d).mem = d.mem) : (doeReq d b f).mem = d.mem := by
  unfold doeReq
  repeat' split
  all_goals simp [h, hb]

/-- The canonical form of a memory, as a predicate that simp keeps folded. -/
def canon (m : List Host.Cell) : Prop := memWf m

theorem foldl_wf {β : Type} (g : Dev → β → Dev) (h : ∀ d x, canon d.mem → canon (g d x).mem) (l : List β) (d : Dev) (hd : canon d.mem) :
    canon (l.foldl g d).mem := by
  induction l generalizing d with
  | nil => exact hd
  | cons a l ih => exact ih _ (h _ _ hd)

theorem foldl_pair_wf {α β : Type} (g : α × Dev → β → α × Dev) (h : ∀ d x, canon d.2.mem → canon (g d x).2.mem) (l : List β) (d : α × Dev)
    (hd : canon d.2.mem) : canon (l.foldl g d).2.mem := by
  induction l generalizing d with
  | nil => exact hd
  | cons a l ih => exact ih _ (h _ _ hd)

theorem snd_wf {α : Type} {x : α × Dev} {a : α} {d1 : Dev} (h : x = (a, d1)) (hm : canon x.2.mem) : canon d1.mem := by
  subst h; exact hm

theorem iter_wf (f : Dev → Dev) (h : ∀ d, canon d.mem → canon (f d).mem) : ∀ (n : Nat) (d : Dev), canon d.mem → canon (iter f n d).mem
  | 0, _, hd => hd
  | n + 1, d, hd => iter_wf f h n (f d) (h d hd)

@[simp] theorem writeMem_wf (d : Dev) (a n v : Nat) (h : canon d.mem) : canon (writeMem d a n v).mem := memWf_writeMem a n v h

@[simp] theorem wipeRows_wf (d : Dev) (a n : Nat) (h : canon d.mem) : canon (wipeRows d a n).mem := memWf_wipeRows a n h

theorem takeReq_wf {d d1 : Dev} {p : PReq → Bool} {r : PReq} (h : takeReq d p = some (r, d1)) (hd : canon d.mem) : canon d1.mem := by
  rw [takeReq_mem h]; exact hd

theorem smWrite_wf (code : Nat) (bs : List Nat) (pec : Nat) (f : Dev → Dev) (d : Dev) (h : ∀ d, canon d.mem → canon (f d).mem) (hwf : canon d.mem) : canon (smWrite code bs pec f d).mem := by
  unfold smWrite
  repeat' split
  all_goals first | exact h _ hwf | exact hwf

theorem barWrite_wf (a : Nat) (f : Dev → Dev) (d : Dev) (h : ∀ d, canon d.mem → canon (f d).mem) (hwf : canon d.mem) : canon (barWrite a f d).mem := by
  unfold barWrite
  repeat' split
  all_goals first | exact h _ hwf | exact hwf

end Sys2Proof.Machine
end

