-- ==== Sys2Proof/Laws/Keep1.lean ====
section
/-!
SUPPORT. Laws/Keep1.lean: for each operation from setR to queueAt, `<name>_mem` (it leaves memory as it is) or `<name>_wf` (it keeps
memory canonical).
-/
namespace Sys2Proof.Machine

@[simp] theorem setR_mem (d : Dev) (a v : Nat) : (setR d a v).mem = d.mem := by
  unfold setR
  simp

@[simp] theorem setF_mem (d : Dev) (a : Nat) (f : Fld) (v : Nat) : (setF d a f v).mem = d.mem := by
  unfold setF
  simp

@[simp] theorem setB_mem (d : Dev) (a : Nat) (f : Fld) (b : Bool) : (setB d a f b).mem = d.mem := by
  unfold setB
  simp

@[simp] theorem addF_mem (d : Dev) (a : Nat) (f : Fld) (n : Nat) : (addF d a f n).mem = d.mem := by
  unfold addF
  simp

@[simp] theorem incF_mem (d : Dev) (a : Nat) (f : Fld) : (incF d a f).mem = d.mem := by
  unfold incF
  simp

@[simp] theorem set64_mem (d : Dev) (lo hi v : Nat) : (set64 d lo hi v).mem = d.mem := by
  unfold set64
  simp

@[simp] theorem setWords_mem (d : Dev) (a n v : Nat) : (setWords d a n v).mem = d.mem := by
  unfold setWords
  simp

@[simp] theorem setBitAt_mem (d : Dev) (a i : Nat) (b : Bool) : (setBitAt d a i b).mem = d.mem := by
  unfold setBitAt
  simp

@[simp] theorem fresh_mem (d : Dev) : (fresh d).2.mem = d.mem := by
  unfold fresh
  simp

@[simp] theorem setMeta_mem (d : Dev) (a : Nat) (m : RowMeta) : (setMeta d a m).mem = d.mem := by
  unfold setMeta
  simp

@[simp] theorem putRow_wf (d : Dev) (a : Nat) (v : Row) (poison : Bool) (hdr : BitVec 64) (hwf : canon d.mem) : canon (putRow d a v poison hdr).mem := by
  unfold putRow
  simp [hwf]

@[simp] theorem poisonRow_mem (d : Dev) (a : Nat) : (poisonRow d a).mem = d.mem := by
  unfold poisonRow
  simp

@[simp] theorem setCore_mem (d : Dev) (c : Nat) (x : CoreSt) : (setCore d c x).mem = d.mem := by
  unfold setCore
  simp

@[simp] theorem modCore_mem (d : Dev) (c : Nat) (f : CoreSt → CoreSt) : (modCore d c f).mem = d.mem := by
  unfold modCore
  simp

@[simp] theorem setChan_mem (d : Dev) (c n : Nat) (x : Chan) : (setChan d c n x).mem = d.mem := by
  unfold setChan
  simp

@[simp] theorem raiseRerun_mem (d : Dev) (s : Scope) : (raiseRerun d s).mem = d.mem := by
  unfold raiseRerun
  repeat' split
  all_goals simp

@[simp] theorem report_mem (d : Dev) (e : Ev) : (report d e).mem = d.mem := by
  unfold report
  simp [apply_ite Dev.mem]

@[simp] theorem coreFault_mem (d : Dev) (c : Nat) (a : Nat) (f : Fld) (e : Ev) : (coreFault d c a f e).mem = d.mem := by
  unfold coreFault
  simp [apply_ite Dev.mem]

@[simp] theorem setChunkTag_mem (d : Dev) (n c tag : Nat) : (setChunkTag d n c tag).mem = d.mem := by
  unfold setChunkTag
  simp

@[simp] theorem setMapEntry_mem (d : Dev) (n c v : Nat) : (setMapEntry d n c v).mem = d.mem := by
  unfold setMapEntry
  simp

@[simp] theorem ccPut_wf (d : Dev) (phys v : Nat) (poison : Bool) (hwf : canon d.mem) : canon (ccPut d phys v poison).mem := by
  unfold ccPut
  simp [hwf]

@[simp] theorem ccStore_wf (d : Dev) (phys v : Nat) (poison : Bool) (hwf : canon d.mem) : canon (ccStore d phys v poison).mem := by
  unfold ccStore
  simp [hwf]

@[simp] theorem upsetRow_wf (d : Dev) (phys err : Nat) (hwf : canon d.mem) : canon (upsetRow d phys err).mem := by
  unfold upsetRow
  simp [apply_ite Dev.mem, apply_ite canon, hwf]

@[simp] theorem ccFetch_mem (d : Dev) (n phys : Nat) (src : Src) (scrub : Bool) : (ccFetch d n phys src scrub).2.mem = d.mem := by
  unfold ccFetch
  dsimp only
  repeat' split
  all_goals simp

@[simp] theorem ccLostAccess_mem (d : Dev) (n ofs : Nat) (src : Src) : (ccLostAccess d n ofs src).mem = d.mem := by
  unfold ccLostAccess
  simp

@[simp] theorem ccRead_mem (d : Dev) (n ofs : Nat) (src : Src) : (ccRead d n ofs src).2.mem = d.mem := by
  unfold ccRead
  dsimp only
  repeat' split
  all_goals simp

@[simp] theorem loftSwap_mem (d : Dev) (n c : Nat) : (loftSwap d n c).mem = d.mem := by
  unfold loftSwap
  simp [apply_ite Dev.mem]

@[simp] theorem ccWrite_wf (d : Dev) (n ofs : Nat) (row : FRow) (src : Src) (hwf : canon d.mem) : canon (ccWrite d n ofs row src).2.mem := by
  unfold ccWrite
  dsimp only
  repeat' split
  all_goals simp [hwf]

@[simp] theorem unitRead_mem (d : Dev) (a : Nat) (src : Src) : (unitRead d a src).2.mem = d.mem := by
  unfold unitRead
  repeat' split
  all_goals simp

@[simp] theorem unitWrite_wf (d : Dev) (a : Nat) (row : FRow) (src : Src) (hwf : canon d.mem) : canon (unitWrite d a row src).2.mem := by
  unfold unitWrite
  repeat' split
  all_goals simp [hwf]

@[simp] theorem wipeStack_wf (d : Dev) (n : Nat) (hwf : canon d.mem) : canon (wipeStack d n).mem := by
  unfold wipeStack
  simp [hwf]

@[simp] theorem retagChunk_wf (d : Dev) (n c tag : Nat) (hwf : canon d.mem) : canon (retagChunk d n c tag).mem := by
  have h0 : canon (setChunkTag d n c tag).mem := by rw [setChunkTag_mem]; exact hwf
  unfold retagChunk
  dsimp only
  split
  · exact foldl_wf _ (fun _ _ h => by rw [ccLostAccess_mem]; exact h) _ _ h0
  · split
    · exact wipeRows_wf _ _ _ h0
    · exact foldl_wf _ (fun _ _ h => ccStore_wf _ _ _ _ h) _ _ h0

@[simp] theorem cellarRead_wf (n ofs tag err : Nat) (d : Dev) (hwf : canon d.mem) : canon (cellarRead n ofs tag err d).mem := by
  unfold cellarRead
  dsimp only
  repeat' split
  all_goals simp [hwf]

@[simp] theorem cellarWrite_wf (n ofs tag : Nat) (ue : Bool) (row : FRow) (d : Dev) (hwf : canon d.mem) : canon (cellarWrite n ofs tag ue row d).mem := by
  unfold cellarWrite
  simp [apply_ite Dev.mem, apply_ite canon, hwf]

@[simp] theorem cellarWriteback_wf (n : Nat) (d : Dev) (hwf : canon d.mem) : canon (cellarWriteback n d).mem := by
  unfold cellarWriteback
  repeat' split
  all_goals simp [hwf]

@[simp] theorem refresh_mem (n : Nat) (d : Dev) : (refresh n d).mem = d.mem := by
  unfold refresh
  simp [apply_ite Dev.mem]

@[simp] theorem scrubRead_wf (n err : Nat) (d : Dev) (hwf : canon d.mem) : canon (scrubRead n err d).mem := by
  unfold scrubRead
  simp [apply_ite Dev.mem, apply_ite canon, hwf]

@[simp] theorem postCq_mem (d0 : Dev) (kind status tag value detail vec : Nat) : (postCq d0 kind status tag value detail vec).mem = d0.mem := by
  unfold postCq
  simp [apply_ite Dev.mem]

@[simp] theorem setObj_mem (d : Dev) (o v : Nat) : (setObj d o v).mem = d.mem := by
  unfold setObj
  simp

@[simp] theorem setObjBit_mem (d : Dev) (o i : Nat) : (setObjBit d o i).mem = d.mem := by
  unfold setObjBit
  simp

@[simp] theorem syncWaiters_mem (d : Dev) (o : Nat) : (syncWaiters d o).mem = d.mem := by
  unfold syncWaiters
  simp

@[simp] theorem addWaiter_mem (d : Dev) (o who : Nat) : (addWaiter d o who).mem = d.mem := by
  unfold addWaiter
  simp [apply_ite Dev.mem]

@[simp] theorem dropWaiter_mem (d : Dev) (o who : Nat) : (dropWaiter d o who).mem = d.mem := by
  unfold dropWaiter
  simp

@[simp] theorem releaseWaiters_mem (d : Dev) (o : Nat) : (releaseWaiters d o).mem = d.mem := by
  unfold releaseWaiters
  simp [apply_ite Dev.mem]

@[simp] theorem syncFault_mem (d : Dev) (o : Nat) (f : Fld) (objBit : Nat) (ctx : Nat) (fill : Bool) : (syncFault d o f objBit ctx fill).mem = d.mem := by
  unfold syncFault
  simp [apply_ite Dev.mem]

@[simp] theorem syncNack_mem (d : Dev) (o : Nat) : (syncNack d o).mem = d.mem := by
  unfold syncNack
  simp

@[simp] theorem reachActions_mem (d : Dev) (o : Nat) : (reachActions d o).mem = d.mem := by
  unfold reachActions
  simp [apply_ite Dev.mem]

@[simp] theorem applyInc_mem (d : Dev) (i : SyncInc) : (applyInc d i).mem = d.mem := by
  unfold applyInc
  dsimp only
  repeat' split
  all_goals simp

@[simp] theorem sendInc_mem (d : Dev) (i : SyncInc) : (sendInc d i).mem = d.mem := by
  unfold sendInc
  simp

@[simp] theorem syncIncrement_mem (n : Nat) (d : Dev) : (syncIncrement n d).mem = d.mem := by
  unfold syncIncrement
  repeat' split
  all_goals simp

@[simp] theorem stepResetObjs_mem (d : Dev) (ctx : Nat) : (stepResetObjs d ctx).mem = d.mem := by
  unfold stepResetObjs
  simp [apply_ite Dev.mem]

@[simp] theorem modPort_mem (d : Dev) (p : Nat) (f : GPort → GPort) : (modPort d p f).mem = d.mem := by
  unfold modPort
  simp

@[simp] theorem modEdge_mem (d : Dev) (k : Nat) (f : Edge → Edge) : (modEdge d k f).mem = d.mem := by
  unfold modEdge
  simp

@[simp] theorem setGpState_mem (d : Dev) (p s : Nat) : (setGpState d p s).mem = d.mem := by
  unfold setGpState
  simp

@[simp] theorem gpFault_mem (d : Dev) (p : Nat) (f : Fld) : (gpFault d p f).mem = d.mem := by
  unfold gpFault
  simp

@[simp] theorem satF_mem (d : Dev) (a : Nat) (f : Fld) : (satF d a f).mem = d.mem := by
  unfold satF
  simp

@[simp] theorem linkSend_mem (d : Dev) (p v : Nat) : (linkSend d p v).mem = d.mem := by
  unfold linkSend
  simp

@[simp] theorem levelSend_mem (d : Dev) (p : Nat) : (levelSend d p).mem = d.mem := by
  unfold levelSend
  simp

@[simp] theorem portDown_mem (d : Dev) (p : Nat) : (portDown d p).mem = d.mem := by
  unfold portDown
  simp

@[simp] theorem creditSend_mem (d : Dev) (p : Nat) : (creditSend d p).mem = d.mem := by
  unfold creditSend
  simp

@[simp] theorem sendFrames_mem (d : Dev) (p : Nat) : (sendFrames d p).mem = d.mem := by
  unfold sendFrames
  simp

@[simp] theorem emitPacket_mem (d : Dev) (p : Nat) (pk : Packet) : (emitPacket d p pk).mem = d.mem := by
  unfold emitPacket
  simp

theorem finishPacket_mem {d d1 : Dev} {p : Nat} {pk pk1 : Packet} (h : finishPacket d p pk = some (pk1, d1)) : d1.mem = d.mem := by
  unfold finishPacket at h
  dsimp only at h
  repeat' split at h
  all_goals simp only [Option.some.injEq, Prod.mk.injEq, Option.map_eq_some_iff, reduceCtorEq] at h
  · obtain ⟨-, rfl⟩ := h; simp
  · obtain ⟨-, rfl⟩ := h; rfl
  · obtain ⟨k, -, -, rfl⟩ := h; simp
  · obtain ⟨-, rfl⟩ := h; rfl

@[simp] theorem serve_mem (d : Dev) (p c u : Nat) : (serve d p c u).mem = d.mem := by
  unfold serve
  simp [apply_ite Dev.mem]

@[simp] theorem sendNow_mem (d : Dev) (p : Nat) (pk : Packet) : (sendNow d p pk).mem = d.mem := by
  unfold sendNow
  split
  · rfl
  · next h =>
    simp only [emitPacket_mem, serve_mem, setF_mem]
    exact finishPacket_mem h

@[simp] theorem packetSend_wf (p c : Nat) (d : Dev) (hwf : canon d.mem) : canon (packetSend p c d).mem := by
  unfold packetSend
  repeat' split
  all_goals simp [apply_ite Dev.mem, apply_ite canon, hwf]

@[simp] theorem queueOn_mem (d : Dev) (p : Nat) (pk : Packet) : (queueOn d p pk).mem = d.mem := by
  unfold queueOn
  simp

@[simp] theorem noRoute_mem (d : Dev) (p : Nat) : (noRoute d p).mem = d.mem := by
  unfold noRoute
  simp

@[simp] theorem sendOn_mem (d : Dev) (p : Nat) (pk : Packet) : (sendOn d p pk).2.mem = d.mem := by
  unfold sendOn
  repeat' split
  all_goals simp [apply_ite Dev.mem]

@[simp] theorem sendAllOn_mem (p : Nat) (z0 : List Packet) (z1 : Dev) : (sendAllOn p z0 z1).2.mem = z1.mem := by
  induction z0 generalizing z1 p with
  | nil => rfl
  | cons r rs ih =>
    unfold sendAllOn
    simp [ih]

@[simp] theorem sendByGroup_mem (d : Dev) (pk : Packet) : (sendByGroup d pk).2.mem = d.mem := by
  unfold sendByGroup
  dsimp only
  repeat' split
  all_goals simp

@[simp] theorem portInject_mem (d : Dev) (p : Nat) : (portInject d p).2.mem = d.mem := by
  unfold portInject
  dsimp only
  repeat' split
  all_goals simp

@[simp] theorem portDraw_mem (d : Dev) (p n : Nat) : (portDraw d p n).2.mem = d.mem := by
  unfold portDraw
  simp

@[simp] theorem pushInbox_mem (d : Dev) (p : Nat) (x : RxPkt) : (pushInbox d p x).mem = d.mem := by
  unfold pushInbox
  simp

@[simp] theorem freeHeld_mem (d : Dev) (p : Nat) : (freeHeld d p).mem = d.mem := by
  unfold freeHeld
  repeat' split
  all_goals simp [apply_ite Dev.mem]

@[simp] theorem passHeld_mem (d : Dev) (p : Nat) (x : RxPkt) (cand : Bool) : (passHeld d p x cand).mem = d.mem := by
  unfold passHeld
  dsimp only
  repeat' split
  all_goals simp

@[simp] theorem giveBack_mem (d : Dev) (p h : Nat) : (giveBack d p h).mem = d.mem := by
  unfold giveBack
  simp

@[simp] theorem hcrcFault_mem (d : Dev) (p h : Nat) : (hcrcFault d p h).mem = d.mem := by
  unfold hcrcFault
  simp

@[simp] theorem acceptPacket_mem (d0 : Dev) (p : Nat) (pk : Packet) : (acceptPacket d0 p pk).mem = d0.mem := by
  unfold acceptPacket
  dsimp only
  repeat' split
  all_goals simp

@[simp] theorem linkUnit_mem (d : Dev) (p : Nat) (u : BitVec 256) : (linkUnit d p u).mem = d.mem := by
  unfold linkUnit
  simp [apply_ite Dev.mem]

@[simp] theorem takeUnit_mem (p : Nat) (d : Dev) (u : BitVec 256 × Bool) : (takeUnit p d u).mem = d.mem := by
  unfold takeUnit
  simp [apply_ite Dev.mem]

@[simp] theorem frameLost_mem (d : Dev) (p : Nat) : (frameLost d p).mem = d.mem := by
  unfold frameLost
  simp

@[simp] theorem takeFrame_mem (d : Dev) (p : Nat) (f : Frame) : (takeFrame d p f).mem = d.mem := by
  unfold takeFrame
  simp [apply_ite Dev.mem]

@[simp] theorem frameIn_mem (p : Nat) (lanes : List (BitVec 680)) (pois : BitVec 20) (d : Dev) : (frameIn p lanes pois d).mem = d.mem := by
  unfold frameIn
  split
  · rfl
  · cases h : rsDecode lanes with
    | none => simp
    | some r =>
      dsimp only
      split
      · split <;> simp [apply_ite Dev.mem]
      · simp [apply_ite Dev.mem]

@[simp] theorem takeLink_mem (d : Dev) (p c : Nat) : (takeLink d p c).2.mem = d.mem := by
  unfold takeLink
  repeat' split
  all_goals simp

@[simp] theorem linkAck_mem (p : Nat) (d : Dev) : (linkAck p d).mem = d.mem := by
  unfold linkAck
  try dsimp only
  repeat' (first | split | (refine (foldl_mem _ _ _ (fun _ _ => ?_)).trans ?_) | (refine (foldl_pair_mem _ _ _ (fun _ _ => ?_)).trans ?_))
  all_goals try simp [apply_ite Dev.mem]
  all_goals try exact takeReq_mem (by assumption)
  all_goals try exact snd_mem (by assumption) (by simp)

@[simp] theorem linkRetry_mem (p : Nat) (d : Dev) : (linkRetry p d).mem = d.mem := by
  unfold linkRetry
  try dsimp only
  repeat' (first | split | (refine (foldl_mem _ _ _ (fun _ _ => ?_)).trans ?_) | (refine (foldl_pair_mem _ _ _ (fun _ _ => ?_)).trans ?_))
  all_goals try simp [apply_ite Dev.mem]
  all_goals try exact takeReq_mem (by assumption)
  all_goals try exact snd_mem (by assumption) (by simp)

@[simp] theorem linkCredit_mem (p : Nat) (d : Dev) : (linkCredit p d).mem = d.mem := by
  unfold linkCredit
  try dsimp only
  repeat' (first | split | (refine (foldl_mem _ _ _ (fun _ _ => ?_)).trans ?_) | (refine (foldl_pair_mem _ _ _ (fun _ _ => ?_)).trans ?_))
  all_goals try simp [apply_ite Dev.mem]
  all_goals try exact takeReq_mem (by assumption)
  all_goals try exact snd_mem (by assumption) (by simp)

@[simp] theorem linkAckSend_mem (p : Nat) (d : Dev) : (linkAckSend p d).mem = d.mem := by
  unfold linkAckSend
  simp [apply_ite Dev.mem]

@[simp] theorem linkRetrySend_mem (p : Nat) (d : Dev) : (linkRetrySend p d).mem = d.mem := by
  unfold linkRetrySend
  simp [apply_ite Dev.mem]

@[simp] theorem linkAckTimeout_mem (p : Nat) (d : Dev) : (linkAckTimeout p d).mem = d.mem := by
  unfold linkAckTimeout
  simp [apply_ite Dev.mem]

@[simp] theorem laneLockLoss_mem (p : Nat) (d : Dev) : (laneLockLoss p d).mem = d.mem := by
  unfold laneLockLoss
  simp [apply_ite Dev.mem]

@[simp] theorem linkLevel_mem (p lv : Nat) (d : Dev) : (linkLevel p lv d).mem = d.mem := by
  unfold linkLevel
  simp [apply_ite Dev.mem]

@[simp] theorem portStart_mem (d : Dev) (p : Nat) : (portStart d p).mem = d.mem := by
  unfold portStart
  simp

@[simp] theorem showStages_mem (d : Dev) : (showStages d).mem = d.mem := by
  unfold showStages
  simp

@[simp] theorem portTrainDone_mem (p : Nat) (ok : Bool) (d : Dev) : (portTrainDone p ok d).mem = d.mem := by
  unfold portTrainDone
  simp [apply_ite Dev.mem]

@[simp] theorem takePkt_mem (d : Dev) (p n t : Nat) : (takePkt d p n t).2.mem = d.mem := by
  unfold takePkt
  dsimp only
  repeat' split
  all_goals simp

@[simp] theorem openRows_mem (d : Dev) (p : Nat) (x : RxPkt) : (openRows d p x).2.mem = d.mem := by
  unfold openRows
  dsimp only
  repeat' split
  all_goals simp

@[simp] theorem integrityFault_mem (d : Dev) (p h : Nat) : (integrityFault d p h).mem = d.mem := by
  unfold integrityFault
  simp

@[simp] theorem setHt_mem (d : Dev) (c n v : Nat) : (setHt d c n v).mem = d.mem := by
  unfold setHt
  simp

@[simp] theorem setX_mem (d : Dev) (c i v : Nat) : (setX d c i v).mem = d.mem := by
  unfold setX
  simp

@[simp] theorem setV_mem (d : Dev) (c i v : Nat) (poison : Bool) : (setV d c i v poison).mem = d.mem := by
  unfold setV
  simp

@[simp] theorem shfUseFault_mem (d : Dev) (w : ShfWho) (bank row : Nat) (f : Fld) : (shfUseFault d w bank row f).mem = d.mem := by
  unfold shfUseFault
  simp

@[simp] theorem shfRefused_mem (d : Dev) (w : ShfWho) (bank row : Nat) : (shfRefused d w bank row).mem = d.mem := by
  unfold shfRefused
  simp

@[simp] theorem countParity_mem (d : Dev) (w : ShfWho) (bank row : Nat) : (countParity d w bank row).mem = d.mem := by
  unfold countParity
  simp

@[simp] theorem shfParity_mem (d : Dev) (w : ShfWho) (bank row : Nat) : (shfParity d w bank row).mem = d.mem := by
  unfold shfParity
  simp [apply_ite Dev.mem]

@[simp] theorem readShelf_mem (d : Dev) (w : ShfWho) (bank row : Nat) : (readShelf d w bank row).2.mem = d.mem := by
  unfold readShelf
  dsimp only
  repeat' split
  all_goals simp

@[simp] theorem writeShelf_wf (d : Dev) (w : ShfWho) (bank row : Nat) (v : Row) (poison : Bool) (hdr : BitVec 64) (hwf : canon d.mem) : canon (writeShelf d w bank row v poison hdr).mem := by
  unfold writeShelf
  simp [apply_ite Dev.mem, apply_ite canon, hwf]

@[simp] theorem writeSide_mem (d : Dev) (w : ShfWho) (bank row : Nat) (poison : Bool) (hdr : BitVec 64) : (writeSide d w bank row poison hdr).mem = d.mem := by
  unfold writeSide
  simp [apply_ite Dev.mem]

@[simp] theorem syncChan_mem (d : Dev) (c n : Nat) : (syncChan d c n).mem = d.mem := by
  unfold syncChan
  dsimp only
  repeat' split
  all_goals simp

@[simp] theorem putChan_mem (d : Dev) (c n : Nat) (x : Chan) : (putChan d c n x).mem = d.mem := by
  unfold putChan
  simp

@[simp] theorem strFault_mem (d : Dev) (c n : Nat) (fill : Bool) (ctx : Nat) (f : Fld) (addr : Nat) : (strFault d c n fill ctx f addr).mem = d.mem := by
  unfold strFault
  simp

@[simp] theorem poisonCarried_mem (d : Dev) (c n : Nat) (p : Prog) : (poisonCarried d c n p).mem = d.mem := by
  unfold poisonCarried
  simp [apply_ite Dev.mem]

@[simp] theorem writeNear_wf (d : Dev) (c : Nat) (p : Prog) (item : Nat) (row : FRow) (hwf : canon d.mem) : canon (writeNear d c p item row).mem := by
  unfold writeNear
  simp [apply_ite Dev.mem, apply_ite canon, hwf]

@[simp] theorem readNear_mem (d : Dev) (c : Nat) (p : Prog) (item : Nat) : (readNear d c p item).2.mem = d.mem := by
  unfold readNear
  dsimp only
  repeat' split
  all_goals simp

@[simp] theorem landRow_wf (d : Dev) (c n : Nat) (p : Prog) (r : SRow) (k : Nat) (hwf : canon d.mem) : canon (landRow d c n p r k).2.mem := by
  unfold landRow
  dsimp only
  repeat' split
  all_goals simp [hwf]

@[simp] theorem landStage_wf (d : Dev) (c n : Nat) (p : Prog) (z0 : List SRow) (z1 : Nat) (hwf : canon d.mem) : canon (landStage d c n p z0 z1).2.mem := by
  induction z0 generalizing d p z1 with
  | nil => exact hwf
  | cons r rs ih =>
    unfold landStage
    simp [ih, hwf]

@[simp] theorem outHdrRow_mem (d : Dev) (c : Nat) (p : Prog) (k : Nat) : (outHdrRow d c p k).2.mem = d.mem := by
  unfold outHdrRow
  try dsimp only
  repeat' (first | split | (refine (foldl_mem _ _ _ (fun _ _ => ?_)).trans ?_) | (refine (foldl_pair_mem _ _ _ (fun _ _ => ?_)).trans ?_))
  all_goals try simp [apply_ite Dev.mem]
  all_goals try exact takeReq_mem (by assumption)
  all_goals try exact snd_mem (by assumption) (by simp)

@[simp] theorem fillOut_mem (d : Dev) (c n : Nat) (p : Prog) (z0 : Nat) : (fillOut d c n p z0).2.mem = d.mem := by
  induction z0 generalizing d p with
  | zero => rfl
  | succ m ih =>
    unfold fillOut
    try dsimp only
    repeat' split
    all_goals simp [ih]

@[simp] theorem runCur_wf (d : Dev) (c n : Nat) (p : Prog) (hwf : canon d.mem) : canon (runCur d c n p).2.mem := by
  unfold runCur
  dsimp only
  repeat' split
  all_goals simp [hwf]

@[simp] theorem streamStart_wf (d : Dev) (c n e ofs : Nat) (fill : Bool) (ctx : Nat) (hwf : canon d.mem) : canon (streamStart d c n e ofs fill ctx).mem := by
  unfold streamStart
  dsimp only
  repeat' split
  all_goals simp [hwf]

@[simp] theorem promote_wf (d : Dev) (c n : Nat) (hwf : canon d.mem) : canon (promote d c n).mem := by
  unfold promote
  dsimp only
  repeat' split
  all_goals simp [hwf]

@[simp] theorem farRecord_mem (d : Dev) (c n : Nat) (p : Prog) (addr : Nat) : (farRecord d c n p addr).mem = d.mem := by
  unfold farRecord
  simp

@[simp] theorem releaseFar_mem (d : Dev) (c n : Nat) (p : Prog) : (releaseFar d c n p).mem = d.mem := by
  unfold releaseFar
  repeat' split
  all_goals simp [apply_ite Dev.mem]

@[simp] theorem streamConfirm_wf (d : Dev) (c n : Nat) (hwf : canon d.mem) : canon (streamConfirm d c n).mem := by
  unfold streamConfirm
  dsimp only
  repeat' split
  all_goals simp [hwf]

@[simp] theorem streamCancel_mem (d : Dev) (c n : Nat) : (streamCancel d c n).mem = d.mem := by
  unfold streamCancel
  dsimp only
  repeat' split
  all_goals simp

@[simp] theorem emitRec_mem (d : Dev) (c n : Nat) (p : Prog) (lane g : Nat) (es : List CapEnt) : (emitRec d c n p lane g es).mem = d.mem := by
  unfold emitRec
  simp [apply_ite Dev.mem]

@[simp] theorem emitLane_mem (d : Dev) (c n : Nat) (p : Prog) (lane : Nat) : (emitLane d c n p lane).mem = d.mem := by
  unfold emitLane
  simp [apply_ite Dev.mem]

@[simp] theorem capSlot_mem (d : Dev) (c n : Nat) (p : Prog) (i o : Nat) (w : Nat) : (capSlot d c n p i o w).mem = d.mem := by
  unfold capSlot
  simp [apply_ite Dev.mem]

@[simp] theorem flushLanes_mem (d : Dev) (c n : Nat) (z0 : Nat) : (flushLanes d c n z0).mem = d.mem := by
  induction z0 generalizing d with
  | zero => rfl
  | succ m ih =>
    unfold flushLanes
    try dsimp only
    repeat' split
    all_goals simp [ih]

@[simp] theorem streamEnd_wf (c n : Nat) (d : Dev) (hwf : canon d.mem) : canon (streamEnd c n d).mem := by
  unfold streamEnd
  dsimp only
  repeat' split
  all_goals simp [hwf]

@[simp] theorem overflowFault_mem (d : Dev) (c n : Nat) (p : Prog) : (overflowFault d c n p).mem = d.mem := by
  unfold overflowFault
  simp [apply_ite Dev.mem]

@[simp] theorem takeRow_wf (d : Dev) (c n : Nat) (cur : Bool) (p : Prog) (row : FRow) (hwf : canon d.mem) : canon (takeRow d c n cur p row).2.mem := by
  unfold takeRow
  dsimp only
  repeat' split
  all_goals simp [hwf]

theorem chanRow_wf {d : Dev} {c n : Nat} {row : FRow} {sid : Option Nat} {x : Nat × Dev} (h : chanRow d c n row sid = some x)
    (hwf : canon d.mem) : canon x.2.mem := by
  unfold chanRow at h
  dsimp only at h
  split at h
  · split at h
    · cases h
    · cases h; simp [hwf]
  · cases h

@[simp] theorem strayCore_mem (d : Dev) (c n : Nat) : (strayCore d c n).mem = d.mem := by
  unfold strayCore
  simp

@[simp] theorem chanRows_wf (d : Dev) (c n : Nat) (z0 : List FRow) (z1 : Option Nat) (hwf : canon d.mem) : canon (chanRows d c n z0 z1).mem := by
  induction z0 generalizing d z1 with
  | nil => exact hwf
  | cons r rs ih =>
    unfold chanRows
    split
    · next h => exact ih _ _ (chanRow_wf h hwf)
    · split <;> simp [hwf]

@[simp] theorem chanTake_mem (d : Dev) (c n : Nat) : (chanTake d c n).2.mem = d.mem := by
  unfold chanTake
  dsimp only
  repeat' split
  all_goals simp

@[simp] theorem capTake_mem (d : Dev) (c n : Nat) : (capTake d c n).2.mem = d.mem := by
  unfold capTake
  dsimp only
  repeat' split
  all_goals simp

@[simp] theorem farFault_mem (d : Dev) (a : Agent) (addr : Nat) : (farFault d a addr).mem = d.mem := by
  unfold farFault
  dsimp only
  repeat' split
  all_goals simp

@[simp] theorem farRead_mem (d : Dev) (u : Nat) (a : Agent) (addr : Int) : (farRead d u a addr).2.mem = d.mem := by
  unfold farRead
  try dsimp only
  repeat' (first | split | (refine (foldl_mem _ _ _ (fun _ _ => ?_)).trans ?_) | (refine (foldl_pair_mem _ _ _ (fun _ _ => ?_)).trans ?_))
  all_goals try simp [apply_ite Dev.mem]
  all_goals try exact takeReq_mem (by assumption)
  all_goals try exact snd_mem (by assumption) (by simp)

@[simp] theorem farBytes_mem (d : Dev) (u : Nat) (a : Agent) (addr : Int) (n : Nat) : (farBytes d u a addr n).2.mem = d.mem := by
  unfold farBytes
  simp

@[simp] theorem agentRow_mem (d : Dev) (u : Nat) (a : Agent) : (agentRow d u a).2.mem = d.mem := by
  unfold agentRow
  try dsimp only
  repeat' (first | split | (refine (foldl_mem _ _ _ (fun _ _ => ?_)).trans ?_) | (refine (foldl_pair_mem _ _ _ (fun _ _ => ?_)).trans ?_))
  all_goals try simp [apply_ite Dev.mem]
  all_goals try exact takeReq_mem (by assumption)
  all_goals try exact snd_mem (by assumption) (by simp)

@[simp] theorem putAgent_mem (d : Dev) (u ag : Nat) (a : Agent) : (putAgent d u ag a).mem = d.mem := by
  unfold putAgent
  simp

@[simp] theorem agentTake_mem (d : Dev) (u ag : Nat) (z0 : Nat) (z1 : List FRow) : (agentTake d u ag z0 z1).2.mem = d.mem := by
  induction z0 generalizing d z1 with
  | zero => rfl
  | succ m ih =>
    unfold agentTake
    try dsimp only
    repeat' split
    all_goals simp [ih]

@[simp] theorem headerPut_wf (d : Dev) (a : Agent) (row : FRow) (first : Nat) (hwf : canon d.mem) : canon (headerPut d a row first).2.mem := by
  unfold headerPut
  refine foldl_pair_wf _ (fun st j h => ?_) _ _ hwf
  dsimp only
  split
  · simp [h]
  · split
    · next h2 =>
      have h3 := snd_wf h2 (by rw [unitRead_mem]; exact h)
      split
      · exact unitWrite_wf _ _ _ _ h3
      · rw [farFault_mem]; exact unitWrite_wf _ _ _ _ h3
    · next h2 => rw [farFault_mem]; exact snd_wf h2 (by rw [unitRead_mem]; exact h)

theorem agentPut_wf {d d1 : Dev} {u ag : Nat} {row : FRow} (h : agentPut d u ag row = some d1) (hwf : canon d.mem) : canon d1.mem := by
  unfold agentPut at h
  dsimp only at h
  repeat' split at h
  all_goals first | (cases h; simp [hwf]; done) | cases h

@[simp] theorem streamOpen_mem (d : Dev) : (streamOpen d).mem = d.mem := by
  unfold streamOpen
  dsimp only
  repeat' split
  all_goals simp

@[simp] theorem streamClose_mem (d : Dev) : (streamClose d).mem = d.mem := by
  unfold streamClose
  dsimp only
  repeat' split
  all_goals simp

@[simp] theorem slotFault_mem (d : Dev) (t port : Nat) (f : Fld) (fill : Bool) : (slotFault d t port f fill).mem = d.mem := by
  unfold slotFault
  simp

@[simp] theorem coreSupply_mem (d : Dev) (t p c e : Nat) : (coreSupply d t p c e).2.mem = d.mem := by
  unfold coreSupply
  try dsimp only
  repeat' split
  all_goals try simp
  all_goals try exact takeReq_mem (by assumption)
  all_goals try exact snd_mem (by assumption) (by (try simp) <;> first | exact takeReq_mem (by assumption) | exact snd_mem (by assumption) (by simp) | exact snd_mem (by assumption) (by (try simp) <;> exact snd_mem (by assumption) (by simp)))

@[simp] theorem localSupply_mem (d : Dev) (t p i : Nat) : (localSupply d t p i).2.mem = d.mem := by
  unfold localSupply
  try dsimp only
  repeat' (first | split | (refine (foldl_mem _ _ _ (fun _ _ => ?_)).trans ?_) | (refine (foldl_pair_mem _ _ _ (fun _ _ => ?_)).trans ?_))
  all_goals try simp [apply_ite Dev.mem]
  all_goals try exact takeReq_mem (by assumption)
  all_goals try exact snd_mem (by assumption) (by simp)

@[simp] theorem portSupply_mem (d : Dev) (t p c i : Nat) : (portSupply d t p c i).2.mem = d.mem := by
  unfold portSupply
  dsimp only
  repeat' split
  all_goals simp

@[simp] theorem inputFlit_mem (d : Dev) (t p c i : Nat) (bulk window : Bool) : (inputFlit d t p c i bulk window).2.mem = d.mem := by
  unfold inputFlit
  dsimp only
  repeat' split
  all_goals simp

@[simp] theorem inputs_mem (t c i : Nat) (bulk window : Bool) (z0 : List Nat) (z1 : Dev) : (inputs t c i bulk window z0 z1).2.mem = z1.mem := by
  induction z0 generalizing z1 with
  | nil => rfl
  | cons r rs ih =>
    unfold inputs
    simp [ih]

@[simp] theorem meshInject_mem (d : Dev) (f : Flit) : (meshInject d f).2.mem = d.mem := by
  unfold meshInject
  dsimp only
  repeat' split
  all_goals simp

@[simp] theorem receiveFlit_mem (d : Dev) (f : Flit) : (receiveFlit d f).mem = d.mem := by
  unfold receiveFlit
  dsimp only
  repeat' split
  all_goals simp

@[simp] theorem sendOut_mem (d : Dev) (t c n : Nat) (f : Flit) : (sendOut d t c n f).mem = d.mem := by
  unfold sendOut
  repeat' split
  all_goals simp

@[simp] theorem unselected_mem (d : Dev) (t : Nat) (here : Flit → Bool) (used : List Nat) : (unselected d t here used).mem = d.mem := by
  unfold unselected
  simp

@[simp] theorem adderAt_mem (d : Dev) (t c : Nat) (a b : Option Flit) : (adderAt d t c a b).mem = d.mem := by
  unfold adderAt
  dsimp only
  repeat' split
  all_goals simp

@[simp] theorem applyEntry_mem (d : Dev) (t c i : Nat) (here : Flit → Bool) : (applyEntry d t c i here).mem = d.mem := by
  have h : ∀ (g : Dev → Nat → Dev) (hg : ∀ d n, (g d n).mem = d.mem) (l : List Nat) (e : Dev), e.mem = d.mem → (l.foldl g e).mem = d.mem :=
    fun g hg l e he => (foldl_mem' g hg l e).trans he
  unfold applyEntry
  dsimp only
  split
  · refine h _ (fun d n => ?_) _ _ ?_
    · split <;> simp
    · rw [unselected_mem, inputs_mem]
  · rw [adderAt_mem]
    refine h _ (fun d n => ?_) _ _ ?_
    · split <;> simp
    · rw [unselected_mem, inputs_mem]

@[simp] theorem earlyReads_mem (d : Dev) (t c : Nat) : (earlyReads d t c).mem = d.mem := by
  unfold earlyReads
  dsimp only
  repeat' split
  all_goals simp

@[simp] theorem originReads_mem (d : Dev) : (originReads d).mem = d.mem := by
  unfold originReads
  simp

@[simp] theorem flitHop_mem (t c : Nat) (d : Dev) : (flitHop t c d).mem = d.mem := by
  unfold flitHop
  dsimp only
  repeat' split
  all_goals simp

@[simp] theorem strayUnit_mem (d : Dev) (u port : Nat) (fill : Bool) : (strayUnit d u port fill).mem = d.mem := by
  unfold strayUnit
  simp [apply_ite Dev.mem]

@[simp] theorem addrRows_wf (d : Dev) (u id port : Nat) (f : Flit) (hwf : canon d.mem) : canon (addrRows d u id port f).mem := by
  unfold addrRows
  try dsimp only
  repeat' (first | assumption | split | refine foldl_wf _ (fun _ _ _ => ?_) _ _ ?_ | refine foldl_pair_wf _ (fun _ _ _ => ?_) _ _ ?_)
  all_goals try simp [*]
  all_goals try exact takeReq_wf (by assumption) (by simp [*])
  all_goals try exact snd_wf (by assumption) (by simp [*])

@[simp] theorem agentRows_wf (d : Dev) (u ag port : Nat) (fill : Bool) (z0 : List FRow) (z1 : Bool) (hwf : canon d.mem) : canon (agentRows d u ag port fill z0 z1).mem := by
  induction z0 generalizing d z1 with
  | nil => exact hwf
  | cons r rs ih =>
    unfold agentRows
    split
    · next h => exact ih _ _ (agentPut_wf h hwf)
    · split <;> simp [hwf]

@[simp] theorem flitDeliver_wf (n : Nat) (d : Dev) (hwf : canon d.mem) : canon (flitDeliver n d).mem := by
  unfold flitDeliver
  dsimp only
  repeat' split
  all_goals simp [hwf]

@[simp] theorem drainSpanEnd_mem (d : Dev) : (drainSpanEnd d).mem = d.mem := by
  unfold drainSpanEnd
  simp

@[simp] theorem tickArrival_mem (u : Nat) (d : Dev) : (tickArrival u d).mem = d.mem := by
  unfold tickArrival
  simp [apply_ite Dev.mem]

@[simp] theorem tickFault_mem (u : Nat) (d : Dev) : (tickFault u d).mem = d.mem := by
  unfold tickFault
  simp [apply_ite Dev.mem]

@[simp] theorem passBulk_mem (row : FRow) (hops : List (Nat × Nat × Nat)) (d : Dev) : (passBulk row hops d).2.mem = d.mem := by
  unfold passBulk
  try dsimp only
  repeat' (first | split | (refine (foldl_mem _ _ _ (fun _ _ => ?_)).trans ?_) | (refine (foldl_pair_mem _ _ _ (fun _ _ => ?_)).trans ?_))
  all_goals try simp [apply_ite Dev.mem]
  all_goals try exact takeReq_mem (by assumption)
  all_goals try exact snd_mem (by assumption) (by simp)

@[simp] theorem engRead_mem (d : Dev) (k addr : Nat) : (engRead d k addr).2.mem = d.mem := by
  unfold engRead
  dsimp only
  repeat' split
  all_goals simp

@[simp] theorem engWriteFor_wf (n : Nat) (d : Dev) (k addr : Nat) (row : FRow) (hwf : canon d.mem) : canon (engWriteFor n d k addr row).2.mem := by
  unfold engWriteFor
  dsimp only
  repeat' split
  all_goals simp [hwf]

@[simp] theorem engWrite_wf (d : Dev) (k addr : Nat) (row : FRow) (hwf : canon d.mem) : canon (engWrite d k addr row).2.mem := by
  unfold engWrite
  repeat' split
  all_goals simp [hwf]

@[simp] theorem engWritesFor_wf (n k addr : Nat) (z0 : List FRow) (z1 : Dev) (hwf : canon z1.mem) : canon (engWritesFor n k addr z0 z1).2.mem := by
  induction z0 generalizing z1 n k addr with
  | nil => exact hwf
  | cons r rs ih =>
    unfold engWritesFor
    simp [ih, hwf]

@[simp] theorem engWrites_wf (k addr : Nat) (rs : List FRow) (d : Dev) (hwf : canon d.mem) : canon (engWrites k addr rs d).2.mem := by
  unfold engWrites
  simp [hwf]

@[simp] theorem engReads_mem (k addr : Nat) (z0 : Nat) (z1 : Dev) : (engReads k addr z0 z1).2.mem = z1.mem := by
  induction z0 generalizing addr z1 with
  | zero => rfl
  | succ m ih =>
    unfold engReads
    simp [ih]

@[simp] theorem setWin_mem (d : Dev) (n v : Nat) : (setWin d n v).mem = d.mem := by
  unfold setWin
  simp

@[simp] theorem openWin_mem (d : Dev) (n w : Nat) : (openWin d n w).mem = d.mem := by
  unfold openWin
  simp

@[simp] theorem closeWin_mem (d : Dev) (n : Nat) (req : Option Nat) : (closeWin d n req).mem = d.mem := by
  unfold closeWin
  simp

@[simp] theorem respond_mem (d : Dev) (p : Nat) (pk : Packet) : (respond d p pk).mem = d.mem := by
  unfold respond
  simp [apply_ite Dev.mem]

@[simp] theorem countRefused_mem (d : Dev) (p h code : Nat) : (countRefused d p h code).mem = d.mem := by
  unfold countRefused
  simp

@[simp] theorem nackReq_mem (d : Dev) (p h code : Nat) : (nackReq d p h code).mem = d.mem := by
  unfold nackReq
  simp

@[simp] theorem holdReq_mem (d : Dev) (p h : Nat) (rows : List FRow) : (holdReq d p h rows).mem = d.mem := by
  unfold holdReq
  simp

@[simp] theorem remoteReq_mem (p n t : Nat) (d : Dev) : (remoteReq p n t d).mem = d.mem := by
  unfold remoteReq
  try dsimp only
  repeat' split
  all_goals try simp
  all_goals try exact takeReq_mem (by assumption)
  all_goals try exact snd_mem (by assumption) (by (try simp) <;> first | exact takeReq_mem (by assumption) | exact snd_mem (by assumption) (by simp) | exact snd_mem (by assumption) (by (try simp) <;> exact snd_mem (by assumption) (by simp)))

@[simp] theorem remoteWrite_mem (p n : Nat) (d : Dev) : (remoteWrite p n d).mem = d.mem := by
  unfold remoteWrite
  simp

@[simp] theorem remoteRead_mem (p n : Nat) (d : Dev) : (remoteRead p n d).mem = d.mem := by
  unfold remoteRead
  simp

@[simp] theorem setHeld_mem (d : Dev) (x : HeldReq) : (setHeld d x).mem = d.mem := by
  unfold setHeld
  simp

@[simp] theorem dropHeld_mem (d : Dev) (no : Nat) : (dropHeld d no).mem = d.mem := by
  unfold dropHeld
  simp

@[simp] theorem finishHeld_mem (d : Dev) (x : HeldReq) : (finishHeld d x).mem = d.mem := by
  unfold finishHeld
  simp [apply_ite Dev.mem]

@[simp] theorem landBulk_wf (base : Nat) (src : Src) (hops : List (Nat × Nat × Nat)) (z0 : Nat) (z1 : HeldReq) (z2 : Dev) (hwf : canon z2.mem) : canon (landBulk base src hops z0 z1 z2).2.mem := by
  induction z0 generalizing z1 z2 with
  | zero => exact hwf
  | succ m ih =>
    unfold landBulk
    try dsimp only
    repeat' split
    all_goals simp [ih, hwf]

@[simp] theorem sendShelf_mem (a ctx : Nat) (z0 : Nat) (z1 : HeldReq) (z2 : Dev) : (sendShelf a ctx z0 z1 z2).2.mem = z2.mem := by
  induction z0 generalizing z1 z2 with
  | zero => rfl
  | succ m ih =>
    unfold sendShelf
    try dsimp only
    repeat' split
    all_goals simp [ih]

@[simp] theorem windowLand_wf (n m : Nat) (d : Dev) (hwf : canon d.mem) : canon (windowLand n m d).mem := by
  unfold windowLand
  dsimp only
  repeat' split
  all_goals simp [hwf]

@[simp] theorem quietly_mem (d d1 : Dev) : (quietly d d1).mem = d1.mem := rfl

@[simp] theorem shelfAccess_wf (d : Dev) (s : ShelfRow) (hwf : canon d.mem) : canon (shelfAccess d s).2.mem := by
  unfold shelfAccess
  dsimp only
  repeat' split
  all_goals simp [hwf]

@[simp] theorem hostFeed_mem (z0 : Nat) (z1 : Dev) : (hostFeed z0 z1).mem = z1.mem := by
  induction z0 generalizing z1 with
  | zero => rfl
  | succ m ih =>
    unfold hostFeed
    split
    · rfl
    · split
      · rfl
      · rw [ih]

@[simp] theorem answerRead_mem (d : Dev) (v : Nat) : (answerRead d v).mem = d.mem := by
  unfold answerRead
  simp

@[simp] theorem hostRowBack_mem (d : Dev) (s : ShelfRow) (row : BitVec 1024) : (hostRowBack d s row).mem = d.mem := by
  unfold hostRowBack
  dsimp only
  repeat' split
  all_goals simp

@[simp] theorem shelfWindowRow_wf (n : Nat) (d : Dev) (hwf : canon d.mem) : canon (shelfWindowRow n d).mem := by
  unfold shelfWindowRow
  dsimp only
  repeat' split
  all_goals simp [hwf]

@[simp] theorem bulkRefuseReport_mem (n : Nat) (d : Dev) : (bulkRefuseReport n d).mem = d.mem := by
  unfold bulkRefuseReport
  dsimp only
  repeat' split
  all_goals simp

@[simp] theorem windowCloseDone_mem (n : Nat) (d : Dev) : (windowCloseDone n d).mem = d.mem := by
  unfold windowCloseDone
  dsimp only
  repeat' split
  all_goals simp

@[simp] theorem modEng_mem (d : Dev) (k e : Nat) (f : Eng → Eng) : (modEng d k e f).mem = d.mem := by
  unfold modEng
  simp

@[simp] theorem queueAt_mem (d : Dev) (status qlen : Nat) (st cur : Fld) (len : Fld) (n : Nat) : (queueAt d status qlen st cur len n).mem = d.mem := by
  unfold queueAt
  simp [apply_ite Dev.mem]

end Sys2Proof.Machine
end

