-- ==== Sys2Proof/Laws/Keep2.lean ====
section
/-!
SUPPORT. Laws/Keep2.lean: for each operation from xferOut to pweEstimate, `<name>_mem` (it leaves memory as it is) or `<name>_wf` (it keeps
memory canonical).
-/
namespace Sys2Proof.Machine

@[simp] theorem xferOut_mem (d : Dev) (k : Nat) : (xferOut d k).mem = d.mem := by
  unfold xferOut
  simp

@[simp] theorem settle_mem (d : Dev) (o : Outst) (bad : Bool) : (settle d o bad).mem = d.mem := by
  unfold settle
  simp [apply_ite Dev.mem]

@[simp] theorem ackIn_mem (p n : Nat) (d : Dev) : (ackIn p n d).mem = d.mem := by
  unfold ackIn
  try dsimp only
  repeat' (first | split | (refine (foldl_mem _ _ _ (fun _ _ => ?_)).trans ?_) | (refine (foldl_pair_mem _ _ _ (fun _ _ => ?_)).trans ?_))
  all_goals try simp [apply_ite Dev.mem]
  all_goals try exact takeReq_mem (by assumption)
  all_goals try exact snd_mem (by assumption) (by simp)

@[simp] theorem nackIn_mem (p n : Nat) (d : Dev) : (nackIn p n d).mem = d.mem := by
  unfold nackIn
  try dsimp only
  repeat' (first | split | (refine (foldl_mem _ _ _ (fun _ _ => ?_)).trans ?_) | (refine (foldl_pair_mem _ _ _ (fun _ _ => ?_)).trans ?_))
  all_goals try simp [apply_ite Dev.mem]
  all_goals try exact takeReq_mem (by assumption)
  all_goals try exact snd_mem (by assumption) (by simp)

@[simp] theorem rdataIn_wf (p n : Nat) (d : Dev) (hwf : canon d.mem) : canon (rdataIn p n d).mem := by
  unfold rdataIn
  split
  · next h =>
    have h1 := snd_wf h (by simp [hwf])
    dsimp only
    split
    · exact h1
    · split
      · exact h1
      · split
        · next h2 => simp [snd_wf h2 (by simp [h1])]
        · next h2 => simp [snd_wf h2 (by simp [h1])]
  · exact hwf

@[simp] theorem txnTimeout_mem (n : Nat) (d : Dev) : (txnTimeout n d).mem = d.mem := by
  unfold txnTimeout
  dsimp only
  repeat' split
  all_goals simp

@[simp] theorem syncIn_mem (p n : Nat) (d : Dev) : (syncIn p n d).mem = d.mem := by
  unfold syncIn
  try dsimp only
  repeat' (first | split | (refine (foldl_mem _ _ _ (fun _ _ => ?_)).trans ?_) | (refine (foldl_pair_mem _ _ _ (fun _ _ => ?_)).trans ?_))
  all_goals try simp [apply_ite Dev.mem]
  all_goals try exact takeReq_mem (by assumption)
  all_goals try exact snd_mem (by assumption) (by simp)

@[simp] theorem flushSync_mem (d : Dev) : (flushSync d).mem = d.mem := by
  unfold flushSync
  simp [apply_ite Dev.mem]

@[simp] theorem xferAt_mem (d : Dev) (k n : Nat) : (xferAt d k n).mem = d.mem := by
  unfold xferAt
  simp

@[simp] theorem xferDescStart_mem (k : Nat) (d : Dev) : (xferDescStart k d).mem = d.mem := by
  unfold xferDescStart
  simp [apply_ite Dev.mem]

@[simp] theorem nextTag_mem (d : Dev) : (nextTag d).2.mem = d.mem := by
  unfold nextTag
  simp

@[simp] theorem addOutst_mem (d : Dev) (o : Outst) : (addOutst d o).mem = d.mem := by
  unfold addOutst
  simp

@[simp] theorem advanceXfer_mem (d : Dev) (k n : Nat) : (advanceXfer d k n).mem = d.mem := by
  unfold advanceXfer
  simp

@[simp] theorem engSend_mem (d : Dev) (k e p : Nat) (pk : Packet) (o : Outst) : (engSend d k e p pk o).mem = d.mem := by
  unfold engSend
  simp [apply_ite Dev.mem]

@[simp] theorem xferWrite_mem (k : Nat) (d : Dev) : (xferWrite k d).mem = d.mem := by
  unfold xferWrite
  dsimp only
  repeat' split
  all_goals simp

@[simp] theorem xferRead_mem (k : Nat) (d : Dev) : (xferRead k d).mem = d.mem := by
  unfold xferRead
  dsimp only
  repeat' split
  all_goals simp

@[simp] theorem mcastWrite_mem (k : Nat) (d : Dev) : (mcastWrite k d).mem = d.mem := by
  unfold mcastWrite
  dsimp only
  repeat' split
  all_goals simp

@[simp] theorem mcastSettle_mem (d : Dev) (k n e : Nat) (m : McPkt) : (mcastSettle d k n e m).mem = d.mem := by
  unfold mcastSettle
  simp [apply_ite Dev.mem]

@[simp] theorem mcastCopySend_wf (k n e : Nat) (d : Dev) (hwf : canon d.mem) : canon (mcastCopySend k n e d).mem := by
  unfold mcastCopySend
  dsimp only
  repeat' split
  all_goals simp [hwf]

@[simp] theorem mcastHoldExpire_mem (k n e : Nat) (d : Dev) : (mcastHoldExpire k n e d).mem = d.mem := by
  unfold mcastHoldExpire
  dsimp only
  repeat' split
  all_goals simp

@[simp] theorem xferDescDone_mem (k : Nat) (d : Dev) : (xferDescDone k d).mem = d.mem := by
  unfold xferDescDone
  simp [apply_ite Dev.mem]

@[simp] theorem setUe_mem (d : Dev) (t : Nat) (u : UeSt) : (setUe d t u).mem = d.mem := by
  unfold setUe
  simp

@[simp] theorem modUe_mem (d : Dev) (t : Nat) (f : UeSt → UeSt) : (modUe d t f).mem = d.mem := by
  unfold modUe
  simp

@[simp] theorem ueNext_mem (d : Dev) (t pos : Nat) : (ueNext d t pos).mem = d.mem := by
  unfold ueNext
  simp [apply_ite Dev.mem]

@[simp] theorem ueUnwait_mem (d : Dev) (t : Nat) : (ueUnwait d t).mem = d.mem := by
  unfold ueUnwait
  simp

@[simp] theorem passBegin_mem (d : Dev) (clip : BitVec 32) (wait reclip : Bool) : (passBegin d clip wait reclip).mem = d.mem := by
  unfold passBegin
  simp [apply_ite Dev.mem]

@[simp] theorem uesIdle_mem (d : Dev) : (uesIdle d).mem = d.mem := by
  unfold uesIdle
  simp [apply_ite Dev.mem]

@[simp] theorem clearUeLatches_mem (d : Dev) : (clearUeLatches d).mem = d.mem := by
  unfold clearUeLatches
  simp

@[simp] theorem ueEnd_mem (d : Dev) (t : Nat) : (ueEnd d t).mem = d.mem := by
  unfold ueEnd
  simp

@[simp] theorem ueInterrupt_mem (d : Dev) (t : Nat) (f : Option Fld) : (ueInterrupt d t f).mem = d.mem := by
  unfold ueInterrupt
  dsimp only
  repeat' split
  all_goals simp

@[simp] theorem ueCheck_mem (d : Dev) (t a : Nat) (k : UeRd) : (ueCheck d t a k).2.mem = d.mem := by
  unfold ueCheck
  dsimp only
  repeat' split
  all_goals simp

@[simp] theorem ueChecks_mem (t : Nat) (z0 : List (Nat × UeRd)) (z1 : Dev) : (ueChecks t z0 z1).2.mem = z1.mem := by
  induction z0 generalizing z1 with
  | nil => rfl
  | cons r rs ih =>
    unfold ueChecks
    try dsimp only
    repeat' split
    all_goals simp [ih]

@[simp] theorem loftWrite_wf (d : Dev) (t a : Nat) (hwf : canon d.mem) : canon (loftWrite d t a).2.mem := by
  unfold loftWrite
  dsimp only
  repeat' split
  all_goals simp [hwf]

@[simp] theorem loftWrites_wf (t a : Nat) (z0 : Nat) (z1 : Dev) (hwf : canon z1.mem) : canon (loftWrites t a z0 z1).mem := by
  induction z0 generalizing z1 with
  | zero => exact hwf
  | succ m ih =>
    unfold loftWrites
    try dsimp only
    repeat' split
    all_goals simp [ih, hwf]

@[simp] theorem ueShardStart_mem (t : Nat) (d : Dev) : (ueShardStart t d).mem = d.mem := by
  unfold ueShardStart
  simp [apply_ite Dev.mem]

@[simp] theorem ueLoftWrite_wf (t a n : Nat) (d : Dev) (hwf : canon d.mem) : canon (ueLoftWrite t a n d).mem := by
  unfold ueLoftWrite
  simp [apply_ite Dev.mem, apply_ite canon, hwf]

@[simp] theorem ueShardDone_mem (t : Nat) (d : Dev) : (ueShardDone t d).mem = d.mem := by
  unfold ueShardDone
  simp [apply_ite Dev.mem]

@[simp] theorem ueShardInterrupt_mem (t : Nat) (d : Dev) : (ueShardInterrupt t d).mem = d.mem := by
  unfold ueShardInterrupt
  simp [apply_ite Dev.mem]

@[simp] theorem advanceBias_mem (d : Dev) : (advanceBias d).mem = d.mem := by
  unfold advanceBias
  simp [apply_ite Dev.mem]

@[simp] theorem recomputeBias_mem (d : Dev) : (recomputeBias d).mem = d.mem := by
  unfold recomputeBias
  rw [iter_mem _ advanceBias_mem]

@[simp] theorem rdxAt_mem (d : Dev) (k n : Nat) : (rdxAt d k n).mem = d.mem := by
  unfold rdxAt
  simp

@[simp] theorem rdxFault_mem (d : Dev) (k : Nat) (f : Fld) : (rdxFault d k f).mem = d.mem := by
  unfold rdxFault
  simp

@[simp] theorem rdxDescStart_mem (k : Nat) (d : Dev) : (rdxDescStart k d).mem = d.mem := by
  unfold rdxDescStart
  simp [apply_ite Dev.mem]

@[simp] theorem segRows_mem (d : Dev) (k base i : Nat) : (segRows d k base i).2.mem = d.mem := by
  unfold segRows
  simp

@[simp] theorem putSeg_wf (d : Dev) (k i : Nat) (rows : List FRow) (hwf : canon d.mem) : canon (putSeg d k i rows).mem := by
  unfold putSeg
  simp [apply_ite Dev.mem, apply_ite canon, hwf]

@[simp] theorem sumRows_mem (d : Dev) (k : Nat) (a b : List FRow) : (sumRows d k a b).2.mem = d.mem := by
  unfold sumRows
  simp [apply_ite Dev.mem]

@[simp] theorem takeContrib_mem (d : Dev) (k port desc phase src n : Nat) : (takeContrib d k port desc phase src n).2.mem = d.mem := by
  unfold takeContrib
  dsimp only
  repeat' split
  all_goals simp

@[simp] theorem ringBegin_wf (d : Dev) (k : Nat) (hwf : canon d.mem) : canon (ringBegin d k).mem := by
  unfold ringBegin
  simp [apply_ite Dev.mem, apply_ite canon, hwf]

@[simp] theorem ringSend_mem (d : Dev) (k : Nat) : (ringSend d k).mem = d.mem := by
  unfold ringSend
  simp [apply_ite Dev.mem]

@[simp] theorem ringTake_wf (d : Dev) (k : Nat) (hwf : canon d.mem) : canon (ringTake d k).mem := by
  unfold ringTake
  dsimp only
  split
  · exact hwf
  · next h =>
    have h1 := snd_wf h (by simp [hwf])
    repeat' split
    all_goals simp [h1]

@[simp] theorem ringStep_wf (k op : Nat) (d : Dev) (hwf : canon d.mem) : canon (ringStep k op d).mem := by
  unfold ringStep
  simp [apply_ite Dev.mem, apply_ite canon, hwf]

@[simp] theorem allreduce_wf (k : Nat) (d : Dev) (hwf : canon d.mem) : canon (allreduce k d).mem := by
  unfold allreduce
  simp [hwf]

@[simp] theorem reduceScatter_wf (k : Nat) (d : Dev) (hwf : canon d.mem) : canon (reduceScatter k d).mem := by
  unfold reduceScatter
  simp [hwf]

@[simp] theorem allGather_wf (k : Nat) (d : Dev) (hwf : canon d.mem) : canon (allGather k d).mem := by
  unfold allGather
  simp [hwf]

@[simp] theorem rdxDescDone_mem (k : Nat) (d : Dev) : (rdxDescDone k d).mem = d.mem := by
  unfold rdxDescDone
  simp [apply_ite Dev.mem]

@[simp] theorem contribCheck_mem (d : Dev) (k : Nat) (c : Contrib) : (contribCheck d k c).mem = d.mem := by
  unfold contribCheck
  dsimp only
  repeat' split
  all_goals simp

@[simp] theorem withContrib_mem (d : Dev) (port h : Nat) (f : Contrib → Contrib) : (withContrib d port h f).mem = d.mem := by
  unfold withContrib
  simp

@[simp] theorem contribIn_mem (p n : Nat) (d : Dev) : (contribIn p n d).mem = d.mem := by
  unfold contribIn
  try dsimp only
  repeat' split
  all_goals try simp
  all_goals try exact takeReq_mem (by assumption)
  all_goals try exact snd_mem (by assumption) (by (try simp) <;> first | exact takeReq_mem (by assumption) | exact snd_mem (by assumption) (by simp) | exact snd_mem (by assumption) (by (try simp) <;> exact snd_mem (by assumption) (by simp)))

@[simp] theorem digestIn_mem (p n : Nat) (d : Dev) : (digestIn p n d).mem = d.mem := by
  unfold digestIn
  try dsimp only
  repeat' (first | split | (refine (foldl_mem _ _ _ (fun _ _ => ?_)).trans ?_) | (refine (foldl_pair_mem _ _ _ (fun _ _ => ?_)).trans ?_))
  all_goals try simp [apply_ite Dev.mem]
  all_goals try exact takeReq_mem (by assumption)
  all_goals try exact snd_mem (by assumption) (by simp)

@[simp] theorem noticeIn_mem (p n : Nat) (d : Dev) : (noticeIn p n d).mem = d.mem := by
  unfold noticeIn
  try dsimp only
  repeat' (first | split | (refine (foldl_mem _ _ _ (fun _ _ => ?_)).trans ?_) | (refine (foldl_pair_mem _ _ _ (fun _ _ => ?_)).trans ?_))
  all_goals try simp [apply_ite Dev.mem]
  all_goals try exact takeReq_mem (by assumption)
  all_goals try exact snd_mem (by assumption) (by simp)

@[simp] theorem setVerd_mem (d : Dev) (v : Verd) : (setVerd d v).mem = d.mem := by
  unfold setVerd
  simp

@[simp] theorem sendVrd_mem (d : Dev) (a dst : Nat) (rows : List Row) (sl : Bool) : (sendVrd d a dst rows sl).mem = d.mem := by
  unfold sendVrd
  repeat' split
  all_goals simp

@[simp] theorem takeFinal_mem (d : Dev) (r : Nat) (detail : List Row) : (takeFinal d r detail).mem = d.mem := by
  unfold takeFinal
  simp [apply_ite Dev.mem]

@[simp] theorem sendReturn_mem (d : Dev) (r a : Nat) : (sendReturn d r a).mem = d.mem := by
  unfold sendReturn
  simp

@[simp] theorem returnX_mem (d : Dev) (r : Nat) : (returnX d r).mem = d.mem := by
  unfold returnX
  simp

@[simp] theorem returnY_mem (d : Dev) (r : Nat) : (returnY d r).mem = d.mem := by
  unfold returnY
  simp

@[simp] theorem returnZ_mem (d : Dev) (r : Nat) : (returnZ d r).mem = d.mem := by
  unfold returnZ
  simp

@[simp] theorem clearStage_mem (d : Dev) (a : Nat) : (clearStage d a).mem = d.mem := by
  unfold clearStage
  simp

theorem boxPut_mem {d d1 : Dev} {a pos r : Nat} {table : List (BitVec 64)} (h : boxPut d a pos r table = some d1) : d1.mem = d.mem := by
  unfold boxPut at h
  dsimp only at h
  split at h
  · cases h
  · cases h
    rfl

@[simp] theorem gatherZ_mem (d : Dev) (pos r : Nat) : (gatherZ d pos r).mem = d.mem := by
  unfold gatherZ
  split
  · simp
  · next h =>
    have hm := boxPut_mem h
    split <;> simp [hm]

@[simp] theorem gatherY_mem (d : Dev) (pos r : Nat) : (gatherY d pos r).mem = d.mem := by
  unfold gatherY
  split
  · simp
  · next h =>
    have hm := boxPut_mem h
    split
    · dsimp only
      split <;> simp [hm]
    · exact hm

@[simp] theorem gatherX_mem (d : Dev) (pos r : Nat) (table : List (BitVec 64)) : (gatherX d pos r table).mem = d.mem := by
  unfold gatherX
  split
  · simp
  · next h =>
    have hm := boxPut_mem h
    split
    · dsimp only
      split <;> simp [hm]
    · exact hm

@[simp] theorem showRoots_mem (d : Dev) : (showRoots d).mem = d.mem := by
  unfold showRoots
  simp

@[simp] theorem submitVerdict_mem (d : Dev) : (submitVerdict d).mem = d.mem := by
  unfold submitVerdict
  simp [apply_ite Dev.mem]

@[simp] theorem vrdIn_mem (p n : Nat) (d : Dev) : (vrdIn p n d).mem = d.mem := by
  unfold vrdIn
  try dsimp only
  repeat' split
  all_goals try simp
  all_goals try exact takeReq_mem (by assumption)
  all_goals try exact snd_mem (by assumption) (by (try simp) <;> first | exact takeReq_mem (by assumption) | exact snd_mem (by assumption) (by simp) | exact snd_mem (by assumption) (by (try simp) <;> exact snd_mem (by assumption) (by simp)))

@[simp] theorem mgmtCopy_wf (d : Dev) (chunks : List Nat) (rows : List (Nat × Row)) (hwf : canon d.mem) : canon (mgmtCopy d chunks rows).mem := by
  unfold mgmtCopy
  try dsimp only
  repeat' (first | assumption | split | refine foldl_wf _ (fun _ _ _ => ?_) _ _ ?_ | refine foldl_pair_wf _ (fun _ _ _ => ?_) _ _ ?_)
  all_goals try simp [*]
  all_goals try exact takeReq_wf (by assumption) (by simp [*])
  all_goals try exact snd_wf (by assumption) (by simp [*])

@[simp] theorem repairDone_wf (rows : List (Nat × Row)) (d : Dev) (hwf : canon d.mem) : canon (repairDone rows d).mem := by
  unfold repairDone
  dsimp only
  repeat' split
  all_goals simp [hwf]

@[simp] theorem xchAt_mem (d : Dev) (k n : Nat) : (xchAt d k n).mem = d.mem := by
  unfold xchAt
  simp

@[simp] theorem xchDescStart_mem (k : Nat) (d : Dev) : (xchDescStart k d).mem = d.mem := by
  unfold xchDescStart
  simp [apply_ite Dev.mem]

@[simp] theorem idxRows_mem (d : Dev) (k x : Nat) : (idxRows d k x).2.mem = d.mem := by
  unfold idxRows
  simp

@[simp] theorem laneArea_mem (d : Dev) (k x base hbase n : Nat) : (laneArea d k x base hbase n).2.mem = d.mem := by
  unfold laneArea
  dsimp only
  repeat' split
  all_goals simp

@[simp] theorem xchPoison_mem (d : Dev) (k : Nat) : (xchPoison d k).mem = d.mem := by
  unfold xchPoison
  simp [apply_ite Dev.mem]

@[simp] theorem xchBegin_mem (d : Dev) (k op total : Nat) : (xchBegin d k op total).2.mem = d.mem := by
  unfold xchBegin
  dsimp only
  repeat' split
  all_goals simp

@[simp] theorem dispatchRow_mem (k x : Nat) (idx : List FRow) (a : AsgSt) (e j f : Nat) (d : Dev) : (dispatchRow k x idx a e j f d).2.mem = d.mem := by
  unfold dispatchRow
  try dsimp only
  repeat' (first | split | (refine (foldl_mem _ _ _ (fun _ _ => ?_)).trans ?_) | (refine (foldl_pair_mem _ _ _ (fun _ _ => ?_)).trans ?_))
  all_goals try simp [apply_ite Dev.mem]
  all_goals try exact takeReq_mem (by assumption)
  all_goals try exact snd_mem (by assumption) (by simp)

@[simp] theorem dispatchRows_mem (k x : Nat) (idx : List FRow) (a : AsgSt) (e j lo : Nat) (z0 : Nat) (z1 : Dev) : (dispatchRows k x idx a e j lo z0 z1).2.mem = z1.mem := by
  induction z0 generalizing lo z1 with
  | zero => rfl
  | succ m ih =>
    unfold dispatchRows
    simp [ih]

@[simp] theorem xchOwn_wf (d : Dev) (k h : Nat) (rows : List FRow) (hwf : canon d.mem) : canon (xchOwn d k h rows).mem := by
  unfold xchOwn
  dsimp only
  repeat' split
  all_goals simp [hwf]

@[simp] theorem xchSend_wf (d : Dev) (k ent ofs : Nat) (rows : List FRow) (hwf : canon d.mem) : canon (xchSend d k ent ofs rows).mem := by
  unfold xchSend
  simp [apply_ite Dev.mem, apply_ite canon, hwf]

@[simp] theorem dispatch_wf (k : Nat) (d : Dev) (hwf : canon d.mem) : canon (dispatch k d).mem := by
  unfold dispatch
  split
  · next h => exact snd_wf h (by simp [hwf])
  · next h =>
    have h1 := snd_wf h (by simp [hwf])
    dsimp only
    repeat' split
    all_goals simp [h1]

@[simp] theorem putPart_wf (d : Dev) (k a lo n v : Nat) (poison : Bool) (hwf : canon d.mem) : canon (putPart d k a lo n v poison).2.mem := by
  unfold putPart
  dsimp only
  repeat' split
  all_goals simp [hwf]

@[simp] theorem putHdrs_wf (d : Dev) (k a v : Nat) (poison : Bool) (hwf : canon d.mem) : canon (putHdrs d k a v poison).2.mem := by
  unfold putHdrs
  dsimp only
  repeat' split
  all_goals simp [hwf]

@[simp] theorem combineRow_wf (k x : Nat) (idx : List FRow) (a : AsgSt) (r t f : Nat) (d : Dev) (hwf : canon d.mem) : canon (combineRow k x idx a r t f d).2.mem := by
  unfold combineRow
  dsimp only
  have h1 : ∀ (l : List (Nat × Nat)) (g : (List ((Nat × Nat) × (Nat × Nat × Bool)) × Dev) → Nat × Nat → (List ((Nat × Nat) × (Nat × Nat × Bool)) × Dev)),
      (∀ s y, (g s y).2.mem = s.2.mem) → canon (l.foldl g ([], d)).2.mem := fun l g h => by
    rw [foldl_pair_mem g l _ h]; exact hwf
  have h2 := h1 (((a.got.filter (fun y => y.rank == r && y.tile == t)).map (fun y => (y.e, y.slot / 128))).eraseDups)
    (fun acc y => let g := laneArea acc.2 k x (xeSrc x) (xeSrcHdr x) ((y.1 * xeShare d x + y.2) * xeFeat x + f)
      (acc.1 ++ [(y, g.1)], g.2)) (fun s y => by simp)
  repeat' split
  all_goals simp [h2]

@[simp] theorem combineRows_wf (k x : Nat) (idx : List FRow) (a : AsgSt) (r t f : Nat) (z0 : Nat) (z1 : Dev) (hwf : canon z1.mem) : canon (combineRows k x idx a r t f z0 z1).2.mem := by
  induction z0 generalizing z1 k x idx a r t f with
  | zero => exact hwf
  | succ m ih =>
    unfold combineRows
    simp [ih, hwf]

@[simp] theorem combine_wf (k : Nat) (d : Dev) (hwf : canon d.mem) : canon (combine k d).mem := by
  unfold combine
  split
  · next h => exact snd_wf h (by simp [hwf])
  · next h =>
    have h1 := snd_wf h (by simp [hwf])
    dsimp only
    rw [modEng_mem]
    have h2 := fun x idx a r t f => combineRows_wf k x idx a r t f 16 _ h1
    repeat' split
    all_goals simp [h2]

@[simp] theorem xchDescDone_mem (k : Nat) (d : Dev) : (xchDescDone k d).mem = d.mem := by
  unfold xchDescDone
  simp [apply_ite Dev.mem]

@[simp] theorem syncPoisonAny_mem (d : Dev) (c : Nat) : (syncPoisonAny d c).mem = d.mem := by
  unfold syncPoisonAny
  simp

@[simp] theorem setAccPoison_mem (d : Dev) (c : Nat) (rs : List Nat) (b : Bool) : (setAccPoison d c rs b).mem = d.mem := by
  unfold setAccPoison
  simp

@[simp] theorem poisonAllAcc_mem (d : Dev) (c : Nat) : (poisonAllAcc d c).mem = d.mem := by
  unfold poisonAllAcc
  simp

@[simp] theorem setAccRow_mem (d : Dev) (c r v : Nat) : (setAccRow d c r v).mem = d.mem := by
  unfold setAccRow
  simp

@[simp] theorem clearAcc_mem (d : Dev) (c : Nat) (rs : List Nat) : (clearAcc d c rs).mem = d.mem := by
  unfold clearAcc
  simp

@[simp] theorem clearFile_mem (d : Dev) (c : Nat) : (clearFile d c).mem = d.mem := by
  unfold clearFile
  simp

@[simp] theorem latchCore_mem (d : Dev) (c : Nat) (fill b : Bool) : (latchCore d c fill b).mem = d.mem := by
  unfold latchCore
  simp [apply_ite Dev.mem]

@[simp] theorem endBallast_mem (d : Dev) (c m : Nat) : (endBallast d c m).mem = d.mem := by
  unfold endBallast
  repeat' split
  all_goals simp

@[simp] theorem coast_mem (d : Dev) (c t : Nat) : (coast d c t).mem = d.mem := by
  unfold coast
  dsimp only
  repeat' split
  all_goals simp

@[simp] theorem setActivity_mem (d : Dev) (c t : Nat) : (setActivity d c t).mem = d.mem := by
  unfold setActivity
  simp [apply_ite Dev.mem]

@[simp] theorem coverTo_mem (d : Dev) (c lv act m : Nat) : (coverTo d c lv act m).mem = d.mem := by
  unfold coverTo
  simp [apply_ite Dev.mem]

@[simp] theorem setCoverage_mem (d : Dev) (c lv : Nat) : (setCoverage d c lv).mem = d.mem := by
  unfold setCoverage
  simp [apply_ite Dev.mem]

@[simp] theorem maxR_mem (d : Dev) (a n : Nat) : (maxR d a n).mem = d.mem := by
  unfold maxR
  simp

@[simp] theorem opFault_mem (d : Dev) (c : Nat) (o : POp) (a : Nat) (f : Fld) (cls : Nat) : (opFault d c o a f cls).mem = d.mem := by
  unfold opFault
  simp

@[simp] theorem landVal_wf (d : Dev) (c : Nat) (w : ShfWho) (op : SlotOp) (a : PortAcc) (v : WVal) (hwf : canon d.mem) : canon (landVal d c w op a v).mem := by
  unfold landVal
  simp [apply_ite Dev.mem, apply_ite canon, hwf]

@[simp] theorem landAll_wf (d : Dev) (c : Nat) (xs : List Landing) (hwf : canon d.mem) : canon (landAll d c xs).mem := by
  unfold landAll
  try dsimp only
  repeat' (first | assumption | split | refine foldl_wf _ (fun _ _ _ => ?_) _ _ ?_ | refine foldl_pair_wf _ (fun _ _ _ => ?_) _ _ ?_)
  all_goals try simp [*]
  all_goals try exact takeReq_wf (by assumption) (by simp [*])
  all_goals try exact snd_wf (by assumption) (by simp [*])

@[simp] theorem landBefore_wf (d : Dev) (c t : Nat) (hwf : canon d.mem) : canon (landBefore d c t).mem := by
  unfold landBefore
  simp [hwf]

@[simp] theorem readAcc_mem (d : Dev) (c : Nat) (w : ShfWho) (ops : List POp) (s : Nat) (a : PortAcc) : (readAcc d c w ops s a).2.mem = d.mem := by
  unfold readAcc
  dsimp only
  repeat' split
  all_goals simp

@[simp] theorem readAccs_mem (c : Nat) (w : ShfWho) (ops : List POp) (s : Nat) (z0 : List PortAcc) (z1 : Dev) : (readAccs c w ops s z0 z1).2.mem = z1.mem := by
  induction z0 generalizing z1 with
  | nil => rfl
  | cons r rs ih =>
    unfold readAccs
    simp [ih]

@[simp] theorem upset_mem (d : Dev) (shelf accs : List Nat) : (upset d shelf accs).mem = d.mem := by
  unfold upset
  simp [apply_ite Dev.mem]

@[simp] theorem readAccRow_mem (d : Dev) (c r : Nat) (oper : Nat) : (readAccRow d c r oper).mem = d.mem := by
  unfold readAccRow
  simp [apply_ite Dev.mem]

@[simp] theorem gatherRows_mem (d : Dev) (c : Nat) (w : ShfWho) (cyc : Nat) (rows : List (Nat × Nat)) : (gatherRows d c w cyc rows).2.mem = d.mem := by
  unfold gatherRows
  try dsimp only
  repeat' (first | split | (refine (foldl_mem _ _ _ (fun _ _ => ?_)).trans ?_) | (refine (foldl_pair_mem _ _ _ (fun _ _ => ?_)).trans ?_))
  all_goals try simp [apply_ite Dev.mem]
  all_goals try exact takeReq_mem (by assumption)
  all_goals try exact snd_mem (by assumption) (by simp)

@[simp] theorem gfFault_mem (d : Dev) (c : Nat) (p : POp) (f : Fld) : (gfFault d c p f).mem = d.mem := by
  unfold gfFault
  simp

@[simp] theorem applyGroup_mem (d : Dev) (c : Nat) (p : POp) (g : GOp) (ss : List GSlot) (rows : List GRow) (wBad : Bool) : (applyGroup d c p g ss rows wBad).mem = d.mem := by
  unfold applyGroup
  simp [apply_ite Dev.mem]

@[simp] theorem takeGroup_mem (d : Dev) (c ch : Nat) (p : Prog) (g : GRec) (gs : List GRec) (bad : Bool) : (takeGroup d c ch p g gs bad).mem = d.mem := by
  unfold takeGroup
  simp [apply_ite Dev.mem]

@[simp] theorem countGroup_mem (d : Dev) (c ch merged empty stall dd pred : Nat) : (countGroup d c ch merged empty stall dd pred).mem = d.mem := by
  unfold countGroup
  simp [apply_ite Dev.mem]

@[simp] theorem captureSlots_mem (d : Dev) (c ch : Nat) (p : Prog) (ss : List GSlot) : (captureSlots d c ch p ss).mem = d.mem := by
  unfold captureSlots
  simp

@[simp] theorem scatterGroup_mem (d : Dev) (c : Nat) (q : POp) (go : GOp) (ss : List GSlot) (rows : List GRow) (wBad kindBad : Bool) : (scatterGroup d c q go ss rows wBad kindBad).mem = d.mem := by
  unfold scatterGroup
  simp [apply_ite Dev.mem]

@[simp] theorem runGroup_mem (d : Dev) (c : Nat) (q : POp) (go : GOp) (p : Prog) (g : GRec) (cyc : Nat) : (runGroup d c q go p g cyc).mem = d.mem := by
  unfold runGroup
  simp [apply_ite Dev.mem]

@[simp] theorem applyPend_mem (d : Dev) (c : Nat) (x : GPend) : (applyPend d c x).mem = d.mem := by
  unfold applyPend
  repeat' split
  all_goals simp

@[simp] theorem addDue_mem (d : Dev) (c t : Nat) : (addDue d c t).mem = d.mem := by
  unfold addDue
  dsimp only
  rw [modCore_mem]
  exact foldl_mem _ _ _ (fun _ _ => applyPend_mem _ _ _)

@[simp] theorem loadRows_mem (d : Dev) (c t : Nat) (p : POp) : (loadRows d c t p).mem = d.mem := by
  unfold loadRows
  dsimp only
  repeat' split
  all_goals simp

@[simp] theorem loadDue_mem (d : Dev) (c t : Nat) : (loadDue d c t).mem = d.mem := by
  unfold loadDue
  simp

@[simp] theorem catchUp_wf (d : Dev) (c t : Nat) (hwf : canon d.mem) : canon (catchUp d c t).mem := by
  unfold catchUp
  exact landBefore_wf _ _ _ (by simp [hwf])

@[simp] theorem modRun_mem (d : Dev) (c : Nat) (f : RunSt → RunSt) : (modRun d c f).mem = d.mem := by
  unfold modRun
  simp

@[simp] theorem attempt_mem (d : Dev) (c : Nat) : (attempt d c).mem = d.mem := by
  unfold attempt
  dsimp only
  repeat' split
  all_goals simp

@[simp] theorem pushOp_mem (d : Dev) (c : Nat) (r : RunSt) (op : SlotOp) (xs hs : List Nat) (seq total : Nat) : (pushOp d c r op xs hs seq total).mem = d.mem := by
  unfold pushOp
  simp

@[simp] theorem issueMat_mem (d : Dev) (c : Nat) (r : RunSt) (o : MatOp) : (issueMat d c r o).mem = d.mem := by
  unfold issueMat
  dsimp only
  repeat' split
  all_goals simp

@[simp] theorem issueVec_mem (d : Dev) (c : Nat) (r : RunSt) (o : VecOp) : (issueVec d c r o).mem = d.mem := by
  unfold issueVec
  dsimp only
  repeat' split
  all_goals simp

@[simp] theorem issueSleep_wf (d : Dev) (c : Nat) (r : RunSt) (o : MovOp) (groups : BitVec 16) (hwf : canon d.mem) : canon (issueSleep d c r o groups).mem := by
  unfold issueSleep
  simp [apply_ite Dev.mem, apply_ite canon, hwf]

@[simp] theorem issueMov_wf (d : Dev) (c : Nat) (r : RunSt) (o : MovOp) (hwf : canon d.mem) : canon (issueMov d c r o).mem := by
  unfold issueMov
  dsimp only
  repeat' split
  all_goals simp [hwf]

@[simp] theorem hsetWrite_mem (d : Dev) (c : Nat) (r : RunSt) (h v : Nat) : (hsetWrite d c r h v).mem = d.mem := by
  unfold hsetWrite
  simp [apply_ite Dev.mem]

@[simp] theorem endClause_mem (d : Dev) (c : Nat) (fill : Bool) : (endClause d c fill).mem = d.mem := by
  unfold endClause
  dsimp only
  split <;> simp

@[simp] theorem sputStart_mem (d : Dev) (c : Nat) (p : POp) (o : MovOp) : (sputStart d c p o).mem = d.mem := by
  unfold sputStart
  dsimp only
  repeat' split
  all_goals simp

@[simp] theorem putEarly_wf (d : Dev) (c : Nat) (r : RunSt) (e : Nat) (hwf : canon d.mem) : canon (putEarly d c r e).mem := by
  unfold putEarly
  try dsimp only
  repeat' (first | assumption | split | refine foldl_wf _ (fun _ _ _ => ?_) _ _ ?_ | refine foldl_pair_wf _ (fun _ _ _ => ?_) _ _ ?_)
  all_goals try simp [*]
  all_goals try exact takeReq_wf (by assumption) (by simp [*])
  all_goals try exact snd_wf (by assumption) (by simp [*])

@[simp] theorem ctlEffect_wf (d : Dev) (c : Nat) (r : RunSt) (o : CtlOp) (hwf : canon d.mem) : canon (ctlEffect d c r o).mem := by
  unfold ctlEffect
  repeat' split
  all_goals simp [apply_ite Dev.mem, apply_ite canon, hwf]

@[simp] theorem issueCtl_wf (d : Dev) (c : Nat) (r : RunSt) (b : Bundle) (hwf : canon d.mem) : canon (issueCtl d c r b).mem := by
  unfold issueCtl
  dsimp only
  repeat' split
  all_goals simp [hwf]

@[simp] theorem issueSlot_wf (d : Dev) (c : Nat) (r : RunSt) (b : Bundle) (hwf : canon d.mem) : canon (issueSlot d c r b).mem := by
  unfold issueSlot
  repeat' split
  all_goals simp [hwf]

@[simp] theorem poisonWrites_mem (d : Dev) (c t : Nat) (p : POp) : (poisonWrites d c t p).mem = d.mem := by
  unfold poisonWrites
  simp

@[simp] theorem abandon_wf (d : Dev) (c t : Nat) (poison : Bool) (hwf : canon d.mem) : canon (abandon d c t poison).mem := by
  unfold abandon
  dsimp only
  repeat' split
  all_goals simp [hwf]

@[simp] theorem discardFiller_wf (d : Dev) (c t : Nat) (hwf : canon d.mem) : canon (discardFiller d c t).mem := by
  unfold discardFiller
  simp [apply_ite Dev.mem, apply_ite canon, hwf]

@[simp] theorem issueOp_wf (key c : Nat) (d : Dev) (hwf : canon d.mem) : canon (issueOp key c d).mem := by
  unfold issueOp
  dsimp only
  repeat' split
  all_goals simp [hwf]

@[simp] theorem issueNop_wf (c : Nat) (d : Dev) (hwf : canon d.mem) : canon (issueNop c d).mem := by
  unfold issueNop
  dsimp only
  repeat' split
  all_goals simp [hwf]

@[simp] theorem illegalBundle_wf (c t : Nat) (d : Dev) (hwf : canon d.mem) : canon (illegalBundle c t d).mem := by
  unfold illegalBundle
  repeat' split
  all_goals simp [hwf]

@[simp] theorem guardCore_wf (d : Dev) (c : Nat) (hwf : canon d.mem) : canon (guardCore d c).mem := by
  unfold guardCore
  dsimp only
  repeat' split
  all_goals simp [hwf]

@[simp] theorem clauseFinish_mem (c t : Nat) (d : Dev) : (clauseFinish c t d).mem = d.mem := by
  unfold clauseFinish
  try dsimp only
  repeat' (first | split | (with_reducible refine (foldl_mem _ _ _ (fun _ _ => ?_)).trans ?_)| (with_reducible refine (foldl_pair_mem _ _ _ (fun _ _ => ?_)).trans ?_) | exact takeReq_mem (by assumption) | apply snd_mem (by assumption) | simp)

@[simp] theorem loadConsts_mem (d : Dev) (c : Nat) (r : RunSt) : (loadConsts d c r).mem = d.mem := by
  unfold loadConsts
  simp

@[simp] theorem clauseStart_mem (c : Nat) (d : Dev) : (clauseStart c d).mem = d.mem := by
  unfold clauseStart
  dsimp only
  repeat' split
  all_goals simp

@[simp] theorem planFaults_mem (d : Dev) (c : Nat) (p : POp) (accs : List PortAcc) : (planFaults d c p accs).mem = d.mem := by
  unfold planFaults
  dsimp only
  repeat' split
  all_goals simp

@[simp] theorem spillStart_mem (d : Dev) (c : Nat) (p : POp) (o : MatOp) : (spillStart d c p o).2.mem = d.mem := by
  unfold spillStart
  dsimp only
  repeat' split
  all_goals simp

@[simp] theorem clearStart_mem (d : Dev) (c : Nat) (o : MatOp) : (clearStart d c o).mem = d.mem := by
  unfold clearStart
  repeat' split
  all_goals simp [apply_ite Dev.mem]

@[simp] theorem planned_mem (d : Dev) (c : Nat) (p0 : POp) : (planned d c p0).mem = d.mem := by
  unfold planned
  dsimp only
  repeat' split
  all_goals simp

@[simp] theorem loseTo_mem (d : Dev) (c : Nat) (p : POp) (los : List Live) : (loseTo d c p los).mem = d.mem := by
  unfold loseTo
  dsimp only
  repeat' split
  all_goals simp

@[simp] theorem portStarts_mem (d : Dev) (c : Nat) (p : POp) : (portStarts d c p).2.mem = d.mem := by
  unfold portStarts
  dsimp only
  repeat' split
  all_goals simp

@[simp] theorem started_mem (d : Dev) (c : Nat) (pipe : Pipe) (p : POp) (free : Nat) : (started d c pipe p free).mem = d.mem := by
  unfold started
  simp

@[simp] theorem startOp_wf (d : Dev) (c t : Nat) (pipe : Pipe) (clash : List Nat) (p0 : POp) (hwf : canon d.mem) : canon (startOp d c t pipe clash p0).mem := by
  unfold startOp
  simp [hwf]

@[simp] theorem opStart_wf (c : Nat) (pipe : Pipe) (t : Nat) (up : Upsets) (clash : List Nat) (d : Dev) (hwf : canon d.mem) : canon (opStart c pipe t up clash d).mem := by
  unfold opStart
  dsimp only
  repeat' split
  all_goals simp [hwf]

@[simp] theorem leavePipe_wf (d : Dev) (c : Nat) (pipe : Pipe) (no t : Nat) (hwf : canon d.mem) : canon (leavePipe d c pipe no t).mem := by
  unfold leavePipe
  simp [hwf]

@[simp] theorem larderWord_wf (d : Dev) (c : Nat) (p : POp) (o : MovOp) (hwf : canon d.mem) : canon (larderWord d c p o).mem := by
  unfold larderWord
  dsimp only
  repeat' split
  all_goals simp [hwf]

@[simp] theorem retireCalc_wf (d : Dev) (c : Nat) (pipe : Pipe) (p : POp) (hwf : canon d.mem) : canon (retireCalc d c pipe p).mem := by
  unfold retireCalc
  simp [apply_ite Dev.mem, apply_ite canon, hwf]

@[simp] theorem retireOp_wf (d : Dev) (c : Nat) (pipe : Pipe) (t : Nat) (p : POp) (hwf : canon d.mem) : canon (retireOp d c pipe t p).mem := by
  unfold retireOp
  repeat' split
  all_goals simp [apply_ite Dev.mem, apply_ite canon, hwf]

@[simp] theorem opRetire_wf (c : Nat) (pipe : Pipe) (no t : Nat) (up : Upsets) (d : Dev) (hwf : canon d.mem) : canon (opRetire c pipe no t up d).mem := by
  unfold opRetire
  repeat' split
  all_goals simp [apply_ite Dev.mem, apply_ite canon, hwf]

@[simp] theorem shfSleepDone_wf (c t : Nat) (d : Dev) (hwf : canon d.mem) : canon (shfSleepDone c t d).mem := by
  unfold shfSleepDone
  split
  · exact hwf
  · split
    · split
      · dsimp only
        refine leavePipe_wf _ _ _ _ _ ?_
        rw [modCore_mem]
        refine foldl_wf _ (fun d b h => ?_) _ _ (by rw [setF_mem]; exact hwf)
        exact foldl_wf _ (fun d r h => wipeRows_wf _ _ _ h) _ _ h
      · exact hwf
    · exact hwf

@[simp] theorem shfWakeDone_wf (c : Nat) (d : Dev) (hwf : canon d.mem) : canon (shfWakeDone c d).mem := by
  unfold shfWakeDone
  split
  · exact hwf
  · split
    · split
      · dsimp only
        refine leavePipe_wf _ _ _ _ _ ?_
        rw [modCore_mem, setF_mem, setF_mem]
        refine foldl_wf _ (fun d b h => ?_) _ _ (catchUp_wf _ _ _ hwf)
        exact foldl_wf _ (fun d r h => by rw [setMeta_mem]; exact wipeRows_wf _ _ _ h) _ _ h
      · exact hwf
    · exact hwf

@[simp] theorem gfGroup_wf (c cyc : Nat) (us ua : List Nat) (d : Dev) (hwf : canon d.mem) : canon (gfGroup c cyc us ua d).mem := by
  unfold gfGroup
  dsimp only
  repeat' split
  all_goals simp [hwf]

@[simp] theorem coverageFall_mem (c : Nat) (d : Dev) : (coverageFall c d).mem = d.mem := by
  unfold coverageFall
  dsimp only
  repeat' split
  all_goals simp

@[simp] theorem raiseAlert_mem (d : Dev) (i : Nat) : (raiseAlert d i).mem = d.mem := by
  unfold raiseAlert
  simp

@[simp] theorem agree_mem (d : Dev) : (agree d).mem = d.mem := by
  unfold agree
  simp [apply_ite Dev.mem]

@[simp] theorem beaconTo_mem (d : Dev) (m : Nat) : (beaconTo d m).mem = d.mem := by
  unfold beaconTo
  simp

@[simp] theorem beacons_mem (d : Dev) : (beacons d).mem = d.mem := by
  unfold beacons
  simp [apply_ite Dev.mem]

@[simp] theorem newCeiling_mem (d : Dev) : (newCeiling d).mem = d.mem := by
  unfold newCeiling
  simp [apply_ite Dev.mem]

@[simp] theorem setRails_mem (d : Dev) (code : Nat) : (setRails d code).mem = d.mem := by
  unfold setRails
  simp [apply_ite Dev.mem]

@[simp] theorem freqOrigin_mem (d : Dev) : (freqOrigin d).mem = d.mem := by
  unfold freqOrigin
  dsimp only
  repeat' split
  all_goals simp

@[simp] theorem countTo_mem (d : Dev) (t : Nat) : (countTo d t).mem = d.mem := by
  unfold countTo
  simp

@[simp] theorem droopWarning_mem (t : Nat) (d : Dev) : (droopWarning t d).mem = d.mem := by
  unfold droopWarning
  simp [apply_ite Dev.mem]

@[simp] theorem droopClockStep_mem (t : Nat) (d : Dev) : (droopClockStep t d).mem = d.mem := by
  unfold droopClockStep
  simp [apply_ite Dev.mem]

@[simp] theorem supplyRecovery_mem (t : Nat) (d : Dev) : (supplyRecovery t d).mem = d.mem := by
  unfold supplyRecovery
  simp [apply_ite Dev.mem]

@[simp] theorem powerFail_wf (t : Nat) (d : Dev) (hwf : canon d.mem) : canon (powerFail t d).mem := by
  unfold powerFail
  split
  · exact hwf
  · simp only [raiseAlert_mem, report_mem, satF_mem, setF_mem]
    refine foldl_wf _ (fun d c h => ?_) _ _ ?_
    · split
      · exact abandon_wf _ _ _ _ h
      · exact h
    · rw [countTo_mem]; exact hwf

@[simp] theorem resumeClocks_mem (d : Dev) : (resumeClocks d).mem = d.mem := by
  unfold resumeClocks
  simp [apply_ite Dev.mem]

@[simp] theorem railSag_mem (k t : Nat) (d : Dev) : (railSag k t d).mem = d.mem := by
  unfold railSag
  simp [apply_ite Dev.mem]

@[simp] theorem sagRecovery_mem (k t : Nat) (d : Dev) : (sagRecovery k t d).mem = d.mem := by
  unfold sagRecovery
  simp [apply_ite Dev.mem]

@[simp] theorem fastTrip_mem (k t : Nat) (d : Dev) : (fastTrip k t d).mem = d.mem := by
  unfold fastTrip
  simp [apply_ite Dev.mem]

@[simp] theorem fastTripRelease_mem (k t : Nat) (d : Dev) : (fastTripRelease k t d).mem = d.mem := by
  unfold fastTripRelease
  simp [apply_ite Dev.mem]

@[simp] theorem noteGrant_mem (d : Dev) (c lv : Nat) : (noteGrant d c lv).mem = d.mem := by
  unfold noteGrant
  simp [apply_ite Dev.mem]

@[simp] theorem coverageChange_mem (c : Nat) (d : Dev) : (coverageChange c d).mem = d.mem := by
  unfold coverageChange
  repeat' split
  all_goals simp

@[simp] theorem capChanged_mem (d : Dev) : (capChanged d).mem = d.mem := by
  unfold capChanged
  simp

@[simp] theorem capWrite_mem (a : Nat) (f : Fld) (v : Nat) (d : Dev) : (capWrite a f v d).mem = d.mem := by
  unfold capWrite
  simp [apply_ite Dev.mem]

@[simp] theorem capControlTick_mem (p : Nat) (d : Dev) : (capControlTick p d).mem = d.mem := by
  unfold capControlTick
  simp [apply_ite Dev.mem]

@[simp] theorem freqMaxWrite_mem (v : Nat) (d : Dev) : (freqMaxWrite v d).mem = d.mem := by
  unfold freqMaxWrite
  simp [apply_ite Dev.mem]

@[simp] theorem pweEstimate_mem (k : Nat) (acts : List Nat) (d : Dev) : (pweEstimate k acts d).mem = d.mem := by
  unfold pweEstimate
  simp [apply_ite Dev.mem]

end Sys2Proof.Machine
end

