-- ==== Sys2Proof/Laws/Keep3.lean ====
section
/-!
SUPPORT. Laws/Keep3.lean: for each operation from calibrate to testReferee, `<name>_mem` (it leaves memory as it is) or `<name>_wf` (it keeps
memory canonical).
-/
namespace Sys2Proof.Machine

@[simp] theorem calibrate_mem (d : Dev) (t : Nat) : (calibrate d t).mem = d.mem := by
  unfold calibrate
  simp [apply_ite Dev.mem]

@[simp] theorem vcmPowerSample_mem (ps cls : List Nat) (vin : Nat) (d : Dev) : (vcmPowerSample ps cls vin d).mem = d.mem := by
  unfold vcmPowerSample
  simp [apply_ite Dev.mem]

@[simp] theorem setHdr_mem (d : Dev) (c v : Nat) : (setHdr d c v).mem = d.mem := by
  unfold setHdr
  simp

@[simp] theorem openHdr_mem (d : Dev) (c : Nat) : (openHdr d c).mem = d.mem := by
  unfold openHdr
  simp

@[simp] theorem stageNext_mem (d : Dev) (t : Nat) : (stageNext d t).mem = d.mem := by
  unfold stageNext
  dsimp only
  repeat' split
  all_goals simp

@[simp] theorem closeHdr_mem (d : Dev) (c : Nat) : (closeHdr d c).mem = d.mem := by
  unfold closeHdr
  simp [apply_ite Dev.mem]

@[simp] theorem headerStage_mem (c : Nat) (settled : Bool) (d : Dev) : (headerStage c settled d).mem = d.mem := by
  unfold headerStage
  simp [apply_ite Dev.mem]

@[simp] theorem mapAt_mem (d : Dev) (t v : Nat) : (mapAt d t v).mem = d.mem := by
  unfold mapAt
  simp

@[simp] theorem darkCores_wf (d : Dev) (t : Nat) (hwf : canon d.mem) : canon (darkCores d t).mem := by
  unfold darkCores
  refine foldl_wf _ (fun d i h => ?_) _ _ hwf
  dsimp only
  rw [openHdr_mem]
  split
  · exact abandon_wf _ _ _ _ h
  · exact h

@[simp] theorem markLost_mem (d : Dev) (t : Nat) : (markLost d t).mem = d.mem := by
  unfold markLost
  simp

@[simp] theorem dropCores_mem (d : Dev) (t : Nat) : (dropCores d t).mem = d.mem := by
  unfold dropCores
  simp [apply_ite Dev.mem]

@[simp] theorem dropTakeover_mem (d : Dev) (t : Nat) : (dropTakeover d t).mem = d.mem := by
  unfold dropTakeover
  simp

@[simp] theorem forgetTile_mem (d : Dev) (t : Nat) : (forgetTile d t).mem = d.mem := by
  unfold forgetTile
  simp

@[simp] theorem dropObjs_mem (d : Dev) (t : Nat) : (dropObjs d t).mem = d.mem := by
  unfold dropObjs
  simp

@[simp] theorem loseCompute_wf (d : Dev) (t : Nat) (hwf : canon d.mem) : canon (loseCompute d t).mem := by
  unfold loseCompute
  simp [apply_ite Dev.mem, apply_ite canon, hwf]

@[simp] theorem loseStack_mem (d : Dev) (n : Nat) : (loseStack d n).mem = d.mem := by
  unfold loseStack
  simp [apply_ite Dev.mem]

@[simp] theorem loseBase_wf (d : Dev) (t : Nat) (hwf : canon d.mem) : canon (loseBase d t).mem := by
  unfold loseBase
  simp [apply_ite Dev.mem, apply_ite canon, hwf]

@[simp] theorem losePort_mem (d : Dev) (p : Nat) : (losePort d p).mem = d.mem := by
  unfold losePort
  simp

@[simp] theorem loseEdge_mem (d : Dev) (k : Nat) : (loseEdge d k).mem = d.mem := by
  unfold loseEdge
  simp [apply_ite Dev.mem]

@[simp] theorem vcmFault_wf (n : Nat) (d : Dev) (hwf : canon d.mem) : canon (vcmFault n d).mem := by
  unfold vcmFault
  simp [apply_ite Dev.mem, apply_ite canon, hwf]

@[simp] theorem ivrCellFail_wf (t i : Nat) (d : Dev) (hwf : canon d.mem) : canon (ivrCellFail t i d).mem := by
  unfold ivrCellFail
  simp [apply_ite Dev.mem, apply_ite canon, hwf]

@[simp] theorem failSensor_mem (d : Dev) (t i : Nat) : (failSensor d t i).mem = d.mem := by
  unfold failSensor
  simp [apply_ite Dev.mem]

@[simp] theorem judgeSensor_mem (rs : List Int) (t : Nat) (d : Dev) (i : Nat) : (judgeSensor rs t d i).mem = d.mem := by
  unfold judgeSensor
  simp [apply_ite Dev.mem]

@[simp] theorem hardTrip_wf (d : Dev) (t : Nat) (base : Bool) (hwf : canon d.mem) : canon (hardTrip d t base).mem := by
  unfold hardTrip
  simp [apply_ite Dev.mem, apply_ite canon, hwf]

@[simp] theorem sampleTile_wf (d : Dev) (x : Nat × List Int) (hwf : canon d.mem) : canon (sampleTile d x).mem := by
  unfold sampleTile
  simp [apply_ite Dev.mem, apply_ite canon, hwf]

@[simp] theorem showMax_mem (d : Dev) : (showMax d).mem = d.mem := by
  unfold showMax
  simp

@[simp] theorem thermalEvaluation_mem (d : Dev) : (thermalEvaluation d).mem = d.mem := by
  unfold thermalEvaluation
  simp [apply_ite Dev.mem]

@[simp] theorem thermalCeilingRaise_mem (t : Nat) (d : Dev) : (thermalCeilingRaise t d).mem = d.mem := by
  unfold thermalCeilingRaise
  simp [apply_ite Dev.mem]

@[simp] theorem shedDue_wf (d : Dev) (hwf : canon d.mem) : canon (shedDue d).mem := by
  unfold shedDue
  refine foldl_wf _ (fun d t h => ?_) _ _ hwf
  split
  · exact h
  · dsimp only
    rw [newCeiling_mem]
    split
    · simp [h]
    · simp [h]

@[simp] theorem returnTile_mem (d : Dev) (t : Nat) : (returnTile d t).mem = d.mem := by
  unfold returnTile
  try dsimp only
  repeat' (first | split | (with_reducible refine (foldl_mem _ _ _ (fun _ _ => ?_)).trans ?_)| (with_reducible refine (foldl_pair_mem _ _ _ (fun _ _ => ?_)).trans ?_) | exact takeReq_mem (by assumption) | apply snd_mem (by assumption) | simp)

@[simp] theorem shedReturn_mem (t : Nat) (d : Dev) : (shedReturn t d).mem = d.mem := by
  unfold shedReturn
  simp [apply_ite Dev.mem]

@[simp] theorem stackTempRead_mem (n temp : Nat) (d : Dev) : (stackTempRead n temp d).mem = d.mem := by
  unfold stackTempRead
  simp [apply_ite Dev.mem]

@[simp] theorem setRing_mem (d : Dev) (a : Nat) (e : Nat × Nat) : (setRing d a e).mem = d.mem := by
  unfold setRing
  simp

@[simp] theorem loadGeometry_mem (d : Dev) (v : Nat) : (loadGeometry d v).mem = d.mem := by
  unfold loadGeometry
  simp

@[simp] theorem sendJoin_mem (job epoch : Nat) (d : Dev) (m : Nat) : (sendJoin job epoch d m).mem = d.mem := by
  unfold sendJoin
  simp

@[simp] theorem setMem_mem (d : Dev) (m : Member) : (setMem d m).mem = d.mem := by
  unfold setMem
  simp

@[simp] theorem closeJobWins_mem (d : Dev) (epoch : Nat) : (closeJobWins d epoch).mem = d.mem := by
  unfold closeJobWins
  simp [apply_ite Dev.mem]

@[simp] theorem noGeometry_mem (d : Dev) : (noGeometry d).mem = d.mem := by
  unfold noGeometry
  simp

@[simp] theorem failJoin_mem (d : Dev) (status : Nat) : (failJoin d status).mem = d.mem := by
  unfold failJoin
  dsimp only
  repeat' split
  all_goals simp

@[simp] theorem fillXfer_mem (s : Bool × Dev) (k : Nat) : (fillXfer s k).2.mem = s.2.mem := by
  unfold fillXfer
  try dsimp only
  repeat' (first | split | (refine (foldl_mem _ _ _ (fun _ _ => ?_)).trans ?_) | (refine (foldl_pair_mem _ _ _ (fun _ _ => ?_)).trans ?_))
  all_goals try simp [apply_ite Dev.mem]
  all_goals try exact takeReq_mem (by assumption)
  all_goals try exact snd_mem (by assumption) (by simp)

@[simp] theorem fillMcast_mem (s : Bool × Dev) (k : Nat) : (fillMcast s k).2.mem = s.2.mem := by
  unfold fillMcast
  refine foldl_pair_mem _ _ s (fun s n => ?_)
  dsimp only
  repeat' split
  all_goals simp

@[simp] theorem fillDir_mem (s : Bool × Dev) : (fillDir s).2.mem = s.2.mem := by
  unfold fillDir
  try dsimp only
  repeat' (first | split | (refine (foldl_mem _ _ _ (fun _ _ => ?_)).trans ?_) | (refine (foldl_pair_mem _ _ _ (fun _ _ => ?_)).trans ?_))
  all_goals try simp [apply_ite Dev.mem]
  all_goals try exact takeReq_mem (by assumption)
  all_goals try exact snd_mem (by assumption) (by simp)

@[simp] theorem fillWgens_mem (d : Dev) : (fillWgens d).2.mem = d.mem := by
  unfold fillWgens
  try dsimp only
  repeat' (first | split | (with_reducible refine (foldl_mem _ _ _ (fun _ _ => ?_)).trans ?_)| (with_reducible refine (foldl_pair_mem _ _ _ (fun _ _ => ?_)).trans ?_) | exact takeReq_mem (by assumption) | apply snd_mem (by assumption) | simp)

@[simp] theorem installKeys_mem (d : Dev) (job epoch : Nat) : (installKeys d job epoch).mem = d.mem := by
  unfold installKeys
  simp [apply_ite Dev.mem]

@[simp] theorem judgeQuorum_mem (d : Dev) : (judgeQuorum d).mem = d.mem := by
  unfold judgeQuorum
  simp [apply_ite Dev.mem]

@[simp] theorem startHold_mem (d : Dev) : (startHold d).mem = d.mem := by
  unfold startHold
  simp [apply_ite Dev.mem]

@[simp] theorem stopHold_mem (d : Dev) : (stopHold d).mem = d.mem := by
  unfold stopHold
  simp

@[simp] theorem tryJoin_mem (d : Dev) : (tryJoin d).mem = d.mem := by
  unfold tryJoin
  dsimp only
  repeat' split
  all_goals simp

@[simp] theorem startJoin_mem (d : Dev) (tag v : Nat) : (startJoin d tag v).mem = d.mem := by
  unfold startJoin
  simp

@[simp] theorem joinPacket_mem (p n : Nat) (d : Dev) : (joinPacket p n d).mem = d.mem := by
  unfold joinPacket
  try dsimp only
  repeat' split
  all_goals try simp
  all_goals try exact takeReq_mem (by assumption)
  all_goals try exact snd_mem (by assumption) (by (try simp) <;> first | exact takeReq_mem (by assumption) | exact snd_mem (by assumption) (by simp) | exact snd_mem (by assumption) (by (try simp) <;> exact snd_mem (by assumption) (by simp)))

@[simp] theorem joinTimeout_mem (d : Dev) : (joinTimeout d).mem = d.mem := by
  unfold joinTimeout
  simp

@[simp] theorem beaconIn_mem (p n : Nat) (d : Dev) : (beaconIn p n d).mem = d.mem := by
  unfold beaconIn
  try dsimp only
  repeat' (first | split | (refine (foldl_mem _ _ _ (fun _ _ => ?_)).trans ?_) | (refine (foldl_pair_mem _ _ _ (fun _ _ => ?_)).trans ?_))
  all_goals try simp [apply_ite Dev.mem]
  all_goals try exact takeReq_mem (by assumption)
  all_goals try exact snd_mem (by assumption) (by simp)

@[simp] theorem reachTimeout_mem (m : Nat) (d : Dev) : (reachTimeout m d).mem = d.mem := by
  unfold reachTimeout
  simp [apply_ite Dev.mem]

@[simp] theorem dropStep_mem (d : Dev) : (dropStep d).mem = d.mem := by
  unfold dropStep
  dsimp only
  repeat' split
  all_goals simp

@[simp] theorem unpause_mem (d : Dev) : (unpause d).mem = d.mem := by
  unfold unpause
  simp [apply_ite Dev.mem]

@[simp] theorem leaveJob_mem (d : Dev) : (leaveJob d).mem = d.mem := by
  unfold leaveJob
  simp [apply_ite Dev.mem]

@[simp] theorem endJob_mem (d : Dev) (status : Nat) : (endJob d status).mem = d.mem := by
  unfold endJob
  simp

@[simp] theorem holdTimerExpire_mem (d : Dev) : (holdTimerExpire d).mem = d.mem := by
  unfold holdTimerExpire
  simp [apply_ite Dev.mem]

@[simp] theorem showRefusal_mem (d : Dev) (k : Nat) (r : Nat × Nat) : (showRefusal d k r).mem = d.mem := by
  unfold showRefusal
  simp [apply_ite Dev.mem]

@[simp] theorem putDescs_mem (d : Dev) (s : Sec) (ofs : Nat) (a : Nat → Nat) (qlen : Nat) : (putDescs d s ofs a qlen).mem = d.mem := by
  unfold putDescs
  simp

@[simp] theorem loadCoreSec_wf (d : Dev) (fill : Bool) (c : Nat) (s : Sec) (hwf : canon d.mem) : canon (loadCoreSec d fill c s).mem := by
  unfold loadCoreSec
  dsimp only
  split
  · exact hwf
  · refine foldl_wf _ (fun d i h => ?_) _ _ ?_
    · rw [setHt_mem]; exact h
    · rw [setF_mem]
      refine foldl_wf _ (fun d r h => ?_) _ _ hwf
      split
      · exact wipeRows_wf _ _ _ h
      · exact h
  · exact foldl_wf _ (fun d i h => by rw [setWords_mem]; exact h) _ _ hwf
  · split <;> exact hwf
  · exact hwf

@[simp] theorem takeChunks_wf (d : Dev) (ctx n : Nat) (s : Sec) (hwf : canon d.mem) : canon (takeChunks d ctx n s).mem := by
  unfold takeChunks
  refine foldl_wf _ (fun d c h => ?_) _ _ hwf
  split
  · exact retagChunk_wf _ _ _ _ h
  · exact h

@[simp] theorem loadSec_wf (ctx : Nat) (fill : Bool) (ep : Nat) (d : Dev) (s : Sec) (hwf : canon d.mem) : canon (loadSec ctx fill ep d s).mem := by
  have hp : ∀ d s o f a, (putDescs d s o f a).mem = d.mem := fun d s o f a => by simp
  unfold loadSec
  dsimp only
  split
  · exact foldl_wf _ (fun d i h => by rw [setWords_mem]; exact h) _ _ hwf
  · exact hwf
  · exact foldl_wf _ (fun d i h => foldl_wf _ (fun d i h => by rw [setR_mem]; exact h) _ _ h) _ _ hwf
  · exact hwf
  · exact takeChunks_wf _ _ _ _ hwf
  · exact hwf
  · exact foldl_wf _ (fun d i h => foldl_wf _ (fun d i h => by rw [setWords_mem]; exact h) _ _ h) _ _ hwf
  · rw [hp]; exact hwf
  · exact foldl_wf _ (fun d i h => by rw [setWords_mem]; exact h) _ _ (by rw [hp]; exact hwf)
  · rw [hp]; exact hwf
  · exact foldl_wf _ (fun d i h => by rw [setWords_mem]; exact h) _ _ hwf
  · refine foldl_wf _ (fun d i h => ?_) _ _ hwf
    split
    · exact h
    · rw [setObj_mem]; exact h
  · split
    · exact loadCoreSec_wf _ _ _ _ hwf
    · exact hwf

@[simp] theorem setPos_mem (d : Dev) (c : Nat) (fill : Bool) (p : Nat × Nat) : (setPos d c fill p).mem = d.mem := by
  unfold setPos
  simp [apply_ite Dev.mem]

@[simp] theorem freeChan_mem (c : Nat) (d : Dev) (n : Nat) : (freeChan c d n).mem = d.mem := by
  unfold freeChan
  simp

@[simp] theorem freeChans_mem (d : Dev) (c : Nat) (fill : Bool) : (freeChans d c fill).mem = d.mem := by
  unfold freeChans
  simp

@[simp] theorem assignChans_mem (d : Dev) (c ctx : Nat) (fill : Bool) : (assignChans d c ctx fill).mem = d.mem := by
  unfold assignChans
  simp

@[simp] theorem giveCore_mem (ctx : Nat) (fill : Bool) (d : Dev) (q : Nat) : (giveCore ctx fill d q).mem = d.mem := by
  unfold giveCore
  repeat' split
  all_goals simp

@[simp] theorem orphan_mem (d : Dev) : (orphan d).mem = d.mem := by
  unfold orphan
  simp

@[simp] theorem restartQueues_mem (d : Dev) : (restartQueues d).mem = d.mem := by
  unfold restartQueues
  simp [apply_ite Dev.mem]

@[simp] theorem loadHeader_mem (d : Dev) (p : Pkg) : (loadHeader d p).mem = d.mem := by
  unfold loadHeader
  simp

@[simp] theorem resumeFrom_mem (d : Dev) (p : Pkg) : (resumeFrom d p).mem = d.mem := by
  unfold resumeFrom
  simp

@[simp] theorem clearObjs_mem (ctx : Nat) (d : Dev) : (clearObjs ctx d).mem = d.mem := by
  unfold clearObjs
  simp [apply_ite Dev.mem]

@[simp] theorem unassign_mem (d : Dev) (q : Nat) : (unassign d q).mem = d.mem := by
  unfold unassign
  repeat' split
  all_goals simp

@[simp] theorem unplace_mem (ctx : Nat) (d : Dev) : (unplace ctx d).mem = d.mem := by
  unfold unplace
  simp

@[simp] theorem freeUnplaced_mem (d : Dev) : (freeUnplaced d).mem = d.mem := by
  unfold freeUnplaced
  simp [apply_ite Dev.mem]

@[simp] theorem givePkg_mem (d : Dev) (ctx : Nat) (p : Pkg) : (givePkg d ctx p).mem = d.mem := by
  unfold givePkg
  simp

@[simp] theorem placeFg_mem (d : Dev) (p : Pkg) (first : Bool) : (placeFg d p first).mem = d.mem := by
  unfold placeFg
  simp [apply_ite Dev.mem]

@[simp] theorem applyPkg_wf (d : Dev) (ctx : Nat) (p : Pkg) (hwf : canon d.mem) : canon (applyPkg d ctx p).mem := by
  have h0 : canon (if (!(pkKind p == 2) && d.primary.isSome) = true then unplace ctx d else d).mem := by
    split
    · rw [unplace_mem]; exact hwf
    · exact hwf
  unfold applyPkg
  dsimp only
  have h1 := foldl_wf (loadSec ctx (pkKind p == 2) (resumeEpoch p)) (fun d s h => loadSec_wf _ _ _ _ _ h)
    (p.secs.filter (fun s => !(!(pkKind p == 2) && d.primary.isSome) || !(s.typ == 9 || s.typ == 0xA || s.typ == 0xB))) _ h0
  have h2 := foldl_wf (giveCore ctx (pkKind p == 2)) (fun d s h => by rw [giveCore_mem]; exact h) (pkgSlots p) _ h1
  have h3 : ∀ x : Dev, canon x.mem → canon (if (!(pkKind p == 2) && d.primary.isSome) = true then freeUnplaced x else x).mem := by
    intro x hx
    split
    · rw [freeUnplaced_mem]; exact hx
    · exact hx
  split
  · rw [givePkg_mem]; exact h3 _ h2
  · rw [placeFg_mem, givePkg_mem]; exact h3 _ h2

@[simp] theorem cqAdmit_mem (d : Dev) : (cqAdmit d).mem = d.mem := by
  unfold cqAdmit
  repeat' split
  all_goals simp

@[simp] theorem cqWrite_mem (d : Dev) : (cqWrite d).mem = d.mem := by
  unfold cqWrite
  dsimp only
  repeat' split
  all_goals simp

@[simp] theorem msixSend_mem (d : Dev) (v : Nat) : (msixSend d v).mem = d.mem := by
  unfold msixSend
  simp [apply_ite Dev.mem]

@[simp] theorem msixFlush_mem (d : Dev) : (msixFlush d).mem = d.mem := by
  unfold msixFlush
  simp

@[simp] theorem cqRecordWrite_mem (msgs : Bool) (d : Dev) : (cqRecordWrite msgs d).mem = d.mem := by
  unfold cqRecordWrite
  simp [apply_ite Dev.mem]

@[simp] theorem cqHeadWrite_mem (v : Nat) (d : Dev) : (cqHeadWrite v d).mem = d.mem := by
  unfold cqHeadWrite
  simp

@[simp] theorem cqCtlWrite_mem (v : Nat) (d : Dev) : (cqCtlWrite v d).mem = d.mem := by
  unfold cqCtlWrite
  simp [apply_ite Dev.mem]

@[simp] theorem cqEnable_mem (d : Dev) : (cqEnable d).mem = d.mem := by
  unfold cqEnable
  simp

@[simp] theorem finish_mem (d : Dev) (tag status detail : Nat) : (finish d tag status detail).mem = d.mem := by
  unfold finish
  simp

@[simp] theorem samplePantry_mem (z0 : Nat) (z1 : Dev) : (samplePantry z0 z1).mem = z1.mem := by
  induction z0 generalizing z1 with
  | zero => rfl
  | succ m ih =>
    unfold samplePantry
    try dsimp only
    repeat' split
    all_goals simp [ih]

@[simp] theorem pantryPoll_mem (d : Dev) : (pantryPoll d).mem = d.mem := by
  unfold pantryPoll
  simp [apply_ite Dev.mem]

@[simp] theorem mgmtRow_mem (d : Dev) (a : Nat) : (mgmtRow d a).2.mem = d.mem := by
  unfold mgmtRow
  simp

@[simp] theorem mgmtRows_mem (a : Nat) (z0 : Nat) (z1 : Dev) : (mgmtRows a z0 z1).2.mem = z1.mem := by
  induction z0 generalizing a z1 with
  | zero => rfl
  | succ m ih =>
    unfold mgmtRows
    simp [ih]

@[simp] theorem payload_mem (d : Dev) (r : PReq) (host : Option Nat) : (payload d r host).2.mem = d.mem := by
  unfold payload
  dsimp only
  repeat' split
  all_goals simp

@[simp] theorem setCtx_mem (d : Dev) (n v : Nat) : (setCtx d n v).mem = d.mem := by
  unfold setCtx
  simp

@[simp] theorem setCtxField_mem (d : Dev) (n lo w v : Nat) : (setCtxField d n lo w v).mem = d.mem := by
  unfold setCtxField
  simp

@[simp] theorem setKeys_mem (d : Dev) (n : Nat) (k : CtxKeys) : (setKeys d n k).mem = d.mem := by
  unfold setKeys
  simp

@[simp] theorem drawEph_mem (d : Dev) (n : Nat) : (drawEph d n).mem = d.mem := by
  unfold drawEph
  simp

@[simp] theorem define_mem (d : Dev) : (define d).mem = d.mem := by
  unfold define
  try dsimp only
  repeat' (first | split | (refine (foldl_mem _ _ _ (fun _ _ => ?_)).trans ?_) | (refine (foldl_pair_mem _ _ _ (fun _ _ => ?_)).trans ?_))
  all_goals try simp [apply_ite Dev.mem]
  all_goals try exact takeReq_mem (by assumption)
  all_goals try exact snd_mem (by assumption) (by simp)

@[simp] theorem logPkg_mem (d : Dev) (n : Nat) (p : Pkg) : (logPkg d n p).mem = d.mem := by
  unfold logPkg
  simp

@[simp] theorem dropTest_mem (d : Dev) : (dropTest d).mem = d.mem := by
  unfold dropTest
  simp [apply_ite Dev.mem]

@[simp] theorem load_mem (host : Option Nat) (d : Dev) : (load host d).mem = d.mem := by
  unfold load
  split
  · rfl
  · next h =>
    have h1 := takeReq_mem h
    split
    · next h2 => rw [finish_mem]; exact (snd_mem h2 (payload_mem _ _ _)).trans h1
    · next h2 =>
      have h3 := (snd_mem h2 (payload_mem _ _ _)).trans h1
      dsimp only
      split
      · rw [finish_mem, showRefusal_mem]; exact h3
      · split
        · rw [finish_mem]; exact h3
        · split
          · rw [finish_mem, showRefusal_mem]; exact h3
          · rw [logPkg_mem]
            split
            · rw [dropTest_mem]; exact h3
            · rw [setF_mem]; exact h3

@[simp] theorem evictChan_mem (ctx c : Nat) (d : Dev) (n : Nat) : (evictChan ctx c d n).mem = d.mem := by
  unfold evictChan
  simp [apply_ite Dev.mem]

@[simp] theorem startEvict_mem (d : Dev) (op flags tag n : Nat) : (startEvict d op flags tag n).mem = d.mem := by
  unfold startEvict
  simp

@[simp] theorem evictReq_mem (rel : Bool) (d : Dev) : (evictReq rel d).mem = d.mem := by
  unfold evictReq
  try dsimp only
  repeat' split
  all_goals try simp
  all_goals try exact takeReq_mem (by assumption)
  all_goals try exact snd_mem (by assumption) (by (try simp) <;> first | exact takeReq_mem (by assumption) | exact snd_mem (by assumption) (by simp) | exact snd_mem (by assumption) (by (try simp) <;> exact snd_mem (by assumption) (by simp)))

@[simp] theorem releaseChunks_wf (d : Dev) (n : Nat) (hwf : canon d.mem) : canon (releaseChunks d n).mem := by
  unfold releaseChunks
  try dsimp only
  repeat' (first | assumption | split | refine foldl_wf _ (fun _ _ _ => ?_) _ _ ?_ | refine foldl_pair_wf _ (fun _ _ _ => ?_) _ _ ?_)
  all_goals try simp [*]
  all_goals try exact takeReq_wf (by assumption) (by simp [*])
  all_goals try exact snd_wf (by assumption) (by simp [*])

@[simp] theorem zeroCtx_mem (d : Dev) (n : Nat) : (zeroCtx d n).mem = d.mem := by
  unfold zeroCtx
  simp [apply_ite Dev.mem]

@[simp] theorem noPkg_mem (d : Dev) (n : Nat) : (noPkg d n).mem = d.mem := by
  unfold noPkg
  simp

@[simp] theorem deleteReq_wf (d : Dev) (hwf : canon d.mem) : canon (deleteReq d).mem := by
  unfold deleteReq
  split
  · exact hwf
  · next h =>
    have h1 := takeReq_wf h hwf
    dsimp only
    repeat' split
    all_goals simp [h1, releaseChunks_wf _ _ h1]

@[simp] theorem wipeHalf_wf (fill : Bool) (d : Dev) (c : Nat) (hwf : canon d.mem) : canon (wipeHalf fill d c).mem := by
  unfold wipeHalf
  simp [hwf]

@[simp] theorem dropPorts_mem (d : Dev) (p : Pkg) : (dropPorts d p).mem = d.mem := by
  unfold dropPorts
  try dsimp only
  repeat' (first | split | (refine (foldl_mem _ _ _ (fun _ _ => ?_)).trans ?_) | (refine (foldl_pair_mem _ _ _ (fun _ _ => ?_)).trans ?_))
  all_goals try simp [apply_ite Dev.mem]
  all_goals try exact takeReq_mem (by assumption)
  all_goals try exact snd_mem (by assumption) (by simp)

@[simp] theorem showProt_mem (d : Dev) : (showProt d).mem = d.mem := by
  unfold showProt
  simp

@[simp] theorem clearCtx_wf (d : Dev) (n : Nat) (hwf : canon d.mem) : canon (clearCtx d n).mem := by
  have h1 : canon (clearObjs n ((ctxCores d n).foldl (wipeHalf (ctxFiller d n)) d)).mem := by
    rw [clearObjs_mem]
    exact foldl_wf _ (fun d c h => wipeHalf_wf _ _ _ h) _ _ hwf
  unfold clearCtx
  dsimp only
  split
  · rw [dropPorts_mem]; exact h1
  · exact h1

@[simp] theorem noForeground_mem (d : Dev) : (noForeground d).mem = d.mem := by
  unfold noForeground
  simp

@[simp] theorem endService_mem (d : Dev) : (endService d).mem = d.mem := by
  unfold endService
  simp [apply_ite Dev.mem]

@[simp] theorem noFiller_mem (d : Dev) (n : Nat) : (noFiller d n).mem = d.mem := by
  unfold noFiller
  simp

@[simp] theorem applyEvict_wf (d : Dev) (w : Work) (hwf : canon d.mem) : canon (applyEvict d w).mem := by
  unfold applyEvict
  simp [apply_ite Dev.mem, apply_ite canon, hwf]

@[simp] theorem applyLoad_wf (d : Dev) (w : Work) (p : Pkg) (hwf : canon d.mem) : canon (applyLoad d w p).mem := by
  unfold applyLoad
  dsimp only
  repeat' split
  all_goals simp [hwf]

@[simp] theorem contextWritesDone_mem (n : Nat) (d : Dev) : (contextWritesDone n d).mem = d.mem := by
  unfold contextWritesDone
  dsimp only
  repeat' split
  all_goals simp

@[simp] theorem applyWorks_wf (d : Dev) (hwf : canon d.mem) : canon (applyWorks d).mem := by
  unfold applyWorks
  refine foldl_wf _ (fun d w h => ?_) _ _ hwf
  split
  · exact applyLoad_wf _ _ _ h
  · exact h
  · exact applyEvict_wf _ _ h

@[simp] theorem startDegraded_mem (d : Dev) : (startDegraded d).mem = d.mem := by
  unfold startDegraded
  dsimp only
  repeat' split
  all_goals simp

@[simp] theorem degradedLoadDone_wf (d : Dev) (hwf : canon d.mem) : canon (degradedLoadDone d).mem := by
  unfold degradedLoadDone
  dsimp only
  repeat' split
  all_goals simp [hwf]

@[simp] theorem stage_mem (host : Option Nat) (d : Dev) : (stage host d).mem = d.mem := by
  unfold stage
  try dsimp only
  repeat' split
  all_goals try simp
  all_goals try exact takeReq_mem (by assumption)
  all_goals try exact snd_mem (by assumption) (by (try simp) <;> first | exact takeReq_mem (by assumption) | exact snd_mem (by assumption) (by simp) | exact snd_mem (by assumption) (by (try simp) <;> exact snd_mem (by assumption) (by simp)))

@[simp] theorem rules_wf (host : Option Nat) (d : Dev) (hwf : canon d.mem) : canon (rules host d).mem := by
  unfold rules
  split
  · exact hwf
  · next h =>
    have h1 := takeReq_wf h hwf
    split
    · next h2 => simp [snd_wf h2 (by simp [h1])]
    · next h2 =>
      have h3 := snd_wf h2 (by simp [h1])
      dsimp only
      repeat' split
      all_goals rw [finish_mem]
      · exact h3
      · exact h3
      · exact loadSec_wf _ _ _ _ _ h3

@[simp] theorem join_mem (host : Option Nat) (d : Dev) : (join host d).mem = d.mem := by
  unfold join
  try dsimp only
  repeat' split
  all_goals try simp
  all_goals try exact takeReq_mem (by assumption)
  all_goals try exact snd_mem (by assumption) (by (try simp) <;> first | exact takeReq_mem (by assumption) | exact snd_mem (by assumption) (by simp) | exact snd_mem (by assumption) (by (try simp) <;> exact snd_mem (by assumption) (by simp)))

@[simp] theorem leave_mem (d : Dev) : (leave d).mem = d.mem := by
  unfold leave
  try dsimp only
  repeat' (first | split | (with_reducible refine (foldl_mem _ _ _ (fun _ _ => ?_)).trans ?_)| (with_reducible refine (foldl_pair_mem _ _ _ (fun _ _ => ?_)).trans ?_) | exact takeReq_mem (by assumption) | apply snd_mem (by assumption) | simp)

@[simp] theorem stepReq_mem (d : Dev) : (stepReq d).mem = d.mem := by
  unfold stepReq
  try dsimp only
  repeat' (first | split | (refine (foldl_mem _ _ _ (fun _ _ => ?_)).trans ?_) | (refine (foldl_pair_mem _ _ _ (fun _ _ => ?_)).trans ?_))
  all_goals try simp [apply_ite Dev.mem]
  all_goals try exact takeReq_mem (by assumption)
  all_goals try exact snd_mem (by assumption) (by simp)

@[simp] theorem writeInputs_wf (d : Dev) (s : StepReq) (hwf : canon d.mem) : canon (writeInputs d s).mem := by
  unfold writeInputs
  try dsimp only
  repeat' (first | assumption | split | refine foldl_wf _ (fun _ _ _ => ?_) _ _ ?_ | refine foldl_pair_wf _ (fun _ _ _ => ?_) _ _ ?_)
  all_goals try simp [*]
  all_goals try exact takeReq_wf (by assumption) (by simp [*])
  all_goals try exact snd_wf (by assumption) (by simp [*])

@[simp] theorem windowOpen_mem (d : Dev) : (windowOpen d).mem = d.mem := by
  unfold windowOpen
  try dsimp only
  repeat' (first | split | (refine (foldl_mem _ _ _ (fun _ _ => ?_)).trans ?_) | (refine (foldl_pair_mem _ _ _ (fun _ _ => ?_)).trans ?_))
  all_goals try simp [apply_ite Dev.mem]
  all_goals try exact takeReq_mem (by assumption)
  all_goals try exact snd_mem (by assumption) (by simp)

@[simp] theorem windowClose_mem (d : Dev) : (windowClose d).mem = d.mem := by
  unfold windowClose
  try dsimp only
  repeat' split
  all_goals try simp
  all_goals try exact takeReq_mem (by assumption)
  all_goals try exact snd_mem (by assumption) (by (try simp) <;> first | exact takeReq_mem (by assumption) | exact snd_mem (by assumption) (by simp) | exact snd_mem (by assumption) (by (try simp) <;> exact snd_mem (by assumption) (by simp)))

@[simp] theorem tileReturn_mem (d : Dev) : (tileReturn d).mem = d.mem := by
  unfold tileReturn
  try dsimp only
  repeat' split
  all_goals try simp
  all_goals try exact takeReq_mem (by assumption)
  all_goals try exact snd_mem (by assumption) (by (try simp) <;> first | exact takeReq_mem (by assumption) | exact snd_mem (by assumption) (by simp) | exact snd_mem (by assumption) (by (try simp) <;> exact snd_mem (by assumption) (by simp)))

@[simp] theorem reserveBytes_mem (d : Dev) (a n : Nat) : (reserveBytes d a n).2.mem = d.mem := by
  unfold reserveBytes
  rw [mgmtRows_mem]

@[simp] theorem blobLoad_mem (d : Dev) : (blobLoad d).mem = d.mem := by
  unfold blobLoad
  split
  · rfl
  · next h =>
    have h1 := takeReq_mem h
    dsimp only
    split
    · next h2 => rw [finish_mem]; exact (snd_mem h2 (reserveBytes_mem _ _ _)).trans h1
    · next h2 =>
      have h3 := (snd_mem h2 (reserveBytes_mem _ _ _)).trans h1
      split
      · rw [finish_mem]; exact h3
      · split
        · rw [finish_mem]; exact h3
        · split
          · next h4 => rw [finish_mem]; exact (snd_mem h4 (reserveBytes_mem _ _ _)).trans h3
          · next h4 =>
            have h5 := (snd_mem h4 (reserveBytes_mem _ _ _)).trans h3
            repeat' split
            · rw [finish_mem]; exact h5
            · rw [finish_mem]; exact h5
            · exact h5

@[simp] theorem putChunk_wf (d : Dev) (tag c v : Nat) (hwf : canon d.mem) : canon (putChunk d tag c v).mem := by
  unfold putChunk
  refine foldl_wf _ (fun d i h => ?_) _ _ hwf
  split
  · rw [ccLostAccess_mem]; exact h
  · exact ccStore_wf _ _ _ _ h

@[simp] theorem openChunks_wf (w : Work) (hdr tag : Nat) (kw : List Nat) (z0 : Nat) (z1 : Nat) (z2 : Dev) (hwf : canon z2.mem) : canon (openChunks w hdr tag kw z0 z1 z2).2.mem := by
  induction z0 generalizing z1 z2 with
  | zero => exact hwf
  | succ m ih =>
    unfold openChunks
    generalize chunkSize = k
    have h : canon (reserveBytes z2 (w.src + 64 + 8 * w.len + z1 * (k + 16)) (k + 16)).2.mem := by
      rw [reserveBytes_mem]; exact hwf
    dsimp only
    split
    · exact ih _ _ (putChunk_wf _ _ _ _ h)
    · dsimp only
      exact putChunk_wf _ _ _ _ h

@[simp] theorem blobLoadDone_wf (n : Nat) (d : Dev) (hwf : canon d.mem) : canon (blobLoadDone n d).mem := by
  unfold blobLoadDone
  dsimp only
  split
  · exact hwf
  · next w _ =>
    split
    · exact hwf
    · have h1 : canon (reserveBytes { d with pan := { d.pan with works := d.pan.works.eraseIdx n } } w.src 64).2.mem := by
        rw [reserveBytes_mem]; exact hwf
      generalize reserveBytes { d with pan := { d.pan with works := d.pan.works.eraseIdx n } } w.src 64 = h at h1 ⊢
      split
      · rw [finish_mem]; exact h1
      · next kw _ =>
        have h2 := openChunks_wf w (h.1.getD 0) (ctxTag h.2 w.ctx) (bytesOf 32 kw.toNat) w.len 0 _ h1
        generalize openChunks w (h.1.getD 0) (ctxTag h.2 w.ctx) (bytesOf 32 kw.toNat) w.len 0 h.2 = o at h2 ⊢
        repeat' split
        all_goals simp [h1, h2]

@[simp] theorem ckptOut_mem (d : Dev) : (ckptOut d).mem = d.mem := by
  unfold ckptOut
  try dsimp only
  repeat' (first | split | (refine (foldl_mem _ _ _ (fun _ _ => ?_)).trans ?_) | (refine (foldl_pair_mem _ _ _ (fun _ _ => ?_)).trans ?_))
  all_goals try simp [apply_ite Dev.mem]
  all_goals try exact takeReq_mem (by assumption)
  all_goals try exact snd_mem (by assumption) (by simp)

@[simp] theorem mgmtPlain_mem (n ofs : Nat) (z0 : Nat) (z1 : Dev) : (mgmtPlain n ofs z0 z1).2.mem = z1.mem := by
  induction z0 generalizing z1 n ofs with
  | zero => rfl
  | succ m ih =>
    unfold mgmtPlain
    simp [ih]

@[simp] theorem chunkPlain_mem (d : Dev) (c : Nat) : (chunkPlain d c).2.mem = d.mem := by
  unfold chunkPlain
  rw [mgmtPlain_mem]

@[simp] theorem sealChunks_wf (kw : List Nat) (hdr : Nat) (z0 : List Nat) (z1 : Nat) (z2 : Dev) (hwf : canon z2.mem) : canon (sealChunks kw hdr z0 z1 z2).2.mem := by
  induction z0 generalizing z1 z2 kw hdr with
  | nil => exact hwf
  | cons r rs ih =>
    unfold sealChunks
    simp [ih, hwf]

@[simp] theorem mgmtWrite_wf (a v : Nat) (z0 : Nat) (z1 : Dev) (hwf : canon z1.mem) : canon (mgmtWrite a v z0 z1).2.mem := by
  induction z0 generalizing a v z1 with
  | zero => exact hwf
  | succ m ih =>
    unfold mgmtWrite
    simp [ih, hwf]

@[simp] theorem copyMaps_mem (d : Dev) : (copyMaps d).mem = d.mem := by
  unfold copyMaps
  simp

@[simp] theorem ckptOutDone_wf (n : Nat) (d : Dev) (hwf : canon d.mem) : canon (ckptOutDone n d).mem := by
  unfold ckptOutDone
  dsimp only
  repeat' split
  all_goals simp [hwf]

@[simp] theorem copyIn_mem (d : Dev) : (copyIn d).mem = d.mem := by
  unfold copyIn
  try dsimp only
  repeat' (first | split | (refine (foldl_mem _ _ _ (fun _ _ => ?_)).trans ?_) | (refine (foldl_pair_mem _ _ _ (fun _ _ => ?_)).trans ?_))
  all_goals try simp [apply_ite Dev.mem]
  all_goals try exact takeReq_mem (by assumption)
  all_goals try exact snd_mem (by assumption) (by simp)

@[simp] theorem hostRows_wf (a v : Nat) (z0 : Nat) (z1 : Dev) (hwf : canon z1.mem) : canon (hostRows a v z0 z1).2.mem := by
  induction z0 generalizing a v z1 with
  | zero => exact hwf
  | succ m ih =>
    unfold hostRows
    try dsimp only
    repeat' split
    all_goals simp [ih, hwf]

@[simp] theorem copyInDone_wf (n : Nat) (host : Option Nat) (d : Dev) (hwf : canon d.mem) : canon (copyInDone n host d).mem := by
  unfold copyInDone
  dsimp only
  repeat' split
  all_goals simp [hwf]

@[simp] theorem copyOut_mem (d : Dev) : (copyOut d).mem = d.mem := by
  unfold copyOut
  try dsimp only
  repeat' (first | split | (refine (foldl_mem _ _ _ (fun _ _ => ?_)).trans ?_) | (refine (foldl_pair_mem _ _ _ (fun _ _ => ?_)).trans ?_))
  all_goals try simp [apply_ite Dev.mem]
  all_goals try exact takeReq_mem (by assumption)
  all_goals try exact snd_mem (by assumption) (by simp)

@[simp] theorem hostOut_mem (a b : Nat) (z0 : Nat) (z1 : Nat) (z2 : Dev) : (hostOut a b z0 z1 z2).2.mem = z2.mem := by
  induction z0 generalizing a b z1 z2 with
  | zero => rfl
  | succ m ih =>
    unfold hostOut
    try dsimp only
    repeat' split
    all_goals simp [ih]

@[simp] theorem copyOutDone_mem (n : Nat) (d : Dev) : (copyOutDone n d).mem = d.mem := by
  unfold copyOutDone
  dsimp only
  repeat' split
  all_goals simp

@[simp] theorem pantryRelease_wf (host : Option Nat) (d : Dev) (hwf : canon d.mem) : canon (pantryRelease host d).mem := by
  unfold pantryRelease
  repeat' split
  all_goals simp [apply_ite Dev.mem, apply_ite canon, hwf]

@[simp] theorem takeTracker_mem (d : Dev) (now : Nat) (t : Tracker) : (takeTracker d now t).mem = d.mem := by
  unfold takeTracker
  dsimp only
  repeat' split
  all_goals simp

@[simp] theorem countEvent_mem (d : Dev) (e : BitVec 512) (now : Nat) : (countEvent d e now).2.mem = d.mem := by
  unfold countEvent
  dsimp only
  repeat' split
  all_goals simp

@[simp] theorem decideLasting_mem (d : Dev) (e : BitVec 512) : (decideLasting d e).mem = d.mem := by
  unfold decideLasting
  simp [apply_ite Dev.mem]

@[simp] theorem logRecord_mem (d : Dev) (e : BitVec 512) : (logRecord d e).mem = d.mem := by
  unfold logRecord
  dsimp only
  repeat' split
  all_goals simp

@[simp] theorem errorRecord_mem (n t : Nat) (d : Dev) : (errorRecord n t d).mem = d.mem := by
  unfold errorRecord
  dsimp only
  repeat' split
  all_goals simp

@[simp] theorem plogCopy_mem (d : Dev) : (plogCopy d).mem = d.mem := by
  unfold plogCopy
  dsimp only
  repeat' split
  all_goals simp

@[simp] theorem plogCopyTimeout_mem (n : Nat) (d : Dev) : (plogCopyTimeout n d).mem = d.mem := by
  unfold plogCopyTimeout
  simp [apply_ite Dev.mem]

@[simp] theorem retireSpare_mem (d : Dev) (c : Nat) : (retireSpare d c).mem = d.mem := by
  unfold retireSpare
  simp [apply_ite Dev.mem]

@[simp] theorem loseCore_wf (d : Dev) (c : Nat) (hwf : canon d.mem) : canon (loseCore d c).mem := by
  unfold loseCore
  dsimp only
  repeat' split
  all_goals simp [hwf]

@[simp] theorem applyLasting_wf (d : Dev) (x : Lasting) (hwf : canon d.mem) : canon (applyLasting d x).mem := by
  unfold applyLasting
  repeat' split
  all_goals simp [hwf]

@[simp] theorem applyDue_wf (d : Dev) (hwf : canon d.mem) : canon (applyDue d).mem := by
  unfold applyDue
  try dsimp only
  repeat' (first | assumption | split | refine foldl_wf _ (fun _ _ _ => ?_) _ _ ?_ | refine foldl_pair_wf _ (fun _ _ _ => ?_) _ _ ?_)
  all_goals try simp [*]
  all_goals try exact takeReq_wf (by assumption) (by simp [*])
  all_goals try exact snd_wf (by assumption) (by simp [*])

@[simp] theorem reloadCore_wf (d : Dev) (q c : Nat) (hwf : canon d.mem) : canon (reloadCore d q c).mem := by
  unfold reloadCore
  refine foldl_wf _ (fun d n h => ?_) _ _ (wipeRows_wf _ _ _ hwf)
  cases d.pkgs.find? (fun x => x.1 == n) with
  | none => exact h
  | some x =>
    simp only []
    split
    · rw [assignChans_mem]
      exact foldl_wf _ (fun d s h => by simp [h]) _ _ h
    · exact foldl_wf _ (fun d s h => by simp [h]) _ _ h

@[simp] theorem takeoverDone_wf (t : Nat) (d : Dev) (hwf : canon d.mem) : canon (takeoverDone t d).mem := by
  unfold takeoverDone
  dsimp only
  repeat' split
  all_goals simp [hwf]

@[simp] theorem endTakeover_mem (d : Dev) (k : Takeover) : (endTakeover d k).mem = d.mem := by
  unfold endTakeover
  dsimp only
  repeat' split
  all_goals simp

@[simp] theorem applyMaps_mem (d : Dev) : (applyMaps d).mem = d.mem := by
  unfold applyMaps
  simp

@[simp] theorem startRepair_mem (d : Dev) : (startRepair d).mem = d.mem := by
  unfold startRepair
  simp [apply_ite Dev.mem]

@[simp] theorem poisonRepairDone_wf (chunk : Nat) (poisoned : Bool) (rows : List (Nat × Row)) (d : Dev) (hwf : canon d.mem) : canon (poisonRepairDone chunk poisoned rows d).mem := by
  unfold poisonRepairDone
  simp [apply_ite Dev.mem, apply_ite canon, hwf]

@[simp] theorem keepTest_mem (d : Dev) : (keepTest d).mem = d.mem := by
  unfold keepTest
  simp [apply_ite Dev.mem]

@[simp] theorem testCtlWrite_mem (v : Nat) (d : Dev) : (testCtlWrite v d).mem = d.mem := by
  unfold testCtlWrite
  simp

@[simp] theorem fltWinWrite_mem (c v : Nat) (d : Dev) : (fltWinWrite c v d).mem = d.mem := by
  unfold fltWinWrite
  simp [apply_ite Dev.mem]

@[simp] theorem testRound_mem (runs : List (Nat × BitVec 64 × BitVec 64)) (d : Dev) : (testRound runs d).mem = d.mem := by
  unfold testRound
  simp [apply_ite Dev.mem]

@[simp] theorem blameSlot_mem (d : Dev) (q : Nat) : (blameSlot d q).mem = d.mem := by
  unfold blameSlot
  repeat' split
  all_goals simp

@[simp] theorem testReferee_mem (q : Nat) (dig : BitVec 64) (d : Dev) : (testReferee q dig d).mem = d.mem := by
  unfold testReferee
  dsimp only
  repeat' split
  all_goals simp

end Sys2Proof.Machine
end

