-- ==== Sys2Proof/Laws/Keep4.lean ====
section
/-!
SUPPORT. Laws/Keep4.lean: for each operation from setImg to sentenceOrigin, `<name>_mem` (it leaves memory as it is) or `<name>_wf` (it keeps
memory canonical).
-/
namespace Sys2Proof.Machine

@[simp] theorem setImg_mem (d : Dev) (k s : Nat) (i : Img) : (setImg d k s i).mem = d.mem := by
  unfold setImg
  simp

@[simp] theorem showSlots_mem (d : Dev) : (showSlots d).mem = d.mem := by
  unfold showSlots
  simp

@[simp] theorem appendRec_mem (d : Dev) (s : Nat) (r : BitVec 512) : (appendRec d s r).mem = d.mem := by
  unfold appendRec
  simp [apply_ite Dev.mem]

@[simp] theorem writeRec_mem (d : Dev) (k s state act : Nat) : (writeRec d k s state act).mem = d.mem := by
  unfold writeRec
  simp

@[simp] theorem tryCands_mem (k : Nat) (chosen : List (BitVec 2048)) (z0 : List Nat) (z1 : Dev) : (tryCands k chosen z0 z1).2.mem = z1.mem := by
  induction z0 generalizing z1 with
  | nil => rfl
  | cons s rest ih =>
    unfold tryCands
    dsimp only
    split
    · rw [ih, writeRec_mem]
    · split
      · exact ih _
      · split <;> simp

@[simp] theorem selectComp_mem (d : Dev) (k : Nat) (chosen : List (BitVec 2048)) : (selectComp d k chosen).mem = d.mem := by
  have h0 : (List.foldl (fun d s => if slotState d k s = 2 then writeRec d k s 4 (slotAct d k s) else d) d [0, 1]).mem = d.mem :=
    foldl_mem' _ (fun d s => by split <;> simp) _ d
  unfold selectComp
  dsimp only
  split
  · next s d2 h =>
    have h1 : d2.mem = d.mem := snd_mem h ((tryCands_mem k chosen _ _).trans h0)
    simpa using h1
  · next d2 h =>
    have h1 : d2.mem = d.mem := snd_mem h ((tryCands_mem k chosen _ _).trans h0)
    simpa using h1

@[simp] theorem selectMgmt_mem (d : Dev) : (selectMgmt d).mem = d.mem := by
  unfold selectMgmt
  simp

@[simp] theorem selectRest_mem (d : Dev) : (selectRest d).mem = d.mem := by
  unfold selectRest
  simp

@[simp] theorem blowArb_mem (d : Dev) (k : Nat) : (blowArb d k).mem = d.mem := by
  unfold blowArb
  simp [apply_ite Dev.mem]

@[simp] theorem confirmSlots_mem (d : Dev) : (confirmSlots d).mem = d.mem := by
  unfold confirmSlots
  try dsimp only
  repeat' (first | split | (refine (foldl_mem _ _ _ (fun _ _ => ?_)).trans ?_) | (refine (foldl_pair_mem _ _ _ (fun _ _ => ?_)).trans ?_))
  all_goals try simp [apply_ite Dev.mem]
  all_goals try exact takeReq_mem (by assumption)
  all_goals try exact snd_mem (by assumption) (by simp)

@[simp] theorem readCfg_mem (d : Dev) : (readCfg d).mem = d.mem := by
  unfold readCfg
  dsimp only
  repeat' split
  all_goals simp

@[simp] theorem loadCfg_mem (d : Dev) : (loadCfg d).mem = d.mem := by
  unfold loadCfg
  try dsimp only
  repeat' (first | split | (with_reducible refine (foldl_mem _ _ _ (fun _ _ => ?_)).trans ?_)| (with_reducible refine (foldl_pair_mem _ _ _ (fun _ _ => ?_)).trans ?_) | exact takeReq_mem (by assumption) | apply snd_mem (by assumption) | simp)

@[simp] theorem coldKeep_wf (d : Dev) : canon (coldKeep d).mem := rfl

@[simp] theorem warmKeep_wf (module : Bool) (d : Dev) (hwf : canon d.mem) : canon (warmKeep module d).mem := by
  unfold warmKeep
  dsimp only
  refine foldl_wf _ (fun d c h => ?_) _ _ (foldl_wf _ (fun d c h => ?_) _ _ (by rfl))
  · split <;> simp [h]
  · repeat' split
    all_goals simp [h]

@[simp] theorem setStage_mem (d : Dev) (n : Nat) : (setStage d n).mem = d.mem := by
  unfold setStage
  simp

@[simp] theorem deriveIdentity_mem (d : Dev) : (deriveIdentity d).mem = d.mem := by
  unfold deriveIdentity
  simp

@[simp] theorem romStart_mem (d : Dev) (kind : Nat) : (romStart d kind).mem = d.mem := by
  unfold romStart
  simp [apply_ite Dev.mem]

@[simp] theorem fuseTile_mem (d : Dev) (t : Nat) : (fuseTile d t).mem = d.mem := by
  unfold fuseTile
  simp [apply_ite Dev.mem]

@[simp] theorem fuseTiles_mem (d : Dev) : (fuseTiles d).mem = d.mem := by
  unfold fuseTiles
  simp

@[simp] theorem beginWipe_wf (kind cause : Nat) (d : Dev) (hwf : canon d.mem) : canon (beginWipe kind cause d).mem := by
  unfold beginWipe
  simp [apply_ite Dev.mem, apply_ite canon, hwf]

@[simp] theorem moduleReset_wf (cause : Nat) (d : Dev) (hwf : canon d.mem) : canon (moduleReset cause d).mem := by
  unfold moduleReset
  simp [apply_ite Dev.mem, apply_ite canon, hwf]

@[simp] theorem powerOff_wf (cause : Nat) (d : Dev) (hwf : canon d.mem) : canon (powerOff cause d).mem := by
  unfold powerOff
  simp [apply_ite Dev.mem, apply_ite canon, hwf]

@[simp] theorem inputUvlo_wf (d : Dev) (hwf : canon d.mem) : canon (inputUvlo d).mem := by
  unfold inputUvlo
  simp [hwf]

@[simp] theorem inputOvervoltage_wf (d : Dev) (hwf : canon d.mem) : canon (inputOvervoltage d).mem := by
  unfold inputOvervoltage
  simp [hwf]

@[simp] theorem powerGood_wf (d : Dev) (hwf : canon d.mem) : canon (powerGood d).mem := by
  unfold powerGood
  simp [apply_ite Dev.mem, apply_ite canon, hwf]

@[simp] theorem perstAssert_wf (d : Dev) (hwf : canon d.mem) : canon (perstAssert d).mem := by
  unfold perstAssert
  simp [apply_ite Dev.mem, apply_ite canon, hwf]

@[simp] theorem perstDeassert_mem (d : Dev) : (perstDeassert d).mem = d.mem := by
  unfold perstDeassert
  simp [apply_ite Dev.mem]

@[simp] theorem setLink_mem (d : Dev) (v : Nat) : (setLink d v).mem = d.mem := by
  unfold setLink
  simp [apply_ite Dev.mem]

@[simp] theorem linkUp_mem (res : List Nat) (d : Dev) : (linkUp res d).mem = d.mem := by
  unfold linkUp
  simp [apply_ite Dev.mem]

@[simp] theorem applyCfg_mem (d : Dev) : (applyCfg d).mem = d.mem := by
  unfold applyCfg
  simp

@[simp] theorem railsUp_mem (d : Dev) : (railsUp d).mem = d.mem := by
  unfold railsUp
  simp

@[simp] theorem calibrateTile_wf (arr : List Nat) (d : Dev) (t : Nat) (hwf : canon d.mem) : canon (calibrateTile arr d t).mem := by
  unfold calibrateTile
  simp [apply_ite Dev.mem, apply_ite canon, hwf]

@[simp] theorem calibrateEdge_mem (arr : List Nat) (d : Dev) (k : Nat) : (calibrateEdge arr d k).mem = d.mem := by
  unfold calibrateEdge
  simp [apply_ite Dev.mem]

@[simp] theorem trainMesh_wf (arr : List Nat) (d : Dev) (hwf : canon d.mem) : canon (trainMesh arr d).mem := by
  unfold trainMesh
  dsimp only
  rw [setB_mem]
  refine foldl_wf _ (fun d k h => ?_) _ _ (foldl_wf _ (fun d t h => ?_) _ _ (by rw [setR_mem]; exact hwf))
  · first | exact calibrateEdge_wf _ _ _ h | (rw [calibrateEdge_mem]; exact h)
  · first | exact calibrateTile_wf _ _ _ h | (rw [calibrateTile_mem]; exact h)

@[simp] theorem trainStacks_mem (bad : List Nat) (wiped : Bool) (d : Dev) : (trainStacks bad wiped d).mem = d.mem := by
  unfold trainStacks
  simp [apply_ite Dev.mem]

@[simp] theorem checkTile_wf (bad : List Nat) (d : Dev) (t : Nat) (hwf : canon d.mem) : canon (checkTile bad d t).mem := by
  unfold checkTile
  dsimp only
  repeat' split
  all_goals simp [hwf]

@[simp] theorem stageTile_mem (d : Dev) (t : Nat) : (stageTile d t).mem = d.mem := by
  unfold stageTile
  simp [apply_ite Dev.mem]

@[simp] theorem checkCores_wf (bad : List Nat) (d : Dev) (hwf : canon d.mem) : canon (checkCores bad d).mem := by
  unfold checkCores
  refine foldl_wf _ (fun d c h => ?_) _ _ (foldl_wf _ (fun d c h => ?_) _ _ hwf)
  · simp [h]
  · simp [h]

@[simp] theorem trainPorts_mem (bad : List Nat) (d : Dev) : (trainPorts bad d).mem = d.mem := by
  unfold trainPorts
  simp [apply_ite Dev.mem]

@[simp] theorem setLocks_mem (d : Dev) : (setLocks d).mem = d.mem := by
  unfold setLocks
  simp

@[simp] theorem bootStageDone_wf (res : List Nat) (d : Dev) (hwf : canon d.mem) : canon (bootStageDone res d).mem := by
  unfold bootStageDone
  repeat' split
  all_goals simp [hwf]

@[simp] theorem ready_mem (ms : Nat) (d : Dev) : (ready ms d).mem = d.mem := by
  unfold ready
  simp [apply_ite Dev.mem]

@[simp] theorem resetRegs_mem (p : Nat → Bool) (d : Dev) : (resetRegs p d).mem = d.mem := by
  unfold resetRegs
  simp

@[simp] theorem modRsts_mem (d : Dev) (f : Rst → Rst) : (modRsts d f).mem = d.mem := by
  unfold modRsts
  simp

@[simp] theorem showReset_mem (d : Dev) (last : Nat) : (showReset d last).mem = d.mem := by
  unfold showReset
  simp

@[simp] theorem flushCq_mem (d : Dev) : (flushCq d).mem = d.mem := by
  unfold flushCq
  exact iter_mem _ (fun d => by split <;> simp) _ d

@[simp] theorem moduleResetReq_wf (d : Dev) (hwf : canon d.mem) : canon (moduleResetReq d).mem := by
  unfold moduleResetReq
  split
  · exact hwf
  · next h =>
    have h1 := takeReq_wf h hwf
    split
    · simp [h1]
    · exact moduleReset_wf _ _ (by simp [h1])

@[simp] theorem joinReset_mem (d : Dev) (x : Rst) (tag : Nat) : (joinReset d x tag).mem = d.mem := by
  unfold joinReset
  simp

@[simp] theorem abandonResets_mem (d : Dev) : (abandonResets d).mem = d.mem := by
  unfold abandonResets
  simp

@[simp] theorem tileResetReq_mem (d : Dev) : (tileResetReq d).mem = d.mem := by
  unfold tileResetReq
  try dsimp only
  repeat' (first | split | (refine (foldl_mem _ _ _ (fun _ _ => ?_)).trans ?_) | (refine (foldl_pair_mem _ _ _ (fun _ _ => ?_)).trans ?_))
  all_goals try simp [apply_ite Dev.mem]
  all_goals try exact takeReq_mem (by assumption)
  all_goals try exact snd_mem (by assumption) (by simp)

@[simp] theorem wipeTile_wf (d : Dev) (t : Nat) (hwf : canon d.mem) : canon (wipeTile d t).mem := by
  unfold wipeTile
  dsimp only
  rw [resetRegs_mem, ueUnwait_mem]
  refine wipeRows_wf _ _ _ (foldl_wf _ (fun d i h => ?_) _ _ hwf)
  exact wipeRows_wf _ _ _ (by rw [setCore_mem]; exact h)

theorem resetUe_wf (d : Dev) (t : Nat) (f : Dev → Dev) (h : ∀ d, canon d.mem → canon (f d).mem) (hwf : canon d.mem) : canon (resetUe d t f).mem := by
  have h1 : ∀ b : Bool, canon (if b = true then ueInterrupt d t none else d).mem := fun b => by
    split
    · rw [ueInterrupt_mem]; exact hwf
    · exact hwf
  unfold resetUe
  dsimp only
  have h2 := h1 (d.inStep && (ueSt d t).busy)
  generalize (if (d.inStep && (ueSt d t).busy) = true then ueInterrupt d t none else d) = d1 at h2 ⊢
  have h3 : canon (f (if d1.inStep = true then modUe d1 t (fun u => { u with busy := false }) else d1)).mem := by
    refine h _ ?_
    split
    · rw [modUe_mem]; exact h2
    · exact h2
  split
  · rw [setF_mem]; exact h3
  · exact h3

@[simp] theorem applyTileResets_wf (atC : Bool) (d : Dev) (hwf : canon d.mem) : canon (applyTileResets atC d).mem := by
  unfold applyTileResets
  refine foldl_wf _ (fun d x h => ?_) _ _ hwf
  dsimp only
  split
  · exact h
  · rw [showReset_mem, setF_mem, satF_mem, modRsts_mem]
    exact resetUe_wf _ _ _ (fun d h => wipeTile_wf _ _ h) h

theorem tileReloadCores_wf (t : Nat) (d : Dev) (hwf : canon d.mem) : canon ((List.range 4).foldl (fun d q => match slotCore d t q with
      | some c => reloadCore d (4 * t + q) c
      | none => d) d).mem := foldl_wf _ (fun d q h => by
    split
    · exact reloadCore_wf _ _ _ h
    · exact h) _ _ hwf

@[simp] theorem tileReloadDone_wf (d : Dev) (hwf : canon d.mem) : canon (tileReloadDone d).mem := by
  unfold tileReloadDone
  split
  · exact hwf
  · next x _ =>
    have h1 := tileReloadCores_wf x.unit d hwf
    dsimp only
    generalize ((List.range 4).foldl (fun d q => match slotCore d x.unit q with
      | some c => reloadCore d (4 * x.unit + q) c
      | none => d) d) = d1 at h1 ⊢
    rw [modRsts_mem]
    have h2 : ∀ (own : Sec → Bool) (l : List Nat) (d : Dev), canon d.mem → canon (l.foldl (fun d n => match d.pkgs.find? (fun y => y.1 == n) with
        | some y => ((y.2.secs.filter own).foldl (loadSec n (ctxFiller d n) 0) d)
        | none => d) d).mem := fun own l d hd => foldl_wf _ (fun d n h => by
      split
      · exact foldl_wf _ (fun d s h => loadSec_wf _ _ _ _ _ h) _ _ h
      · exact h) _ _ hd
    have h3 := h2 (fun (s : Sec) => (s.typ == 8 && s.idx == 128 + x.unit) || (s.typ == 0xA && s.idx == x.unit)) (d1.res.fg.toList ++ d1.res.fillers) d1 h1
    generalize (List.foldl _ d1 (d1.res.fg.toList ++ d1.res.fillers)) = d2 at h3 ⊢
    have h4 : ∀ (n : Nat) (l : List Sec), canon (l.foldl (loadSec n false 0) d2).mem := fun n l => foldl_wf _ (fun d s h => loadSec_wf _ _ _ _ _ h) _ _ h3
    have h5 : ∀ (d3 : Dev), canon d3.mem → canon (if (!d3.inStep) = true then d3 else if (ueSt d3 x.unit).failed = true then ueEnd d3 x.unit
        else ueNext d3 x.unit (getF d (UE_ORDER x.unit) UE_ORDER_POS)).mem := fun d3 h => by
      repeat' split
      · exact h
      · rw [ueEnd_mem]; exact h
      · rw [ueNext_mem]; exact h
    refine h5 _ ?_
    repeat' split
    · exact foldl_wf _ (fun d i h => by rw [setWords_mem]; exact h) _ _ (h4 _ _)
    · exact foldl_wf _ (fun d i h => by rw [setWords_mem]; exact h) _ _ (h4 _ _)
    · exact h4 _ _
    · exact h3

@[simp] theorem contextResetReq_mem (d : Dev) : (contextResetReq d).mem = d.mem := by
  unfold contextResetReq
  try dsimp only
  repeat' split
  all_goals try simp
  all_goals try exact takeReq_mem (by assumption)
  all_goals try exact snd_mem (by assumption) (by (try simp) <;> first | exact takeReq_mem (by assumption) | exact snd_mem (by assumption) (by simp) | exact snd_mem (by assumption) (by (try simp) <;> exact snd_mem (by assumption) (by simp)))

@[simp] theorem wipeExtent_wf (d : Dev) (n : Nat) (hwf : canon d.mem) : canon (wipeExtent d n).mem := by
  unfold wipeExtent
  exact foldl_wf _ (fun d c h => wipeRows_wf _ _ _ h) _ _ hwf

@[simp] theorem dropCtxKeys_mem (d : Dev) (t s n : Nat) : (dropCtxKeys d t s n).mem = d.mem := by
  unfold dropCtxKeys
  simp [apply_ite Dev.mem]

@[simp] theorem keepLogs_mem (d : Dev) (n : Nat) : (keepLogs d n).mem = d.mem := by
  unfold keepLogs
  simp

@[simp] theorem endCtxReset_wf (d : Dev) (n : Nat) (hwf : canon d.mem) : canon (endCtxReset d n).mem := by
  have h2 : canon (clearCtx (wipeExtent d n) n).mem := clearCtx_wf _ _ (wipeExtent_wf _ _ hwf)
  have h3 : ∀ l : List (Nat × Nat), canon (l.foldl (fun d x => retagChunk d x.1 x.2 0) (clearCtx (wipeExtent d n) n)).mem :=
    fun l => foldl_wf _ (fun d x h => retagChunk_wf _ _ _ _ h) _ _ h2
  have hs : ∀ e : Dev, canon e.mem → canon (if ctxProt e n = true then drawEph e n else e).mem := fun e h => by
    split
    · rw [drawEph_mem]; exact h
    · exact h
  have ht : ∀ e : Dev, canon e.mem → canon (noPkg (if e.res.fg = some n then noForeground e else noFiller e n) n).mem := fun e h => by
    rw [noPkg_mem]
    split
    · rw [noForeground_mem]; exact h
    · rw [noFiller_mem]; exact h
  unfold endCtxReset
  dsimp only
  rw [showProt_mem]
  refine hs _ ?_
  rw [setCtxField_mem]
  refine ht _ ?_
  rw [keepLogs_mem, dropCtxKeys_mem]
  exact h3 _

@[simp] theorem resetDone_wf (ms : Nat) (d : Dev) (hwf : canon d.mem) : canon (resetDone ms d).mem := by
  unfold resetDone
  dsimp only
  repeat' split
  all_goals simp [hwf]

@[simp] theorem powerTo_mem (target : Nat) (tag : Option Nat) (d : Dev) : (powerTo target tag d).mem = d.mem := by
  unfold powerTo
  dsimp only
  repeat' split
  all_goals simp

@[simp] theorem powerReq_mem (target : Nat) (d : Dev) : (powerReq target d).mem = d.mem := by
  unfold powerReq
  try dsimp only
  repeat' (first | split | (refine (foldl_mem _ _ _ (fun _ _ => ?_)).trans ?_) | (refine (foldl_pair_mem _ _ _ (fun _ _ => ?_)).trans ?_))
  all_goals try simp [apply_ite Dev.mem]
  all_goals try exact takeReq_mem (by assumption)
  all_goals try exact snd_mem (by assumption) (by simp)

@[simp] theorem powerSmbus_mem (target : Nat) (d : Dev) : (powerSmbus target d).mem = d.mem := by
  unfold powerSmbus
  simp [apply_ite Dev.mem]

@[simp] theorem wipeCompute_wf (d : Dev) (hwf : canon d.mem) : canon (wipeCompute d).mem := by
  unfold wipeCompute
  exact Tbl.ok_cut _ _ hwf

@[simp] theorem wipeHold_wf (d : Dev) (hwf : canon d.mem) : canon (wipeHold d).mem := by
  unfold wipeHold
  exact Tbl.ok_cut _ _ hwf

@[simp] theorem quietUnits_wf (d : Dev) (hwf : canon d.mem) : canon (quietUnits d).mem := by
  unfold quietUnits
  dsimp only
  have h1 : ∀ (l : List Nat) (d : Dev), (l.foldl (fun d p => if gpState d p = 4 then d else modPort (setGpState d p 0) p emptied) d).mem = d.mem :=
    foldl_mem' _ (fun d p => by split <;> simp)
  have h2 : ∀ (l : List Nat) (d : Dev), (l.foldl (fun d n =>
      if stackLost d n then d else setB d (CC_STATUS (n / 2) (n % 2)) CC_STATUS_SELF_REFRESH true) d).mem = d.mem :=
    foldl_mem' _ (fun d p => by split <;> simp)
  rw [h1, h2]
  refine foldl_wf _ (fun d t h => ?_) _ _ hwf
  split
  · rw [setF_mem]
    exact darkCores_wf _ _ h
  · exact h

@[simp] theorem holdUnits_wf (d : Dev) (hwf : canon d.mem) : canon (holdUnits d).mem := by
  unfold holdUnits
  simp [hwf]

@[simp] theorem wakeTiles_mem (d : Dev) : (wakeTiles d).mem = d.mem := by
  unfold wakeTiles
  simp [apply_ite Dev.mem]

@[simp] theorem changeState_wf (from_ tgt : Nat) (arr stks cores edges : List Nat) (d : Dev) (hwf : canon d.mem) : canon (changeState from_ tgt arr stks cores edges d).mem := by
  unfold changeState
  dsimp only
  split
  · split
    · rw [trainPorts_mem, foldl_mem' stageTile (fun d t => by simp)]
      simp [hwf]
    · rw [trainPorts_mem]
      refine checkCores_wf _ _ ?_
      simp only [trainStacks_mem]
      refine trainMesh_wf _ _ ?_
      rw [railsUp_mem]
      refine foldl_wf _ (fun d t h => ?_) _ _ (by simp [hwf])
      split <;> simp [h]
  · rw [satF_mem]
    exact wipeCompute_wf _ (quietUnits_wf _ hwf)
  · rw [satF_mem]
    exact holdUnits_wf _ (wipeCompute_wf _ (quietUnits_wf _ hwf))

@[simp] theorem powerTransitionDone_wf (arr stks cores edges : List Nat) (d : Dev) (hwf : canon d.mem) : canon (powerTransitionDone arr stks cores edges d).mem := by
  unfold powerTransitionDone
  dsimp only
  repeat' split
  all_goals simp [hwf]

@[simp] theorem mgmtRestart_mem (wdog : Bool) (d : Dev) : (mgmtRestart wdog d).mem = d.mem := by
  unfold mgmtRestart
  simp

@[simp] theorem watchdogExpire_wf (since : Option Nat) (d : Dev) (hwf : canon d.mem) : canon (watchdogExpire since d).mem := by
  unfold watchdogExpire
  simp [apply_ite Dev.mem, apply_ite canon, hwf]

@[simp] theorem sramUe_mem (d : Dev) : (sramUe d).mem = d.mem := by
  unfold sramUe
  simp [apply_ite Dev.mem]

@[simp] theorem dropWork_mem (d : Dev) (w : Work) : (dropWork d w).mem = d.mem := by
  unfold dropWork
  simp [apply_ite Dev.mem]

@[simp] theorem mgmtRestartDone_mem (d : Dev) : (mgmtRestartDone d).mem = d.mem := by
  unfold mgmtRestartDone
  split
  · rfl
  · dsimp only
    rw [failJoin_mem, setB_mem, foldl_mem' (fun d t => finish d t 2 0) (fun d t => by simp), foldl_mem' dropWork (fun d t => by simp)]

@[simp] theorem mgmtTrip_wf (d : Dev) (hwf : canon d.mem) : canon (mgmtTrip d).mem := by
  unfold mgmtTrip
  simp [hwf]

@[simp] theorem thermalSample_wf (tiles : List (Nat × List Int)) (edges : List Int) (mgmt : Int) (d : Dev) (hwf : canon d.mem) : canon (thermalSample tiles edges mgmt d).mem := by
  unfold thermalSample
  split
  · exact hwf
  · dsimp only
    have h1 := foldl_wf sampleTile (fun d t h => sampleTile_wf _ _ h) tiles d hwf
    have h2 : ∀ (l : List Nat) (d : Dev), (l.foldl (fun d k =>
        if (decide (edges.getD k 0 < 115) || (edge d k).lost) = true then d
        else loseEdge (report d { cls := 0x23, kind := 5, unit := k, scope := .step }) k) d).mem = d.mem :=
      foldl_mem' _ (fun d k => by split <;> simp)
    split
    · refine mgmtTrip_wf _ ?_
      rw [h2, newCeiling_mem, showMax_mem]; exact h1
    · rw [h2, newCeiling_mem, showMax_mem]; exact h1

@[simp] theorem voltageMonitorSample_mem (xs : List (Nat × Nat)) (d : Dev) : (voltageMonitorSample xs d).mem = d.mem := by
  unfold voltageMonitorSample
  simp

@[simp] theorem modclkLoss_mem (d : Dev) : (modclkLoss d).mem = d.mem := by
  unfold modclkLoss
  simp [apply_ite Dev.mem]

@[simp] theorem modclkReturn_mem (d : Dev) : (modclkReturn d).mem = d.mem := by
  unfold modclkReturn
  simp

@[simp] theorem fwRefuse_mem (d : Dev) (comp reason : Nat) : (fwRefuse d comp reason).mem = d.mem := by
  unfold fwRefuse
  simp

@[simp] theorem fwErase_mem (d : Dev) (k s : Nat) : (fwErase d k s).mem = d.mem := by
  unfold fwErase
  simp

@[simp] theorem fwUpdate_mem (host : Option Nat) (d : Dev) : (fwUpdate host d).mem = d.mem := by
  unfold fwUpdate
  try dsimp only
  repeat' split
  all_goals try simp
  all_goals try exact takeReq_mem (by assumption)
  all_goals try exact snd_mem (by assumption) (by (try simp) <;> first | exact takeReq_mem (by assumption) | exact snd_mem (by assumption) (by simp) | exact snd_mem (by assumption) (by (try simp) <;> exact snd_mem (by assumption) (by simp)))

@[simp] theorem fwProgram_mem (d : Dev) (k s v : Nat) : (fwProgram d k s v).mem = d.mem := by
  unfold fwProgram
  simp

@[simp] theorem resetAfter_wf (d : Dev) (after : Bool) (hwf : canon d.mem) : canon (resetAfter d after).mem := by
  unfold resetAfter
  simp [apply_ite Dev.mem, apply_ite canon, hwf]

@[simp] theorem fwUpdateDone_wf (d : Dev) (hwf : canon d.mem) : canon (fwUpdateDone d).mem := by
  unfold fwUpdateDone
  dsimp only
  repeat' split
  all_goals simp [hwf]

@[simp] theorem cfgUpdate_wf (host : Option Nat) (d : Dev) (hwf : canon d.mem) : canon (cfgUpdate host d).mem := by
  unfold cfgUpdate
  split
  · exact hwf
  · next h =>
    have h1 := takeReq_wf h hwf
    split
    · simp [h1]
    · split
      · simp [h1]
      · split
        · next h2 => simp [snd_wf h2 (by simp [h1])]
        · next h2 =>
          have h3 := snd_wf h2 (by simp [h1])
          dsimp only
          exact resetAfter_wf _ _ (by rw [finish_mem]; exact h3)

@[simp] theorem setRcv_mem (d : Dev) (state next : Nat) : (setRcv d state next).mem = d.mem := by
  unfold setRcv
  simp

@[simp] theorem rcvPiece_mem (n : Nat) (d : Dev) : (rcvPiece n d).mem = d.mem := by
  unfold rcvPiece
  simp [apply_ite Dev.mem]

@[simp] theorem plainWrite_mem (d : Dev) (a v : Nat) : (plainWrite d a v).mem = d.mem := by
  unfold plainWrite
  repeat' split
  all_goals simp

@[simp] theorem lockWrite_mem (a v : Nat) (d : Dev) : (lockWrite a v d).mem = d.mem := by
  unfold lockWrite
  simp [apply_ite Dev.mem]

@[simp] theorem seedWrite_mem (d : Dev) (a v : Nat) : (seedWrite d a v).mem = d.mem := by
  unfold seedWrite
  dsimp only
  repeat' split
  all_goals simp

@[simp] theorem msixWord_mem (d : Dev) (n a v : Nat) : (msixWord d n a v).mem = d.mem := by
  unfold msixWord
  simp [apply_ite Dev.mem]

@[simp] theorem msixWrite_mem (d : Dev) (a v : Nat) : (msixWrite d a v).mem = d.mem := by
  unfold msixWrite
  simp

@[simp] theorem scrubWrite_mem (d : Dev) (a n v : Nat) : (scrubWrite d a n v).mem = d.mem := by
  unfold scrubWrite
  simp

@[simp] theorem regWrite_mem (a v : Nat) (d : Dev) : (regWrite a v d).mem = d.mem := by
  unfold regWrite
  repeat' split
  all_goals simp

@[simp] theorem registerWrite_mem (a size v : Nat) (d : Dev) : (registerWrite a size v d).mem = d.mem := by
  unfold registerWrite
  simp [apply_ite Dev.mem]

@[simp] theorem injSeedWrite_mem (a v : Nat) (d : Dev) : (injSeedWrite a v d).mem = d.mem := by
  unfold injSeedWrite
  simp [apply_ite Dev.mem]

@[simp] theorem debugPart_mem (d : Dev) (l m : Nat) : (debugPart d l m).2.mem = d.mem := by
  unfold debugPart
  dsimp only
  repeat' split
  all_goals simp

@[simp] theorem debugBytes_mem (l n : Nat) (z0 : Nat) (z1 : Dev) : (debugBytes l n z0 z1).2.mem = z1.mem := by
  induction z0 generalizing l n z1 with
  | zero => rfl
  | succ m ih =>
    unfold debugBytes
    try dsimp only
    repeat' split
    all_goals simp [ih]

@[simp] theorem hostRow_mem (l : Nat) (st : HostRd × Dev) (i : Nat) : (hostRow l st i).2.mem = st.2.mem := by
  unfold hostRow
  dsimp only
  repeat' split
  all_goals simp

@[simp] theorem readWindow_mem (l n : Nat) (d : Dev) : (readWindow l n d).mem = d.mem := by
  unfold readWindow
  dsimp only
  split
  · rw [hostFeed_mem]
    exact foldl_pair_mem _ _ _ (fun st i => hostRow_mem _ _ _)
  · rw [answerRead_mem, debugBytes_mem]

@[simp] theorem debugRead_wf (a n : Nat) (d : Dev) (hwf : canon d.mem) : canon (debugRead a n d).mem := by
  unfold debugRead
  simp [apply_ite Dev.mem, apply_ite canon, hwf]

@[simp] theorem debugRows_wf (l v : Nat) (z0 : Nat) (z1 : Dev) (hwf : canon z1.mem) : canon (debugRows l v z0 z1).mem := by
  induction z0 generalizing l v z1 with
  | zero => exact hwf
  | succ m ih =>
    unfold debugRows
    try dsimp only
    repeat' split
    all_goals simp [ih, hwf]

@[simp] theorem debugWrite_wf (a n v : Nat) (d : Dev) (hwf : canon d.mem) : canon (debugWrite a n v d).mem := by
  unfold debugWrite
  simp [apply_ite Dev.mem, apply_ite canon, hwf]

@[simp] theorem d3hotEntry_mem (d : Dev) : (d3hotEntry d).mem = d.mem := by
  unfold d3hotEntry
  simp [apply_ite Dev.mem]

@[simp] theorem d0Return_mem (d : Dev) : (d0Return d).mem = d.mem := by
  unfold d0Return
  simp [apply_ite Dev.mem]

@[simp] theorem pcieError_mem (k : Nat) (d : Dev) : (pcieError k d).mem = d.mem := by
  unfold pcieError
  simp [apply_ite Dev.mem]

@[simp] theorem smAnswer_mem (d : Dev) (code : Nat) (bs : List Nat) : (smAnswer d code bs).mem = d.mem := by
  unfold smAnswer
  simp

@[simp] theorem smWord_mem (code v : Nat) (d : Dev) : (smWord code v d).mem = d.mem := by
  unfold smWord
  simp [apply_ite Dev.mem]

@[simp] theorem smBlock_mem (code : Nat) (bs : List Nat) (d : Dev) : (smBlock code bs d).mem = d.mem := by
  unfold smBlock
  simp [apply_ite Dev.mem]

@[simp] theorem smStatus_mem (d : Dev) : (smStatus d).mem = d.mem := by
  unfold smStatus
  simp [apply_ite Dev.mem]

@[simp] theorem smAlert_mem (d : Dev) : (smAlert d).mem = d.mem := by
  unfold smAlert
  simp [apply_ite Dev.mem]

@[simp] theorem smAlertResponse_mem (d : Dev) : (smAlertResponse d).mem = d.mem := by
  unfold smAlertResponse
  simp [apply_ite Dev.mem]

@[simp] theorem smVin_mem (d : Dev) : (smVin d).mem = d.mem := by
  unfold smVin
  simp

@[simp] theorem smPin_mem (d : Dev) : (smPin d).mem = d.mem := by
  unfold smPin
  simp

@[simp] theorem smPclass_mem (d : Dev) : (smPclass d).mem = d.mem := by
  unfold smPclass
  simp

@[simp] theorem smTmax_mem (d : Dev) : (smTmax d).mem = d.mem := by
  unfold smTmax
  simp

@[simp] theorem smTtile_mem (d : Dev) : (smTtile d).mem = d.mem := by
  unfold smTtile
  simp

@[simp] theorem smTstack_mem (d : Dev) : (smTstack d).mem = d.mem := by
  unfold smTstack
  simp

@[simp] theorem smCapRead_mem (d : Dev) : (smCapRead d).mem = d.mem := by
  unfold smCapRead
  simp

@[simp] theorem smCapWrite_mem (v pec : Nat) (d : Dev) : (smCapWrite v pec d).mem = d.mem := by
  unfold smCapWrite
  simp

@[simp] theorem smFreq_mem (d : Dev) : (smFreq d).mem = d.mem := by
  unfold smFreq
  simp

@[simp] theorem smStateReq_mem (target pec : Nat) (d : Dev) : (smStateReq target pec d).mem = d.mem := by
  unfold smStateReq
  simp [apply_ite Dev.mem]

@[simp] theorem smResetReq_wf (code key pec : Nat) (d : Dev) (hwf : canon d.mem) : canon (smResetReq code key pec d).mem := by
  unfold smResetReq
  refine smWrite_wf _ _ _ _ _ (fun d h => ?_) hwf
  repeat' split
  all_goals first | exact h | exact powerOff_wf _ _ h | exact moduleReset_wf _ _ h

@[simp] theorem smId_mem (d : Dev) : (smId d).mem = d.mem := by
  unfold smId
  simp [apply_ite Dev.mem]

@[simp] theorem smPlogSel_mem (v pec : Nat) (d : Dev) : (smPlogSel v pec d).mem = d.mem := by
  unfold smPlogSel
  simp

@[simp] theorem smPlog_mem (d : Dev) : (smPlog d).mem = d.mem := by
  unfold smPlog
  simp

@[simp] theorem smUndefined_mem (d : Dev) : (smUndefined d).mem = d.mem := by
  unfold smUndefined
  simp [apply_ite Dev.mem]

@[simp] theorem pinsOn_mem (d : Dev) : (pinsOn d).mem = d.mem := by
  unfold pinsOn
  simp [apply_ite Dev.mem]

@[simp] theorem pinsOff_mem (d : Dev) : (pinsOff d).mem = d.mem := by
  unfold pinsOff
  simp [apply_ite Dev.mem]

@[simp] theorem jtagLoad_mem (code : Nat) (d : Dev) : (jtagLoad code d).mem = d.mem := by
  unfold jtagLoad
  simp [apply_ite Dev.mem]

@[simp] theorem jtagIdcode_mem (d : Dev) : (jtagIdcode d).mem = d.mem := by
  unfold jtagIdcode
  simp [apply_ite Dev.mem]

@[simp] theorem jtagDebug_mem (n : Nat) (d : Dev) : (jtagDebug n d).mem = d.mem := by
  unfold jtagDebug
  simp

@[simp] theorem tlrEntry_mem (d : Dev) : (tlrEntry d).mem = d.mem := by
  unfold tlrEntry
  simp [apply_ite Dev.mem]

@[simp] theorem tlrExit_mem (d : Dev) : (tlrExit d).mem = d.mem := by
  unfold tlrExit
  simp [apply_ite Dev.mem]

@[simp] theorem doeSend_mem (d : Dev) (bytes : List Byte) : (doeSend d bytes).mem = d.mem := by
  unfold doeSend
  simp

@[simp] theorem doeStatus_mem (d : Dev) (type st : Nat) : (doeStatus d type st).mem = d.mem := by
  unfold doeStatus
  simp

@[simp] theorem doeOwn_mem (d : Dev) (type : Nat) (f : Dev → Dev) (h : ∀ d, (f d).mem = d.mem) : (doeOwn d type f).mem = d.mem :=
  doeReq_mem d _ f (fun d => by rw [doeStatus_mem]) h

theorem doeOwn_wf (d : Dev) (type : Nat) (f : Dev → Dev) (h : ∀ d, canon d.mem → canon (f d).mem) (hwf : canon d.mem) :
    canon (doeOwn d type f).mem := by
  unfold doeOwn doeReq
  repeat' split
  · exact h _ hwf
  · rw [doeStatus_mem]; exact hwf
  · exact hwf

@[simp] theorem discoverySend_mem (d : Dev) (v : Nat) : (discoverySend d v).mem = d.mem := by
  unfold discoverySend
  simp

@[simp] theorem doeDiscovery_mem (index : Nat) (d : Dev) : (doeDiscovery index d).mem = d.mem := by
  unfold doeDiscovery
  simp

@[simp] theorem doeUnknownType_mem (type : Nat) (d : Dev) : (doeUnknownType type d).mem = d.mem :=
  doeOwn_mem _ _ _ (fun d => doeStatus_mem _ _ _)

@[simp] theorem getCert_mem (i : Nat) (d : Dev) : (getCert i d).mem = d.mem :=
  doeOwn_mem _ _ _ (fun d => by simp [apply_ite Dev.mem])

@[simp] theorem sendReport_mem (n nonce : Nat) (d : Dev) : (sendReport n nonce d).mem = d.mem := by
  unfold sendReport
  simp [apply_ite Dev.mem]

@[simp] theorem getReport_mem (n nonce : Nat) (d : Dev) : (getReport n nonce d).mem = d.mem :=
  doeOwn_mem _ _ _ (fun d => by simp [apply_ite Dev.mem])

@[simp] theorem reportDue_mem (d : Dev) : (reportDue d).mem = d.mem := by
  unfold reportDue
  repeat' split
  all_goals simp [apply_ite Dev.mem]

@[simp] theorem releaseFail_mem (d : Dev) (n : Nat) : (releaseFail d n).mem = d.mem := by
  unfold releaseFail
  simp [apply_ite Dev.mem]

@[simp] theorem releaseKeys_mem (d : Dev) (n v keys : Nat) : (releaseKeys d n v keys).mem = d.mem := by
  unfold releaseKeys
  simp

@[simp] theorem keyRelease_mem (v len : Nat) (d : Dev) : (keyRelease v len d).mem = d.mem := by
  unfold keyRelease
  refine doeOwn_mem _ _ _ (fun d => ?_)
  dsimp only
  split
  · simp
  · split
    · simp
    · split
      · simp
      · split
        · simp
        · split
          · simp
          · split
            · simp
            · split <;> simp

@[simp] theorem blowLc_mem (d : Dev) (b : Nat) : (blowLc d b).mem = d.mem := by
  unfold blowLc
  simp [apply_ite Dev.mem]

@[simp] theorem lcChange_wf (v len : Nat) (d : Dev) (hwf : canon d.mem) : canon (lcChange v len d).mem := by
  unfold lcChange
  refine doeOwn_wf _ _ _ (fun d h => ?_) hwf
  dsimp only
  repeat' split
  all_goals first | (simp [h]; done) | exact moduleReset_wf _ _ (by simp [h])

@[simp] theorem loseNode_wf (d : Dev) (u : Nat) (hwf : canon d.mem) : canon (loseNode d u).mem := by
  unfold loseNode
  simp [apply_ite Dev.mem, apply_ite canon, hwf]

@[simp] theorem sendTick_wf (d : Dev) (n : Nat) (hwf : canon d.mem) : canon (sendTick d n).mem := by
  unfold sendTick
  try dsimp only
  repeat' (first | assumption | split | refine foldl_wf _ (fun _ _ _ => ?_) _ _ ?_ | refine foldl_pair_wf _ (fun _ _ _ => ?_) _ _ ?_)
  all_goals try simp [*]
  all_goals try exact takeReq_wf (by assumption) (by simp [*])
  all_goals try exact snd_wf (by assumption) (by simp [*])

@[simp] theorem endD0Wait_mem (d : Dev) : (endD0Wait d).mem = d.mem := by
  unfold endD0Wait
  simp

@[simp] theorem stopTick_wf (d : Dev) (hwf : canon d.mem) : canon (stopTick d).mem := by
  unfold stopTick
  simp [apply_ite Dev.mem, apply_ite canon, hwf]

@[simp] theorem advanceCore_mem (d : Dev) (c : Nat) : (advanceCore d c).mem = d.mem := by
  unfold advanceCore
  simp

@[simp] theorem implicitNote_mem (d : Dev) (c : Nat) : (implicitNote d c).mem = d.mem := by
  unfold implicitNote
  simp [apply_ite Dev.mem]

@[simp] theorem guardStart_wf (d : Dev) (hwf : canon d.mem) : canon (guardStart d).mem := by
  unfold guardStart
  split
  · exact hwf
  · dsimp only
    split
    · exact hwf
    · split
      · rw [setF_mem]
        refine foldl_wf _ (fun d t h => ?_) _ _ hwf
        rw [implicitNote_mem]; exact guardCore_wf _ _ h
      · rw [setR_mem, setF_mem]
        refine foldl_wf _ (fun d t h => ?_) _ _ hwf
        rw [implicitNote_mem]; exact guardCore_wf _ _ h

@[simp] theorem selectClause_mem (d : Dev) (c : Nat) (fill : Bool) (rep : Nat) (h : Nat × Nat) : (selectClause d c fill rep h).mem = d.mem := by
  unfold selectClause
  simp [apply_ite Dev.mem]

@[simp] theorem selectCore_mem (d : Dev) (c : Nat) : (selectCore d c).mem = d.mem := by
  unfold selectCore
  dsimp only
  repeat' split
  all_goals simp

@[simp] theorem releaseDrain_wf (d : Dev) (c : Nat) (hwf : canon d.mem) : canon (releaseDrain d c).mem := by
  unfold releaseDrain
  split
  · exact hwf
  · refine foldl_wf _ (fun d n h => ?_) _ _ (by rw [modCore_mem]; exact hwf)
    dsimp only
    split
    · exact promote_wf _ _ _ h
    · exact h

@[simp] theorem takeNote_mem (d : Dev) (c : Nat) : (takeNote d c).mem = d.mem := by
  unfold takeNote
  dsimp only
  repeat' split
  all_goals simp

@[simp] theorem clearLatches_mem (d : Dev) : (clearLatches d).mem = d.mem := by
  unfold clearLatches
  simp

@[simp] theorem beginAttempt_mem (d : Dev) (rcp : Bool) : (beginAttempt d rcp).mem = d.mem := by
  unfold beginAttempt
  simp

@[simp] theorem beginStep_wf (d : Dev) (s : StepReq) (hwf : canon d.mem) : canon (beginStep d s).mem := by
  unfold beginStep
  simp [apply_ite Dev.mem, apply_ite canon, hwf]

@[simp] theorem nextStep_wf (d : Dev) (hwf : canon d.mem) : canon (nextStep d).mem := by
  unfold nextStep
  repeat' split
  all_goals simp [hwf]

@[simp] theorem restartDegraded_mem (d : Dev) : (restartDegraded d).mem = d.mem := by
  unfold restartDegraded
  simp [apply_ite Dev.mem]

@[simp] theorem countStep_mem (d : Dev) (commit : Bool) : (countStep d commit).mem = d.mem := by
  unfold countStep
  simp [apply_ite Dev.mem]

@[simp] theorem stepRecord_mem (d : Dev) (commit : Bool) (code attempt : Nat) : (stepRecord d commit code attempt).mem = d.mem := by
  unfold stepRecord
  simp

@[simp] theorem verdictOver_mem (d : Dev) : (verdictOver d).mem = d.mem := by
  unfold verdictOver
  simp

@[simp] theorem closeStep_mem (d : Dev) (ctx : Nat) : (closeStep d ctx).mem = d.mem := by
  unfold closeStep
  simp

@[simp] theorem nextOfRequest_mem (d : Dev) : (nextOfRequest d).mem = d.mem := by
  unfold nextOfRequest
  dsimp only
  repeat' split
  all_goals simp

@[simp] theorem endStep_mem (d : Dev) (code attempt : Nat) : (endStep d code attempt).mem = d.mem := by
  unfold endStep
  simp

@[simp] theorem rewindCores_mem (d : Dev) : (rewindCores d).mem = d.mem := by
  unfold rewindCores
  simp [apply_ite Dev.mem]

@[simp] theorem againInputs_wf (d : Dev) (hwf : canon d.mem) : canon (againInputs d).mem := by
  unfold againInputs
  repeat' split
  all_goals simp [hwf]

@[simp] theorem degradeIfMisplaced_mem (d : Dev) : (degradeIfMisplaced d).mem = d.mem := by
  unfold degradeIfMisplaced
  simp [apply_ite Dev.mem]

@[simp] theorem freshVerdict_mem (d : Dev) (v : Verd) : (freshVerdict d v).mem = d.mem := by
  unfold freshVerdict
  simp

@[simp] theorem newAttempt_wf (d : Dev) (ctx : Nat) (hwf : canon d.mem) : canon (newAttempt d ctx).mem := by
  unfold newAttempt
  simp [hwf]

@[simp] theorem replayStep_wf (d : Dev) (hwf : canon d.mem) : canon (replayStep d).mem := by
  unfold replayStep
  simp [apply_ite Dev.mem, apply_ite canon, hwf]

@[simp] theorem rerunPass_wf (d : Dev) (hwf : canon d.mem) : canon (rerunPass d).mem := by
  unfold rerunPass
  dsimp only
  repeat' split
  all_goals simp [hwf]

@[simp] theorem reclipPass_mem (d : Dev) (r : Nat) : (reclipPass d r).mem = d.mem := by
  unfold reclipPass
  simp

@[simp] theorem applyVerdict_wf (d : Dev) (r : Nat) (hwf : canon d.mem) : canon (applyVerdict d r).mem := by
  unfold applyVerdict
  simp [apply_ite Dev.mem, apply_ite canon, hwf]

@[simp] theorem verdictOrigin_wf (d : Dev) (hwf : canon d.mem) : canon (verdictOrigin d).mem := by
  unfold verdictOrigin
  dsimp only
  repeat' split
  all_goals simp [hwf]

@[simp] theorem originEffects_wf (d : Dev) (hwf : canon d.mem) : canon (originEffects d).mem := by
  unfold originEffects
  dsimp only
  rw [keepTest_mem]
  refine applyTileResets_wf _ _ (applyWorks_wf _ (shedDue_wf _ ?_))
  split <;> simp [hwf]

@[simp] theorem sentenceOrigin_wf (d : Dev) (hwf : canon d.mem) : canon (sentenceOrigin d).mem := by
  unfold sentenceOrigin
  dsimp only
  split
  · exact hwf
  · rw [originReads_mem]
    refine foldl_wf _ (fun d c h => ?_) _ _ ?_
    · first | exact selectCore_wf _ _ (releaseDrain_wf _ _ (by rw [takeNote_mem]; exact h)) | (rw [selectCore_mem]; exact releaseDrain_wf _ _ (by rw [takeNote_mem]; exact h)) | (rw [selectCore_mem, releaseDrain_mem, takeNote_mem]; exact h)
    · refine nextStep_wf _ ?_
      rw [restartDegraded_mem]
      refine verdictOrigin_wf _ (originEffects_wf _ ?_)
      exact foldl_wf _ (fun d c h => by simp [h]) _ _ hwf

end Sys2Proof.Machine
end

