-- ==== Sys2Proof/Laws/PerInstr.lean ====
section
/-!
SUPPORT. Laws/PerInstr.lean: statements made command by command. LAWS.json names no family: the operation table gives no
command any bits, so there is no syntax to state anything of.
-/
namespace Sys2Proof.Laws

/-- The step takes the command at the front of the queue. -/
theorem step_cons (c : Instr) (s : Machine.State) (rest : List Instr) (h : s.pending = c :: rest) :
    Machine.step s = Machine.exec c { s with pending := rest } := by
  simp [Machine.step, h]

end Sys2Proof.Laws
end

