-- ==== Sys2Proof/Laws/Regs.lean ====
section
/-!
SUPPORT. Laws/Regs.lean: registers and fields read after they are written.
-/
namespace Sys2Proof.Machine

/-- A register just written reads the value cut to 32 bits. -/
@[simp] theorem getR_setR_self (d : Dev) (a v : Nat) : getR (setR d a v) a = v % 2 ^ 32 := by
  simp [getR, setR, BitVec.toNat_ofNat]

/-- A write leaves every other register alone. -/
theorem getR_setR_ne (d : Dev) {a b : Nat} (v : Nat) (h : b ≠ a) : getR (setR d a v) b = getR d b := by
  simp only [getR, setR]
  rw [Tbl.get_put_ne _ _ _ _ h]

/-- A register holds 32 bits. -/
theorem getR_lt (d : Dev) (a : Nat) : getR d a < 2 ^ 32 := (d.regs.get a _).isLt

/-- A field just written reads the value cut to its width. -/
theorem getF_setF_self (d : Dev) (a : Nat) (f : Fld) (v : Nat) (h : f.lo + f.w ≤ 32) : getF (setF d a f v) a f = v % 2 ^ f.w := by
  simp only [getF, setF, getR_setR_self]
  rw [Nat.mod_eq_of_lt (insBits_lt _ _ _ _ 32 (getR_lt d a) h), bits_insBits_self]

/-- A field write leaves the fields of other registers alone. -/
theorem getF_setF_reg (d : Dev) {a b : Nat} (f g : Fld) (v : Nat) (h : b ≠ a) : getF (setF d a f v) b g = getF d b g := by
  simp only [getF, setF]
  rw [getR_setR_ne _ _ h]

/-- A field write leaves the register's other fields alone. -/
theorem getF_setF_apart (d : Dev) (a : Nat) (f g : Fld) (v : Nat) (hf : f.lo + f.w ≤ 32) (h : g.lo + g.w ≤ f.lo ∨ f.lo + f.w ≤ g.lo) :
    getF (setF d a f v) a g = getF d a g := by
  simp only [getF, setF, getR_setR_self]
  rw [Nat.mod_eq_of_lt (insBits_lt _ _ _ _ 32 (getR_lt d a) hf), bits_insBits_apart _ _ _ _ _ _ h]

/-- A flag just written reads as it was written. -/
theorem getB_setB_self (d : Dev) (a : Nat) (f : Fld) (b : Bool) (h : f.lo + f.w ≤ 32) (hw : 0 < f.w) : getB (setB d a f b) a f = b := by
  simp only [getB, setB, getF_setF_self d a f _ h]
  have : 1 < 2 ^ f.w := Nat.one_lt_two_pow (by omega)
  cases b <;> simp [b2n, Nat.mod_eq_of_lt this]

theorem getB_setB_reg (d : Dev) {a b : Nat} (f g : Fld) (v : Bool) (h : b ≠ a) : getB (setB d a f v) b g = getB d b g := by
  simp only [getB, setB, getF_setF_reg d f g _ h]

theorem getB_setB_apart (d : Dev) (a : Nat) (f g : Fld) (v : Bool) (hf : f.lo + f.w ≤ 32) (h : g.lo + g.w ≤ f.lo ∨ f.lo + f.w ≤ g.lo) :
    getB (setB d a f v) a g = getB d a g := by
  simp only [getB, setB, getF_setF_apart d a f g _ hf h]

/-- A write keeps the registers' canonical form. -/
theorem regs_ok_setR {d : Dev} (a v : Nat) (h : Tbl.ok (fun k => BitVec.ofNat 32 (regReset k)) 0 d.regs = true) :
    Tbl.ok (fun k => BitVec.ofNat 32 (regReset k)) 0 (setR d a v).regs = true := Tbl.ok_put a _ h

end Sys2Proof.Machine
end

