-- ==== Sys2Proof/Laws/State.lean ====
section
/-!
SUPPORT. Laws/State.lean: which fields of the module each named update leaves as they are (one lemma per field per update), what the
update's own field then holds, and that a command's answer keeps the queue. Memory's own lemmas are in Laws/Mem.lean and Laws/Keep*.lean.
-/
namespace Sys2Proof.Machine

@[simp] theorem act_eq (s : State) (f : Dev → Dev) : act s f = .next ⟨f s.dev, s.pending⟩ := rfl

/- Cores, channels and registers of a core -/

@[simp] theorem core_setCore_self (d : Dev) (c : Nat) (x : CoreSt) : core (setCore d c x) c = x := Tbl.get_put_self d.cores c x {}
theorem core_setCore_ne (d : Dev) {c k : Nat} (x : CoreSt) (h : k ≠ c) : core (setCore d c x) k = core d k := Tbl.get_put_ne d.cores x {} {} h
@[simp] theorem core_modCore_self (d : Dev) (c : Nat) (f : CoreSt → CoreSt) : core (modCore d c f) c = f (core d c) :=
  core_setCore_self d c (f (core d c))
theorem core_modCore_ne (d : Dev) {c k : Nat} (f : CoreSt → CoreSt) (h : k ≠ c) : core (modCore d c f) k = core d k :=
  core_setCore_ne d (f (core d c)) h
theorem core_modRun_ne (d : Dev) {c k : Nat} (f : RunSt → RunSt) (h : k ≠ c) : core (modRun d c f) k = core d k := core_modCore_ne d _ h
@[simp] theorem modRun_run (d : Dev) (c : Nat) (f : RunSt → RunSt) : (core (modRun d c f) c).run = (core d c).run.map f := by
  simp only [modRun, core_modCore_self]
@[simp] theorem chan_setChan_self (d : Dev) (c n : Nat) (x : Chan) : chan (setChan d c n x) c n = x := by
  simp only [chan, setChan, core_modCore_self, Tbl.get_put_self]
theorem chan_setChan_ne (d : Dev) {c n m : Nat} (x : Chan) (h : m ≠ n) : chan (setChan d c n x) c m = chan d c m := by
  simp only [chan, setChan, core_modCore_self, Tbl.get_put_ne _ _ _ _ h]
@[simp] theorem xreg_setX_self (d : Dev) (c i v : Nat) : xreg (setX d c i v) c i = v % 2 ^ 32 := by
  simp only [xreg, setX, core_modCore_self, Tbl.get_put_self, BitVec.toNat_ofNat]
theorem xreg_setX_ne (d : Dev) {c i j : Nat} (v : Nat) (h : j % 64 ≠ i % 64) : xreg (setX d c i v) c j = xreg d c j := by
  simp only [xreg, setX, core_modCore_self, Tbl.get_put_ne _ _ _ _ h]
theorem getR_congr {d e : Dev} (h : d.regs = e.regs) (a : Nat) : getR d a = getR e a := by simp only [getR, h]
theorem readByte_congr {d e : Dev} (h : d.mem = e.mem) (a : Nat) : readByte d a = readByte e a := by simp only [readByte, h]
theorem core_congr {d e : Dev} (h : d.cores = e.cores) (c : Nat) : core d c = core e c := by simp only [core, h]

theorem foldl_keep {α β : Type} (p : Dev → α) (g : Dev → β → Dev) (h : ∀ d x, p (g d x) = p d) (l : List β) (d : Dev) :
    p (l.foldl g d) = p d := by
  induction l generalizing d with
  | nil => rfl
  | cons a l ih => simp only [List.foldl_cons, ih, h]

theorem report_keep {α : Type} (p : Dev → α) (h1 : ∀ d l r n, p { d with recFlight := l, recSeen := r, freshN := n } = p d)
    (h2 : ∀ d s, p (raiseRerun d s) = p d) (d : Dev) (e : Ev) : p (report d e) = p d := by
  unfold report
  dsimp only
  split <;> split <;> simp only [h1, h2]

theorem postCq_keep {α : Type} (p : Dev → α) (h1 : ∀ d a v, p (setR d a v) = p d) (h2 : ∀ d q, p { d with cqQueue := q } = p d)
    (h3 : ∀ d q, p { d with cqHeld := q } = p d) (d : Dev) (kind status tag value detail vec : Nat) :
    p (postCq d kind status tag value detail vec) = p d := by
  have h : p (if kind = 1 then setF d HIF_PAN_ACTIVE HIF_PAN_ACTIVE_COUNT (getF d HIF_PAN_ACTIVE HIF_PAN_ACTIVE_COUNT - 1) else d) = p d := by
    split
    · exact h1 _ _ _
    · rfl
  unfold postCq
  dsimp only
  generalize (if kind = 1 then setF d HIF_PAN_ACTIVE HIF_PAN_ACTIVE_COUNT (getF d HIF_PAN_ACTIVE HIF_PAN_ACTIVE_COUNT - 1) else d) = e at h ⊢
  rw [← h]
  split
  · exact (h1 _ _ _).trans (h2 _ _)
  · split
    · exact h1 _ _ _
    · exact h3 _ _

/- setR -/

@[simp] theorem setR_now (d : Dev) (a v : Nat) : (setR d a v).now = d.now := rfl
@[simp] theorem setR_freshN (d : Dev) (a v : Nat) : (setR d a v).freshN = d.freshN := rfl
@[simp] theorem setR_rowMeta (d : Dev) (a v : Nat) : (setR d a v).rowMeta = d.rowMeta := rfl
@[simp] theorem setR_pantry (d : Dev) (a v : Nat) : (setR d a v).pantry = d.pantry := rfl
@[simp] theorem setR_acc (d : Dev) (a v : Nat) : (setR d a v).acc = d.acc := rfl
@[simp] theorem setR_accPar (d : Dev) (a v : Nat) : (setR d a v).accPar = d.accPar := rfl
@[simp] theorem setR_clauseStore (d : Dev) (a v : Nat) : (setR d a v).clauseStore = d.clauseStore := rfl
@[simp] theorem setR_clauseSeq (d : Dev) (a v : Nat) : (setR d a v).clauseSeq = d.clauseSeq := rfl
@[simp] theorem setR_slotTable (d : Dev) (a v : Nat) : (setR d a v).slotTable = d.slotTable := rfl
@[simp] theorem setR_portMap (d : Dev) (a v : Nat) : (setR d a v).portMap = d.portMap := rfl
@[simp] theorem setR_cores (d : Dev) (a v : Nat) : (setR d a v).cores = d.cores := rfl
@[simp] theorem setR_agents (d : Dev) (a v : Nat) : (setR d a v).agents = d.agents := rfl
@[simp] theorem setR_opens (d : Dev) (a v : Nat) : (setR d a v).opens = d.opens := rfl
@[simp] theorem setR_closes (d : Dev) (a v : Nat) : (setR d a v).closes = d.closes := rfl
@[simp] theorem setR_flits (d : Dev) (a v : Nat) : (setR d a v).flits = d.flits := rfl
@[simp] theorem setR_preReads (d : Dev) (a v : Nat) : (setR d a v).preReads = d.preReads := rfl
@[simp] theorem setR_deliveries (d : Dev) (a v : Nat) : (setR d a v).deliveries = d.deliveries := rfl
@[simp] theorem setR_shelfFlight (d : Dev) (a v : Nat) : (setR d a v).shelfFlight = d.shelfFlight := rfl
@[simp] theorem setR_hostHold (d : Dev) (a v : Nat) : (setR d a v).hostHold = d.hostHold := rfl
@[simp] theorem setR_doeHeld (d : Dev) (a v : Nat) : (setR d a v).doeHeld = d.doeHeld := rfl
@[simp] theorem setR_hostRds (d : Dev) (a v : Nat) : (setR d a v).hostRds = d.hostRds := rfl
@[simp] theorem setR_hostNo (d : Dev) (a v : Nat) : (setR d a v).hostNo = d.hostNo := rfl
@[simp] theorem setR_meshLatch (d : Dev) (a v : Nat) : (setR d a v).meshLatch = d.meshLatch := rfl
@[simp] theorem setR_tickOut (d : Dev) (a v : Nat) : (setR d a v).tickOut = d.tickOut := rfl
@[simp] theorem setR_guarded (d : Dev) (a v : Nat) : (setR d a v).guarded = d.guarded := rfl
@[simp] theorem setR_tickAt (d : Dev) (a v : Nat) : (setR d a v).tickAt = d.tickAt := rfl
@[simp] theorem setR_edgeAlign (d : Dev) (a v : Nat) : (setR d a v).edgeAlign = d.edgeAlign := rfl
@[simp] theorem setR_losePend (d : Dev) (a v : Nat) : (setR d a v).losePend = d.losePend := rfl
@[simp] theorem setR_keyTable (d : Dev) (a v : Nat) : (setR d a v).keyTable = d.keyTable := rfl
@[simp] theorem setR_cmap (d : Dev) (a v : Nat) : (setR d a v).cmap = d.cmap := rfl
@[simp] theorem setR_writebacks (d : Dev) (a v : Nat) : (setR d a v).writebacks = d.writebacks := rfl
@[simp] theorem setR_ccLast (d : Dev) (a v : Nat) : (setR d a v).ccLast = d.ccLast := rfl
@[simp] theorem setR_ceTime (d : Dev) (a v : Nat) : (setR d a v).ceTime = d.ceTime := rfl
@[simp] theorem setR_syncFlight (d : Dev) (a v : Nat) : (setR d a v).syncFlight = d.syncFlight := rfl
@[simp] theorem setR_waits (d : Dev) (a v : Nat) : (setR d a v).waits = d.waits := rfl
@[simp] theorem setR_syncOut (d : Dev) (a v : Nat) : (setR d a v).syncOut = d.syncOut := rfl
@[simp] theorem setR_cqQueue (d : Dev) (a v : Nat) : (setR d a v).cqQueue = d.cqQueue := rfl
@[simp] theorem setR_cqHeld (d : Dev) (a v : Nat) : (setR d a v).cqHeld = d.cqHeld := rfl
@[simp] theorem setR_upd (d : Dev) (a v : Nat) : (setR d a v).upd = d.upd := rfl
@[simp] theorem setR_res (d : Dev) (a v : Nat) : (setR d a v).res = d.res := rfl
@[simp] theorem setR_out (d : Dev) (a v : Nat) : (setR d a v).out = d.out := rfl
@[simp] theorem setR_fab (d : Dev) (a v : Nat) : (setR d a v).fab = d.fab := rfl
@[simp] theorem setR_meshInj (d : Dev) (a v : Nat) : (setR d a v).meshInj = d.meshInj := rfl
@[simp] theorem setR_pwr (d : Dev) (a v : Nat) : (setR d a v).pwr = d.pwr := rfl
@[simp] theorem setR_heat (d : Dev) (a v : Nat) : (setR d a v).heat = d.heat := rfl
@[simp] theorem setR_flt (d : Dev) (a v : Nat) : (setR d a v).flt = d.flt := rfl
@[simp] theorem setR_staged (d : Dev) (a v : Nat) : (setR d a v).staged = d.staged := rfl
@[simp] theorem setR_pkgs (d : Dev) (a v : Nat) : (setR d a v).pkgs = d.pkgs := rfl
@[simp] theorem setR_primary (d : Dev) (a v : Nat) : (setR d a v).primary = d.primary := rfl
@[simp] theorem setR_pan (d : Dev) (a v : Nat) : (setR d a v).pan = d.pan := rfl
@[simp] theorem setR_ctxKeys (d : Dev) (a v : Nat) : (setR d a v).ctxKeys = d.ctxKeys := rfl
@[simp] theorem setR_jtag (d : Dev) (a v : Nat) : (setR d a v).jtag = d.jtag := rfl
@[simp] theorem setR_attic (d : Dev) (a v : Nat) : (setR d a v).attic = d.attic := rfl
@[simp] theorem setR_boot (d : Dev) (a v : Nat) : (setR d a v).boot = d.boot := rfl
@[simp] theorem setR_volts (d : Dev) (a v : Nat) : (setR d a v).volts = d.volts := rfl
@[simp] theorem setR_aer (d : Dev) (a v : Nat) : (setR d a v).aer = d.aer := rfl
@[simp] theorem setR_cqPhase (d : Dev) (a v : Nat) : (setR d a v).cqPhase = d.cqPhase := rfl
@[simp] theorem setR_msixDue (d : Dev) (a v : Nat) : (setR d a v).msixDue = d.msixDue := rfl
@[simp] theorem setR_alert (d : Dev) (a v : Nat) : (setR d a v).alert = d.alert := rfl
@[simp] theorem setR_committedPoison (d : Dev) (a v : Nat) : (setR d a v).committedPoison = d.committedPoison := rfl
@[simp] theorem setR_manifestChunks (d : Dev) (a v : Nat) : (setR d a v).manifestChunks = d.manifestChunks := rfl
@[simp] theorem setR_recFlight (d : Dev) (a v : Nat) : (setR d a v).recFlight = d.recFlight := rfl
@[simp] theorem setR_recSeen (d : Dev) (a v : Nat) : (setR d a v).recSeen = d.recSeen := rfl
@[simp] theorem setR_rerunStep (d : Dev) (a v : Nat) : (setR d a v).rerunStep = d.rerunStep := rfl
@[simp] theorem setR_rerunUpd (d : Dev) (a v : Nat) : (setR d a v).rerunUpd = d.rerunUpd := rfl
@[simp] theorem setR_inStep (d : Dev) (a v : Nat) : (setR d a v).inStep = d.inStep := rfl
@[simp] theorem setR_originAt (d : Dev) (a v : Nat) : (setR d a v).originAt = d.originAt := rfl

/- setF -/

@[simp] theorem setF_now (d : Dev) (a : Nat) (f : Fld) (v : Nat) : (setF d a f v).now = d.now := rfl
@[simp] theorem setF_freshN (d : Dev) (a : Nat) (f : Fld) (v : Nat) : (setF d a f v).freshN = d.freshN := rfl
@[simp] theorem setF_rowMeta (d : Dev) (a : Nat) (f : Fld) (v : Nat) : (setF d a f v).rowMeta = d.rowMeta := rfl
@[simp] theorem setF_pantry (d : Dev) (a : Nat) (f : Fld) (v : Nat) : (setF d a f v).pantry = d.pantry := rfl
@[simp] theorem setF_acc (d : Dev) (a : Nat) (f : Fld) (v : Nat) : (setF d a f v).acc = d.acc := rfl
@[simp] theorem setF_accPar (d : Dev) (a : Nat) (f : Fld) (v : Nat) : (setF d a f v).accPar = d.accPar := rfl
@[simp] theorem setF_clauseStore (d : Dev) (a : Nat) (f : Fld) (v : Nat) : (setF d a f v).clauseStore = d.clauseStore := rfl
@[simp] theorem setF_clauseSeq (d : Dev) (a : Nat) (f : Fld) (v : Nat) : (setF d a f v).clauseSeq = d.clauseSeq := rfl
@[simp] theorem setF_slotTable (d : Dev) (a : Nat) (f : Fld) (v : Nat) : (setF d a f v).slotTable = d.slotTable := rfl
@[simp] theorem setF_portMap (d : Dev) (a : Nat) (f : Fld) (v : Nat) : (setF d a f v).portMap = d.portMap := rfl
@[simp] theorem setF_cores (d : Dev) (a : Nat) (f : Fld) (v : Nat) : (setF d a f v).cores = d.cores := rfl
@[simp] theorem setF_agents (d : Dev) (a : Nat) (f : Fld) (v : Nat) : (setF d a f v).agents = d.agents := rfl
@[simp] theorem setF_opens (d : Dev) (a : Nat) (f : Fld) (v : Nat) : (setF d a f v).opens = d.opens := rfl
@[simp] theorem setF_closes (d : Dev) (a : Nat) (f : Fld) (v : Nat) : (setF d a f v).closes = d.closes := rfl
@[simp] theorem setF_flits (d : Dev) (a : Nat) (f : Fld) (v : Nat) : (setF d a f v).flits = d.flits := rfl
@[simp] theorem setF_preReads (d : Dev) (a : Nat) (f : Fld) (v : Nat) : (setF d a f v).preReads = d.preReads := rfl
@[simp] theorem setF_deliveries (d : Dev) (a : Nat) (f : Fld) (v : Nat) : (setF d a f v).deliveries = d.deliveries := rfl
@[simp] theorem setF_shelfFlight (d : Dev) (a : Nat) (f : Fld) (v : Nat) : (setF d a f v).shelfFlight = d.shelfFlight := rfl
@[simp] theorem setF_hostHold (d : Dev) (a : Nat) (f : Fld) (v : Nat) : (setF d a f v).hostHold = d.hostHold := rfl
@[simp] theorem setF_doeHeld (d : Dev) (a : Nat) (f : Fld) (v : Nat) : (setF d a f v).doeHeld = d.doeHeld := rfl
@[simp] theorem setF_hostRds (d : Dev) (a : Nat) (f : Fld) (v : Nat) : (setF d a f v).hostRds = d.hostRds := rfl
@[simp] theorem setF_hostNo (d : Dev) (a : Nat) (f : Fld) (v : Nat) : (setF d a f v).hostNo = d.hostNo := rfl
@[simp] theorem setF_meshLatch (d : Dev) (a : Nat) (f : Fld) (v : Nat) : (setF d a f v).meshLatch = d.meshLatch := rfl
@[simp] theorem setF_tickOut (d : Dev) (a : Nat) (f : Fld) (v : Nat) : (setF d a f v).tickOut = d.tickOut := rfl
@[simp] theorem setF_guarded (d : Dev) (a : Nat) (f : Fld) (v : Nat) : (setF d a f v).guarded = d.guarded := rfl
@[simp] theorem setF_tickAt (d : Dev) (a : Nat) (f : Fld) (v : Nat) : (setF d a f v).tickAt = d.tickAt := rfl
@[simp] theorem setF_edgeAlign (d : Dev) (a : Nat) (f : Fld) (v : Nat) : (setF d a f v).edgeAlign = d.edgeAlign := rfl
@[simp] theorem setF_losePend (d : Dev) (a : Nat) (f : Fld) (v : Nat) : (setF d a f v).losePend = d.losePend := rfl
@[simp] theorem setF_keyTable (d : Dev) (a : Nat) (f : Fld) (v : Nat) : (setF d a f v).keyTable = d.keyTable := rfl
@[simp] theorem setF_cmap (d : Dev) (a : Nat) (f : Fld) (v : Nat) : (setF d a f v).cmap = d.cmap := rfl
@[simp] theorem setF_writebacks (d : Dev) (a : Nat) (f : Fld) (v : Nat) : (setF d a f v).writebacks = d.writebacks := rfl
@[simp] theorem setF_ccLast (d : Dev) (a : Nat) (f : Fld) (v : Nat) : (setF d a f v).ccLast = d.ccLast := rfl
@[simp] theorem setF_ceTime (d : Dev) (a : Nat) (f : Fld) (v : Nat) : (setF d a f v).ceTime = d.ceTime := rfl
@[simp] theorem setF_syncFlight (d : Dev) (a : Nat) (f : Fld) (v : Nat) : (setF d a f v).syncFlight = d.syncFlight := rfl
@[simp] theorem setF_waits (d : Dev) (a : Nat) (f : Fld) (v : Nat) : (setF d a f v).waits = d.waits := rfl
@[simp] theorem setF_syncOut (d : Dev) (a : Nat) (f : Fld) (v : Nat) : (setF d a f v).syncOut = d.syncOut := rfl
@[simp] theorem setF_cqQueue (d : Dev) (a : Nat) (f : Fld) (v : Nat) : (setF d a f v).cqQueue = d.cqQueue := rfl
@[simp] theorem setF_cqHeld (d : Dev) (a : Nat) (f : Fld) (v : Nat) : (setF d a f v).cqHeld = d.cqHeld := rfl
@[simp] theorem setF_upd (d : Dev) (a : Nat) (f : Fld) (v : Nat) : (setF d a f v).upd = d.upd := rfl
@[simp] theorem setF_res (d : Dev) (a : Nat) (f : Fld) (v : Nat) : (setF d a f v).res = d.res := rfl
@[simp] theorem setF_out (d : Dev) (a : Nat) (f : Fld) (v : Nat) : (setF d a f v).out = d.out := rfl
@[simp] theorem setF_fab (d : Dev) (a : Nat) (f : Fld) (v : Nat) : (setF d a f v).fab = d.fab := rfl
@[simp] theorem setF_meshInj (d : Dev) (a : Nat) (f : Fld) (v : Nat) : (setF d a f v).meshInj = d.meshInj := rfl
@[simp] theorem setF_pwr (d : Dev) (a : Nat) (f : Fld) (v : Nat) : (setF d a f v).pwr = d.pwr := rfl
@[simp] theorem setF_heat (d : Dev) (a : Nat) (f : Fld) (v : Nat) : (setF d a f v).heat = d.heat := rfl
@[simp] theorem setF_flt (d : Dev) (a : Nat) (f : Fld) (v : Nat) : (setF d a f v).flt = d.flt := rfl
@[simp] theorem setF_staged (d : Dev) (a : Nat) (f : Fld) (v : Nat) : (setF d a f v).staged = d.staged := rfl
@[simp] theorem setF_pkgs (d : Dev) (a : Nat) (f : Fld) (v : Nat) : (setF d a f v).pkgs = d.pkgs := rfl
@[simp] theorem setF_primary (d : Dev) (a : Nat) (f : Fld) (v : Nat) : (setF d a f v).primary = d.primary := rfl
@[simp] theorem setF_pan (d : Dev) (a : Nat) (f : Fld) (v : Nat) : (setF d a f v).pan = d.pan := rfl
@[simp] theorem setF_ctxKeys (d : Dev) (a : Nat) (f : Fld) (v : Nat) : (setF d a f v).ctxKeys = d.ctxKeys := rfl
@[simp] theorem setF_jtag (d : Dev) (a : Nat) (f : Fld) (v : Nat) : (setF d a f v).jtag = d.jtag := rfl
@[simp] theorem setF_attic (d : Dev) (a : Nat) (f : Fld) (v : Nat) : (setF d a f v).attic = d.attic := rfl
@[simp] theorem setF_boot (d : Dev) (a : Nat) (f : Fld) (v : Nat) : (setF d a f v).boot = d.boot := rfl
@[simp] theorem setF_volts (d : Dev) (a : Nat) (f : Fld) (v : Nat) : (setF d a f v).volts = d.volts := rfl
@[simp] theorem setF_aer (d : Dev) (a : Nat) (f : Fld) (v : Nat) : (setF d a f v).aer = d.aer := rfl
@[simp] theorem setF_cqPhase (d : Dev) (a : Nat) (f : Fld) (v : Nat) : (setF d a f v).cqPhase = d.cqPhase := rfl
@[simp] theorem setF_msixDue (d : Dev) (a : Nat) (f : Fld) (v : Nat) : (setF d a f v).msixDue = d.msixDue := rfl
@[simp] theorem setF_alert (d : Dev) (a : Nat) (f : Fld) (v : Nat) : (setF d a f v).alert = d.alert := rfl
@[simp] theorem setF_committedPoison (d : Dev) (a : Nat) (f : Fld) (v : Nat) : (setF d a f v).committedPoison = d.committedPoison := rfl
@[simp] theorem setF_manifestChunks (d : Dev) (a : Nat) (f : Fld) (v : Nat) : (setF d a f v).manifestChunks = d.manifestChunks := rfl
@[simp] theorem setF_recFlight (d : Dev) (a : Nat) (f : Fld) (v : Nat) : (setF d a f v).recFlight = d.recFlight := rfl
@[simp] theorem setF_recSeen (d : Dev) (a : Nat) (f : Fld) (v : Nat) : (setF d a f v).recSeen = d.recSeen := rfl
@[simp] theorem setF_rerunStep (d : Dev) (a : Nat) (f : Fld) (v : Nat) : (setF d a f v).rerunStep = d.rerunStep := rfl
@[simp] theorem setF_rerunUpd (d : Dev) (a : Nat) (f : Fld) (v : Nat) : (setF d a f v).rerunUpd = d.rerunUpd := rfl
@[simp] theorem setF_inStep (d : Dev) (a : Nat) (f : Fld) (v : Nat) : (setF d a f v).inStep = d.inStep := rfl
@[simp] theorem setF_originAt (d : Dev) (a : Nat) (f : Fld) (v : Nat) : (setF d a f v).originAt = d.originAt := rfl

/- setB -/

@[simp] theorem setB_now (d : Dev) (a : Nat) (f : Fld) (b : Bool) : (setB d a f b).now = d.now := rfl
@[simp] theorem setB_freshN (d : Dev) (a : Nat) (f : Fld) (b : Bool) : (setB d a f b).freshN = d.freshN := rfl
@[simp] theorem setB_rowMeta (d : Dev) (a : Nat) (f : Fld) (b : Bool) : (setB d a f b).rowMeta = d.rowMeta := rfl
@[simp] theorem setB_pantry (d : Dev) (a : Nat) (f : Fld) (b : Bool) : (setB d a f b).pantry = d.pantry := rfl
@[simp] theorem setB_acc (d : Dev) (a : Nat) (f : Fld) (b : Bool) : (setB d a f b).acc = d.acc := rfl
@[simp] theorem setB_accPar (d : Dev) (a : Nat) (f : Fld) (b : Bool) : (setB d a f b).accPar = d.accPar := rfl
@[simp] theorem setB_clauseStore (d : Dev) (a : Nat) (f : Fld) (b : Bool) : (setB d a f b).clauseStore = d.clauseStore := rfl
@[simp] theorem setB_clauseSeq (d : Dev) (a : Nat) (f : Fld) (b : Bool) : (setB d a f b).clauseSeq = d.clauseSeq := rfl
@[simp] theorem setB_slotTable (d : Dev) (a : Nat) (f : Fld) (b : Bool) : (setB d a f b).slotTable = d.slotTable := rfl
@[simp] theorem setB_portMap (d : Dev) (a : Nat) (f : Fld) (b : Bool) : (setB d a f b).portMap = d.portMap := rfl
@[simp] theorem setB_cores (d : Dev) (a : Nat) (f : Fld) (b : Bool) : (setB d a f b).cores = d.cores := rfl
@[simp] theorem setB_agents (d : Dev) (a : Nat) (f : Fld) (b : Bool) : (setB d a f b).agents = d.agents := rfl
@[simp] theorem setB_opens (d : Dev) (a : Nat) (f : Fld) (b : Bool) : (setB d a f b).opens = d.opens := rfl
@[simp] theorem setB_closes (d : Dev) (a : Nat) (f : Fld) (b : Bool) : (setB d a f b).closes = d.closes := rfl
@[simp] theorem setB_flits (d : Dev) (a : Nat) (f : Fld) (b : Bool) : (setB d a f b).flits = d.flits := rfl
@[simp] theorem setB_preReads (d : Dev) (a : Nat) (f : Fld) (b : Bool) : (setB d a f b).preReads = d.preReads := rfl
@[simp] theorem setB_deliveries (d : Dev) (a : Nat) (f : Fld) (b : Bool) : (setB d a f b).deliveries = d.deliveries := rfl
@[simp] theorem setB_shelfFlight (d : Dev) (a : Nat) (f : Fld) (b : Bool) : (setB d a f b).shelfFlight = d.shelfFlight := rfl
@[simp] theorem setB_hostHold (d : Dev) (a : Nat) (f : Fld) (b : Bool) : (setB d a f b).hostHold = d.hostHold := rfl
@[simp] theorem setB_doeHeld (d : Dev) (a : Nat) (f : Fld) (b : Bool) : (setB d a f b).doeHeld = d.doeHeld := rfl
@[simp] theorem setB_hostRds (d : Dev) (a : Nat) (f : Fld) (b : Bool) : (setB d a f b).hostRds = d.hostRds := rfl
@[simp] theorem setB_hostNo (d : Dev) (a : Nat) (f : Fld) (b : Bool) : (setB d a f b).hostNo = d.hostNo := rfl
@[simp] theorem setB_meshLatch (d : Dev) (a : Nat) (f : Fld) (b : Bool) : (setB d a f b).meshLatch = d.meshLatch := rfl
@[simp] theorem setB_tickOut (d : Dev) (a : Nat) (f : Fld) (b : Bool) : (setB d a f b).tickOut = d.tickOut := rfl
@[simp] theorem setB_guarded (d : Dev) (a : Nat) (f : Fld) (b : Bool) : (setB d a f b).guarded = d.guarded := rfl
@[simp] theorem setB_tickAt (d : Dev) (a : Nat) (f : Fld) (b : Bool) : (setB d a f b).tickAt = d.tickAt := rfl
@[simp] theorem setB_edgeAlign (d : Dev) (a : Nat) (f : Fld) (b : Bool) : (setB d a f b).edgeAlign = d.edgeAlign := rfl
@[simp] theorem setB_losePend (d : Dev) (a : Nat) (f : Fld) (b : Bool) : (setB d a f b).losePend = d.losePend := rfl
@[simp] theorem setB_keyTable (d : Dev) (a : Nat) (f : Fld) (b : Bool) : (setB d a f b).keyTable = d.keyTable := rfl
@[simp] theorem setB_cmap (d : Dev) (a : Nat) (f : Fld) (b : Bool) : (setB d a f b).cmap = d.cmap := rfl
@[simp] theorem setB_writebacks (d : Dev) (a : Nat) (f : Fld) (b : Bool) : (setB d a f b).writebacks = d.writebacks := rfl
@[simp] theorem setB_ccLast (d : Dev) (a : Nat) (f : Fld) (b : Bool) : (setB d a f b).ccLast = d.ccLast := rfl
@[simp] theorem setB_ceTime (d : Dev) (a : Nat) (f : Fld) (b : Bool) : (setB d a f b).ceTime = d.ceTime := rfl
@[simp] theorem setB_syncFlight (d : Dev) (a : Nat) (f : Fld) (b : Bool) : (setB d a f b).syncFlight = d.syncFlight := rfl
@[simp] theorem setB_waits (d : Dev) (a : Nat) (f : Fld) (b : Bool) : (setB d a f b).waits = d.waits := rfl
@[simp] theorem setB_syncOut (d : Dev) (a : Nat) (f : Fld) (b : Bool) : (setB d a f b).syncOut = d.syncOut := rfl
@[simp] theorem setB_cqQueue (d : Dev) (a : Nat) (f : Fld) (b : Bool) : (setB d a f b).cqQueue = d.cqQueue := rfl
@[simp] theorem setB_cqHeld (d : Dev) (a : Nat) (f : Fld) (b : Bool) : (setB d a f b).cqHeld = d.cqHeld := rfl
@[simp] theorem setB_upd (d : Dev) (a : Nat) (f : Fld) (b : Bool) : (setB d a f b).upd = d.upd := rfl
@[simp] theorem setB_res (d : Dev) (a : Nat) (f : Fld) (b : Bool) : (setB d a f b).res = d.res := rfl
@[simp] theorem setB_out (d : Dev) (a : Nat) (f : Fld) (b : Bool) : (setB d a f b).out = d.out := rfl
@[simp] theorem setB_fab (d : Dev) (a : Nat) (f : Fld) (b : Bool) : (setB d a f b).fab = d.fab := rfl
@[simp] theorem setB_meshInj (d : Dev) (a : Nat) (f : Fld) (b : Bool) : (setB d a f b).meshInj = d.meshInj := rfl
@[simp] theorem setB_pwr (d : Dev) (a : Nat) (f : Fld) (b : Bool) : (setB d a f b).pwr = d.pwr := rfl
@[simp] theorem setB_heat (d : Dev) (a : Nat) (f : Fld) (b : Bool) : (setB d a f b).heat = d.heat := rfl
@[simp] theorem setB_flt (d : Dev) (a : Nat) (f : Fld) (b : Bool) : (setB d a f b).flt = d.flt := rfl
@[simp] theorem setB_staged (d : Dev) (a : Nat) (f : Fld) (b : Bool) : (setB d a f b).staged = d.staged := rfl
@[simp] theorem setB_pkgs (d : Dev) (a : Nat) (f : Fld) (b : Bool) : (setB d a f b).pkgs = d.pkgs := rfl
@[simp] theorem setB_primary (d : Dev) (a : Nat) (f : Fld) (b : Bool) : (setB d a f b).primary = d.primary := rfl
@[simp] theorem setB_pan (d : Dev) (a : Nat) (f : Fld) (b : Bool) : (setB d a f b).pan = d.pan := rfl
@[simp] theorem setB_ctxKeys (d : Dev) (a : Nat) (f : Fld) (b : Bool) : (setB d a f b).ctxKeys = d.ctxKeys := rfl
@[simp] theorem setB_jtag (d : Dev) (a : Nat) (f : Fld) (b : Bool) : (setB d a f b).jtag = d.jtag := rfl
@[simp] theorem setB_attic (d : Dev) (a : Nat) (f : Fld) (b : Bool) : (setB d a f b).attic = d.attic := rfl
@[simp] theorem setB_boot (d : Dev) (a : Nat) (f : Fld) (b : Bool) : (setB d a f b).boot = d.boot := rfl
@[simp] theorem setB_volts (d : Dev) (a : Nat) (f : Fld) (b : Bool) : (setB d a f b).volts = d.volts := rfl
@[simp] theorem setB_aer (d : Dev) (a : Nat) (f : Fld) (b : Bool) : (setB d a f b).aer = d.aer := rfl
@[simp] theorem setB_cqPhase (d : Dev) (a : Nat) (f : Fld) (b : Bool) : (setB d a f b).cqPhase = d.cqPhase := rfl
@[simp] theorem setB_msixDue (d : Dev) (a : Nat) (f : Fld) (b : Bool) : (setB d a f b).msixDue = d.msixDue := rfl
@[simp] theorem setB_alert (d : Dev) (a : Nat) (f : Fld) (b : Bool) : (setB d a f b).alert = d.alert := rfl
@[simp] theorem setB_committedPoison (d : Dev) (a : Nat) (f : Fld) (b : Bool) : (setB d a f b).committedPoison = d.committedPoison := rfl
@[simp] theorem setB_manifestChunks (d : Dev) (a : Nat) (f : Fld) (b : Bool) : (setB d a f b).manifestChunks = d.manifestChunks := rfl
@[simp] theorem setB_recFlight (d : Dev) (a : Nat) (f : Fld) (b : Bool) : (setB d a f b).recFlight = d.recFlight := rfl
@[simp] theorem setB_recSeen (d : Dev) (a : Nat) (f : Fld) (b : Bool) : (setB d a f b).recSeen = d.recSeen := rfl
@[simp] theorem setB_rerunStep (d : Dev) (a : Nat) (f : Fld) (b : Bool) : (setB d a f b).rerunStep = d.rerunStep := rfl
@[simp] theorem setB_rerunUpd (d : Dev) (a : Nat) (f : Fld) (b : Bool) : (setB d a f b).rerunUpd = d.rerunUpd := rfl
@[simp] theorem setB_inStep (d : Dev) (a : Nat) (f : Fld) (b : Bool) : (setB d a f b).inStep = d.inStep := rfl
@[simp] theorem setB_originAt (d : Dev) (a : Nat) (f : Fld) (b : Bool) : (setB d a f b).originAt = d.originAt := rfl

/- setBitAt -/

@[simp] theorem setBitAt_now (d : Dev) (a i : Nat) (b : Bool) : (setBitAt d a i b).now = d.now := rfl
@[simp] theorem setBitAt_freshN (d : Dev) (a i : Nat) (b : Bool) : (setBitAt d a i b).freshN = d.freshN := rfl
@[simp] theorem setBitAt_rowMeta (d : Dev) (a i : Nat) (b : Bool) : (setBitAt d a i b).rowMeta = d.rowMeta := rfl
@[simp] theorem setBitAt_pantry (d : Dev) (a i : Nat) (b : Bool) : (setBitAt d a i b).pantry = d.pantry := rfl
@[simp] theorem setBitAt_acc (d : Dev) (a i : Nat) (b : Bool) : (setBitAt d a i b).acc = d.acc := rfl
@[simp] theorem setBitAt_accPar (d : Dev) (a i : Nat) (b : Bool) : (setBitAt d a i b).accPar = d.accPar := rfl
@[simp] theorem setBitAt_clauseStore (d : Dev) (a i : Nat) (b : Bool) : (setBitAt d a i b).clauseStore = d.clauseStore := rfl
@[simp] theorem setBitAt_clauseSeq (d : Dev) (a i : Nat) (b : Bool) : (setBitAt d a i b).clauseSeq = d.clauseSeq := rfl
@[simp] theorem setBitAt_slotTable (d : Dev) (a i : Nat) (b : Bool) : (setBitAt d a i b).slotTable = d.slotTable := rfl
@[simp] theorem setBitAt_portMap (d : Dev) (a i : Nat) (b : Bool) : (setBitAt d a i b).portMap = d.portMap := rfl
@[simp] theorem setBitAt_cores (d : Dev) (a i : Nat) (b : Bool) : (setBitAt d a i b).cores = d.cores := rfl
@[simp] theorem setBitAt_agents (d : Dev) (a i : Nat) (b : Bool) : (setBitAt d a i b).agents = d.agents := rfl
@[simp] theorem setBitAt_opens (d : Dev) (a i : Nat) (b : Bool) : (setBitAt d a i b).opens = d.opens := rfl
@[simp] theorem setBitAt_closes (d : Dev) (a i : Nat) (b : Bool) : (setBitAt d a i b).closes = d.closes := rfl
@[simp] theorem setBitAt_flits (d : Dev) (a i : Nat) (b : Bool) : (setBitAt d a i b).flits = d.flits := rfl
@[simp] theorem setBitAt_preReads (d : Dev) (a i : Nat) (b : Bool) : (setBitAt d a i b).preReads = d.preReads := rfl
@[simp] theorem setBitAt_deliveries (d : Dev) (a i : Nat) (b : Bool) : (setBitAt d a i b).deliveries = d.deliveries := rfl
@[simp] theorem setBitAt_shelfFlight (d : Dev) (a i : Nat) (b : Bool) : (setBitAt d a i b).shelfFlight = d.shelfFlight := rfl
@[simp] theorem setBitAt_hostHold (d : Dev) (a i : Nat) (b : Bool) : (setBitAt d a i b).hostHold = d.hostHold := rfl
@[simp] theorem setBitAt_doeHeld (d : Dev) (a i : Nat) (b : Bool) : (setBitAt d a i b).doeHeld = d.doeHeld := rfl
@[simp] theorem setBitAt_hostRds (d : Dev) (a i : Nat) (b : Bool) : (setBitAt d a i b).hostRds = d.hostRds := rfl
@[simp] theorem setBitAt_hostNo (d : Dev) (a i : Nat) (b : Bool) : (setBitAt d a i b).hostNo = d.hostNo := rfl
@[simp] theorem setBitAt_meshLatch (d : Dev) (a i : Nat) (b : Bool) : (setBitAt d a i b).meshLatch = d.meshLatch := rfl
@[simp] theorem setBitAt_tickOut (d : Dev) (a i : Nat) (b : Bool) : (setBitAt d a i b).tickOut = d.tickOut := rfl
@[simp] theorem setBitAt_guarded (d : Dev) (a i : Nat) (b : Bool) : (setBitAt d a i b).guarded = d.guarded := rfl
@[simp] theorem setBitAt_tickAt (d : Dev) (a i : Nat) (b : Bool) : (setBitAt d a i b).tickAt = d.tickAt := rfl
@[simp] theorem setBitAt_edgeAlign (d : Dev) (a i : Nat) (b : Bool) : (setBitAt d a i b).edgeAlign = d.edgeAlign := rfl
@[simp] theorem setBitAt_losePend (d : Dev) (a i : Nat) (b : Bool) : (setBitAt d a i b).losePend = d.losePend := rfl
@[simp] theorem setBitAt_keyTable (d : Dev) (a i : Nat) (b : Bool) : (setBitAt d a i b).keyTable = d.keyTable := rfl
@[simp] theorem setBitAt_cmap (d : Dev) (a i : Nat) (b : Bool) : (setBitAt d a i b).cmap = d.cmap := rfl
@[simp] theorem setBitAt_writebacks (d : Dev) (a i : Nat) (b : Bool) : (setBitAt d a i b).writebacks = d.writebacks := rfl
@[simp] theorem setBitAt_ccLast (d : Dev) (a i : Nat) (b : Bool) : (setBitAt d a i b).ccLast = d.ccLast := rfl
@[simp] theorem setBitAt_ceTime (d : Dev) (a i : Nat) (b : Bool) : (setBitAt d a i b).ceTime = d.ceTime := rfl
@[simp] theorem setBitAt_syncFlight (d : Dev) (a i : Nat) (b : Bool) : (setBitAt d a i b).syncFlight = d.syncFlight := rfl
@[simp] theorem setBitAt_waits (d : Dev) (a i : Nat) (b : Bool) : (setBitAt d a i b).waits = d.waits := rfl
@[simp] theorem setBitAt_syncOut (d : Dev) (a i : Nat) (b : Bool) : (setBitAt d a i b).syncOut = d.syncOut := rfl
@[simp] theorem setBitAt_cqQueue (d : Dev) (a i : Nat) (b : Bool) : (setBitAt d a i b).cqQueue = d.cqQueue := rfl
@[simp] theorem setBitAt_cqHeld (d : Dev) (a i : Nat) (b : Bool) : (setBitAt d a i b).cqHeld = d.cqHeld := rfl
@[simp] theorem setBitAt_upd (d : Dev) (a i : Nat) (b : Bool) : (setBitAt d a i b).upd = d.upd := rfl
@[simp] theorem setBitAt_res (d : Dev) (a i : Nat) (b : Bool) : (setBitAt d a i b).res = d.res := rfl
@[simp] theorem setBitAt_out (d : Dev) (a i : Nat) (b : Bool) : (setBitAt d a i b).out = d.out := rfl
@[simp] theorem setBitAt_fab (d : Dev) (a i : Nat) (b : Bool) : (setBitAt d a i b).fab = d.fab := rfl
@[simp] theorem setBitAt_meshInj (d : Dev) (a i : Nat) (b : Bool) : (setBitAt d a i b).meshInj = d.meshInj := rfl
@[simp] theorem setBitAt_pwr (d : Dev) (a i : Nat) (b : Bool) : (setBitAt d a i b).pwr = d.pwr := rfl
@[simp] theorem setBitAt_heat (d : Dev) (a i : Nat) (b : Bool) : (setBitAt d a i b).heat = d.heat := rfl
@[simp] theorem setBitAt_flt (d : Dev) (a i : Nat) (b : Bool) : (setBitAt d a i b).flt = d.flt := rfl
@[simp] theorem setBitAt_staged (d : Dev) (a i : Nat) (b : Bool) : (setBitAt d a i b).staged = d.staged := rfl
@[simp] theorem setBitAt_pkgs (d : Dev) (a i : Nat) (b : Bool) : (setBitAt d a i b).pkgs = d.pkgs := rfl
@[simp] theorem setBitAt_primary (d : Dev) (a i : Nat) (b : Bool) : (setBitAt d a i b).primary = d.primary := rfl
@[simp] theorem setBitAt_pan (d : Dev) (a i : Nat) (b : Bool) : (setBitAt d a i b).pan = d.pan := rfl
@[simp] theorem setBitAt_ctxKeys (d : Dev) (a i : Nat) (b : Bool) : (setBitAt d a i b).ctxKeys = d.ctxKeys := rfl
@[simp] theorem setBitAt_jtag (d : Dev) (a i : Nat) (b : Bool) : (setBitAt d a i b).jtag = d.jtag := rfl
@[simp] theorem setBitAt_attic (d : Dev) (a i : Nat) (b : Bool) : (setBitAt d a i b).attic = d.attic := rfl
@[simp] theorem setBitAt_boot (d : Dev) (a i : Nat) (b : Bool) : (setBitAt d a i b).boot = d.boot := rfl
@[simp] theorem setBitAt_volts (d : Dev) (a i : Nat) (b : Bool) : (setBitAt d a i b).volts = d.volts := rfl
@[simp] theorem setBitAt_aer (d : Dev) (a i : Nat) (b : Bool) : (setBitAt d a i b).aer = d.aer := rfl
@[simp] theorem setBitAt_cqPhase (d : Dev) (a i : Nat) (b : Bool) : (setBitAt d a i b).cqPhase = d.cqPhase := rfl
@[simp] theorem setBitAt_msixDue (d : Dev) (a i : Nat) (b : Bool) : (setBitAt d a i b).msixDue = d.msixDue := rfl
@[simp] theorem setBitAt_alert (d : Dev) (a i : Nat) (b : Bool) : (setBitAt d a i b).alert = d.alert := rfl
@[simp] theorem setBitAt_committedPoison (d : Dev) (a i : Nat) (b : Bool) : (setBitAt d a i b).committedPoison = d.committedPoison := rfl
@[simp] theorem setBitAt_manifestChunks (d : Dev) (a i : Nat) (b : Bool) : (setBitAt d a i b).manifestChunks = d.manifestChunks := rfl
@[simp] theorem setBitAt_recFlight (d : Dev) (a i : Nat) (b : Bool) : (setBitAt d a i b).recFlight = d.recFlight := rfl
@[simp] theorem setBitAt_recSeen (d : Dev) (a i : Nat) (b : Bool) : (setBitAt d a i b).recSeen = d.recSeen := rfl
@[simp] theorem setBitAt_rerunStep (d : Dev) (a i : Nat) (b : Bool) : (setBitAt d a i b).rerunStep = d.rerunStep := rfl
@[simp] theorem setBitAt_rerunUpd (d : Dev) (a i : Nat) (b : Bool) : (setBitAt d a i b).rerunUpd = d.rerunUpd := rfl
@[simp] theorem setBitAt_inStep (d : Dev) (a i : Nat) (b : Bool) : (setBitAt d a i b).inStep = d.inStep := rfl
@[simp] theorem setBitAt_originAt (d : Dev) (a i : Nat) (b : Bool) : (setBitAt d a i b).originAt = d.originAt := rfl

/- setWords -/

@[simp] theorem setWords_now (d : Dev) (a n v : Nat) : (setWords d a n v).now = d.now := foldl_keep Dev.now (fun d i => setR d (a + 4 * i) (v >>> (32 * i))) (fun _ _ => rfl) _ d
@[simp] theorem setWords_freshN (d : Dev) (a n v : Nat) : (setWords d a n v).freshN = d.freshN := foldl_keep Dev.freshN (fun d i => setR d (a + 4 * i) (v >>> (32 * i))) (fun _ _ => rfl) _ d
@[simp] theorem setWords_rowMeta (d : Dev) (a n v : Nat) : (setWords d a n v).rowMeta = d.rowMeta := foldl_keep Dev.rowMeta (fun d i => setR d (a + 4 * i) (v >>> (32 * i))) (fun _ _ => rfl) _ d
@[simp] theorem setWords_pantry (d : Dev) (a n v : Nat) : (setWords d a n v).pantry = d.pantry := foldl_keep Dev.pantry (fun d i => setR d (a + 4 * i) (v >>> (32 * i))) (fun _ _ => rfl) _ d
@[simp] theorem setWords_acc (d : Dev) (a n v : Nat) : (setWords d a n v).acc = d.acc := foldl_keep Dev.acc (fun d i => setR d (a + 4 * i) (v >>> (32 * i))) (fun _ _ => rfl) _ d
@[simp] theorem setWords_accPar (d : Dev) (a n v : Nat) : (setWords d a n v).accPar = d.accPar := foldl_keep Dev.accPar (fun d i => setR d (a + 4 * i) (v >>> (32 * i))) (fun _ _ => rfl) _ d
@[simp] theorem setWords_clauseStore (d : Dev) (a n v : Nat) : (setWords d a n v).clauseStore = d.clauseStore := foldl_keep Dev.clauseStore (fun d i => setR d (a + 4 * i) (v >>> (32 * i))) (fun _ _ => rfl) _ d
@[simp] theorem setWords_clauseSeq (d : Dev) (a n v : Nat) : (setWords d a n v).clauseSeq = d.clauseSeq := foldl_keep Dev.clauseSeq (fun d i => setR d (a + 4 * i) (v >>> (32 * i))) (fun _ _ => rfl) _ d
@[simp] theorem setWords_slotTable (d : Dev) (a n v : Nat) : (setWords d a n v).slotTable = d.slotTable := foldl_keep Dev.slotTable (fun d i => setR d (a + 4 * i) (v >>> (32 * i))) (fun _ _ => rfl) _ d
@[simp] theorem setWords_portMap (d : Dev) (a n v : Nat) : (setWords d a n v).portMap = d.portMap := foldl_keep Dev.portMap (fun d i => setR d (a + 4 * i) (v >>> (32 * i))) (fun _ _ => rfl) _ d
@[simp] theorem setWords_cores (d : Dev) (a n v : Nat) : (setWords d a n v).cores = d.cores := foldl_keep Dev.cores (fun d i => setR d (a + 4 * i) (v >>> (32 * i))) (fun _ _ => rfl) _ d
@[simp] theorem setWords_agents (d : Dev) (a n v : Nat) : (setWords d a n v).agents = d.agents := foldl_keep Dev.agents (fun d i => setR d (a + 4 * i) (v >>> (32 * i))) (fun _ _ => rfl) _ d
@[simp] theorem setWords_opens (d : Dev) (a n v : Nat) : (setWords d a n v).opens = d.opens := foldl_keep Dev.opens (fun d i => setR d (a + 4 * i) (v >>> (32 * i))) (fun _ _ => rfl) _ d
@[simp] theorem setWords_closes (d : Dev) (a n v : Nat) : (setWords d a n v).closes = d.closes := foldl_keep Dev.closes (fun d i => setR d (a + 4 * i) (v >>> (32 * i))) (fun _ _ => rfl) _ d
@[simp] theorem setWords_flits (d : Dev) (a n v : Nat) : (setWords d a n v).flits = d.flits := foldl_keep Dev.flits (fun d i => setR d (a + 4 * i) (v >>> (32 * i))) (fun _ _ => rfl) _ d
@[simp] theorem setWords_preReads (d : Dev) (a n v : Nat) : (setWords d a n v).preReads = d.preReads := foldl_keep Dev.preReads (fun d i => setR d (a + 4 * i) (v >>> (32 * i))) (fun _ _ => rfl) _ d
@[simp] theorem setWords_deliveries (d : Dev) (a n v : Nat) : (setWords d a n v).deliveries = d.deliveries := foldl_keep Dev.deliveries (fun d i => setR d (a + 4 * i) (v >>> (32 * i))) (fun _ _ => rfl) _ d
@[simp] theorem setWords_shelfFlight (d : Dev) (a n v : Nat) : (setWords d a n v).shelfFlight = d.shelfFlight := foldl_keep Dev.shelfFlight (fun d i => setR d (a + 4 * i) (v >>> (32 * i))) (fun _ _ => rfl) _ d
@[simp] theorem setWords_hostHold (d : Dev) (a n v : Nat) : (setWords d a n v).hostHold = d.hostHold := foldl_keep Dev.hostHold (fun d i => setR d (a + 4 * i) (v >>> (32 * i))) (fun _ _ => rfl) _ d
@[simp] theorem setWords_doeHeld (d : Dev) (a n v : Nat) : (setWords d a n v).doeHeld = d.doeHeld := foldl_keep Dev.doeHeld (fun d i => setR d (a + 4 * i) (v >>> (32 * i))) (fun _ _ => rfl) _ d
@[simp] theorem setWords_hostRds (d : Dev) (a n v : Nat) : (setWords d a n v).hostRds = d.hostRds := foldl_keep Dev.hostRds (fun d i => setR d (a + 4 * i) (v >>> (32 * i))) (fun _ _ => rfl) _ d
@[simp] theorem setWords_hostNo (d : Dev) (a n v : Nat) : (setWords d a n v).hostNo = d.hostNo := foldl_keep Dev.hostNo (fun d i => setR d (a + 4 * i) (v >>> (32 * i))) (fun _ _ => rfl) _ d
@[simp] theorem setWords_meshLatch (d : Dev) (a n v : Nat) : (setWords d a n v).meshLatch = d.meshLatch := foldl_keep Dev.meshLatch (fun d i => setR d (a + 4 * i) (v >>> (32 * i))) (fun _ _ => rfl) _ d
@[simp] theorem setWords_tickOut (d : Dev) (a n v : Nat) : (setWords d a n v).tickOut = d.tickOut := foldl_keep Dev.tickOut (fun d i => setR d (a + 4 * i) (v >>> (32 * i))) (fun _ _ => rfl) _ d
@[simp] theorem setWords_guarded (d : Dev) (a n v : Nat) : (setWords d a n v).guarded = d.guarded := foldl_keep Dev.guarded (fun d i => setR d (a + 4 * i) (v >>> (32 * i))) (fun _ _ => rfl) _ d
@[simp] theorem setWords_tickAt (d : Dev) (a n v : Nat) : (setWords d a n v).tickAt = d.tickAt := foldl_keep Dev.tickAt (fun d i => setR d (a + 4 * i) (v >>> (32 * i))) (fun _ _ => rfl) _ d
@[simp] theorem setWords_edgeAlign (d : Dev) (a n v : Nat) : (setWords d a n v).edgeAlign = d.edgeAlign := foldl_keep Dev.edgeAlign (fun d i => setR d (a + 4 * i) (v >>> (32 * i))) (fun _ _ => rfl) _ d
@[simp] theorem setWords_losePend (d : Dev) (a n v : Nat) : (setWords d a n v).losePend = d.losePend := foldl_keep Dev.losePend (fun d i => setR d (a + 4 * i) (v >>> (32 * i))) (fun _ _ => rfl) _ d
@[simp] theorem setWords_keyTable (d : Dev) (a n v : Nat) : (setWords d a n v).keyTable = d.keyTable := foldl_keep Dev.keyTable (fun d i => setR d (a + 4 * i) (v >>> (32 * i))) (fun _ _ => rfl) _ d
@[simp] theorem setWords_cmap (d : Dev) (a n v : Nat) : (setWords d a n v).cmap = d.cmap := foldl_keep Dev.cmap (fun d i => setR d (a + 4 * i) (v >>> (32 * i))) (fun _ _ => rfl) _ d
@[simp] theorem setWords_writebacks (d : Dev) (a n v : Nat) : (setWords d a n v).writebacks = d.writebacks := foldl_keep Dev.writebacks (fun d i => setR d (a + 4 * i) (v >>> (32 * i))) (fun _ _ => rfl) _ d
@[simp] theorem setWords_ccLast (d : Dev) (a n v : Nat) : (setWords d a n v).ccLast = d.ccLast := foldl_keep Dev.ccLast (fun d i => setR d (a + 4 * i) (v >>> (32 * i))) (fun _ _ => rfl) _ d
@[simp] theorem setWords_ceTime (d : Dev) (a n v : Nat) : (setWords d a n v).ceTime = d.ceTime := foldl_keep Dev.ceTime (fun d i => setR d (a + 4 * i) (v >>> (32 * i))) (fun _ _ => rfl) _ d
@[simp] theorem setWords_syncFlight (d : Dev) (a n v : Nat) : (setWords d a n v).syncFlight = d.syncFlight := foldl_keep Dev.syncFlight (fun d i => setR d (a + 4 * i) (v >>> (32 * i))) (fun _ _ => rfl) _ d
@[simp] theorem setWords_waits (d : Dev) (a n v : Nat) : (setWords d a n v).waits = d.waits := foldl_keep Dev.waits (fun d i => setR d (a + 4 * i) (v >>> (32 * i))) (fun _ _ => rfl) _ d
@[simp] theorem setWords_syncOut (d : Dev) (a n v : Nat) : (setWords d a n v).syncOut = d.syncOut := foldl_keep Dev.syncOut (fun d i => setR d (a + 4 * i) (v >>> (32 * i))) (fun _ _ => rfl) _ d
@[simp] theorem setWords_cqQueue (d : Dev) (a n v : Nat) : (setWords d a n v).cqQueue = d.cqQueue := foldl_keep Dev.cqQueue (fun d i => setR d (a + 4 * i) (v >>> (32 * i))) (fun _ _ => rfl) _ d
@[simp] theorem setWords_cqHeld (d : Dev) (a n v : Nat) : (setWords d a n v).cqHeld = d.cqHeld := foldl_keep Dev.cqHeld (fun d i => setR d (a + 4 * i) (v >>> (32 * i))) (fun _ _ => rfl) _ d
@[simp] theorem setWords_upd (d : Dev) (a n v : Nat) : (setWords d a n v).upd = d.upd := foldl_keep Dev.upd (fun d i => setR d (a + 4 * i) (v >>> (32 * i))) (fun _ _ => rfl) _ d
@[simp] theorem setWords_res (d : Dev) (a n v : Nat) : (setWords d a n v).res = d.res := foldl_keep Dev.res (fun d i => setR d (a + 4 * i) (v >>> (32 * i))) (fun _ _ => rfl) _ d
@[simp] theorem setWords_out (d : Dev) (a n v : Nat) : (setWords d a n v).out = d.out := foldl_keep Dev.out (fun d i => setR d (a + 4 * i) (v >>> (32 * i))) (fun _ _ => rfl) _ d
@[simp] theorem setWords_fab (d : Dev) (a n v : Nat) : (setWords d a n v).fab = d.fab := foldl_keep Dev.fab (fun d i => setR d (a + 4 * i) (v >>> (32 * i))) (fun _ _ => rfl) _ d
@[simp] theorem setWords_meshInj (d : Dev) (a n v : Nat) : (setWords d a n v).meshInj = d.meshInj := foldl_keep Dev.meshInj (fun d i => setR d (a + 4 * i) (v >>> (32 * i))) (fun _ _ => rfl) _ d
@[simp] theorem setWords_pwr (d : Dev) (a n v : Nat) : (setWords d a n v).pwr = d.pwr := foldl_keep Dev.pwr (fun d i => setR d (a + 4 * i) (v >>> (32 * i))) (fun _ _ => rfl) _ d
@[simp] theorem setWords_heat (d : Dev) (a n v : Nat) : (setWords d a n v).heat = d.heat := foldl_keep Dev.heat (fun d i => setR d (a + 4 * i) (v >>> (32 * i))) (fun _ _ => rfl) _ d
@[simp] theorem setWords_flt (d : Dev) (a n v : Nat) : (setWords d a n v).flt = d.flt := foldl_keep Dev.flt (fun d i => setR d (a + 4 * i) (v >>> (32 * i))) (fun _ _ => rfl) _ d
@[simp] theorem setWords_staged (d : Dev) (a n v : Nat) : (setWords d a n v).staged = d.staged := foldl_keep Dev.staged (fun d i => setR d (a + 4 * i) (v >>> (32 * i))) (fun _ _ => rfl) _ d
@[simp] theorem setWords_pkgs (d : Dev) (a n v : Nat) : (setWords d a n v).pkgs = d.pkgs := foldl_keep Dev.pkgs (fun d i => setR d (a + 4 * i) (v >>> (32 * i))) (fun _ _ => rfl) _ d
@[simp] theorem setWords_primary (d : Dev) (a n v : Nat) : (setWords d a n v).primary = d.primary := foldl_keep Dev.primary (fun d i => setR d (a + 4 * i) (v >>> (32 * i))) (fun _ _ => rfl) _ d
@[simp] theorem setWords_pan (d : Dev) (a n v : Nat) : (setWords d a n v).pan = d.pan := foldl_keep Dev.pan (fun d i => setR d (a + 4 * i) (v >>> (32 * i))) (fun _ _ => rfl) _ d
@[simp] theorem setWords_ctxKeys (d : Dev) (a n v : Nat) : (setWords d a n v).ctxKeys = d.ctxKeys := foldl_keep Dev.ctxKeys (fun d i => setR d (a + 4 * i) (v >>> (32 * i))) (fun _ _ => rfl) _ d
@[simp] theorem setWords_jtag (d : Dev) (a n v : Nat) : (setWords d a n v).jtag = d.jtag := foldl_keep Dev.jtag (fun d i => setR d (a + 4 * i) (v >>> (32 * i))) (fun _ _ => rfl) _ d
@[simp] theorem setWords_attic (d : Dev) (a n v : Nat) : (setWords d a n v).attic = d.attic := foldl_keep Dev.attic (fun d i => setR d (a + 4 * i) (v >>> (32 * i))) (fun _ _ => rfl) _ d
@[simp] theorem setWords_boot (d : Dev) (a n v : Nat) : (setWords d a n v).boot = d.boot := foldl_keep Dev.boot (fun d i => setR d (a + 4 * i) (v >>> (32 * i))) (fun _ _ => rfl) _ d
@[simp] theorem setWords_volts (d : Dev) (a n v : Nat) : (setWords d a n v).volts = d.volts := foldl_keep Dev.volts (fun d i => setR d (a + 4 * i) (v >>> (32 * i))) (fun _ _ => rfl) _ d
@[simp] theorem setWords_aer (d : Dev) (a n v : Nat) : (setWords d a n v).aer = d.aer := foldl_keep Dev.aer (fun d i => setR d (a + 4 * i) (v >>> (32 * i))) (fun _ _ => rfl) _ d
@[simp] theorem setWords_cqPhase (d : Dev) (a n v : Nat) : (setWords d a n v).cqPhase = d.cqPhase := foldl_keep Dev.cqPhase (fun d i => setR d (a + 4 * i) (v >>> (32 * i))) (fun _ _ => rfl) _ d
@[simp] theorem setWords_msixDue (d : Dev) (a n v : Nat) : (setWords d a n v).msixDue = d.msixDue := foldl_keep Dev.msixDue (fun d i => setR d (a + 4 * i) (v >>> (32 * i))) (fun _ _ => rfl) _ d
@[simp] theorem setWords_alert (d : Dev) (a n v : Nat) : (setWords d a n v).alert = d.alert := foldl_keep Dev.alert (fun d i => setR d (a + 4 * i) (v >>> (32 * i))) (fun _ _ => rfl) _ d
@[simp] theorem setWords_committedPoison (d : Dev) (a n v : Nat) : (setWords d a n v).committedPoison = d.committedPoison := foldl_keep Dev.committedPoison (fun d i => setR d (a + 4 * i) (v >>> (32 * i))) (fun _ _ => rfl) _ d
@[simp] theorem setWords_manifestChunks (d : Dev) (a n v : Nat) : (setWords d a n v).manifestChunks = d.manifestChunks := foldl_keep Dev.manifestChunks (fun d i => setR d (a + 4 * i) (v >>> (32 * i))) (fun _ _ => rfl) _ d
@[simp] theorem setWords_recFlight (d : Dev) (a n v : Nat) : (setWords d a n v).recFlight = d.recFlight := foldl_keep Dev.recFlight (fun d i => setR d (a + 4 * i) (v >>> (32 * i))) (fun _ _ => rfl) _ d
@[simp] theorem setWords_recSeen (d : Dev) (a n v : Nat) : (setWords d a n v).recSeen = d.recSeen := foldl_keep Dev.recSeen (fun d i => setR d (a + 4 * i) (v >>> (32 * i))) (fun _ _ => rfl) _ d
@[simp] theorem setWords_rerunStep (d : Dev) (a n v : Nat) : (setWords d a n v).rerunStep = d.rerunStep := foldl_keep Dev.rerunStep (fun d i => setR d (a + 4 * i) (v >>> (32 * i))) (fun _ _ => rfl) _ d
@[simp] theorem setWords_rerunUpd (d : Dev) (a n v : Nat) : (setWords d a n v).rerunUpd = d.rerunUpd := foldl_keep Dev.rerunUpd (fun d i => setR d (a + 4 * i) (v >>> (32 * i))) (fun _ _ => rfl) _ d
@[simp] theorem setWords_inStep (d : Dev) (a n v : Nat) : (setWords d a n v).inStep = d.inStep := foldl_keep Dev.inStep (fun d i => setR d (a + 4 * i) (v >>> (32 * i))) (fun _ _ => rfl) _ d
@[simp] theorem setWords_originAt (d : Dev) (a n v : Nat) : (setWords d a n v).originAt = d.originAt := foldl_keep Dev.originAt (fun d i => setR d (a + 4 * i) (v >>> (32 * i))) (fun _ _ => rfl) _ d

/- writeMem -/

@[simp] theorem writeMem_now (d : Dev) (a n v : Nat) : (writeMem d a n v).now = d.now := rfl
@[simp] theorem writeMem_freshN (d : Dev) (a n v : Nat) : (writeMem d a n v).freshN = d.freshN := rfl
@[simp] theorem writeMem_regs (d : Dev) (a n v : Nat) : (writeMem d a n v).regs = d.regs := rfl
@[simp] theorem writeMem_rowMeta (d : Dev) (a n v : Nat) : (writeMem d a n v).rowMeta = d.rowMeta := rfl
@[simp] theorem writeMem_pantry (d : Dev) (a n v : Nat) : (writeMem d a n v).pantry = d.pantry := rfl
@[simp] theorem writeMem_acc (d : Dev) (a n v : Nat) : (writeMem d a n v).acc = d.acc := rfl
@[simp] theorem writeMem_accPar (d : Dev) (a n v : Nat) : (writeMem d a n v).accPar = d.accPar := rfl
@[simp] theorem writeMem_clauseStore (d : Dev) (a n v : Nat) : (writeMem d a n v).clauseStore = d.clauseStore := rfl
@[simp] theorem writeMem_clauseSeq (d : Dev) (a n v : Nat) : (writeMem d a n v).clauseSeq = d.clauseSeq := rfl
@[simp] theorem writeMem_slotTable (d : Dev) (a n v : Nat) : (writeMem d a n v).slotTable = d.slotTable := rfl
@[simp] theorem writeMem_portMap (d : Dev) (a n v : Nat) : (writeMem d a n v).portMap = d.portMap := rfl
@[simp] theorem writeMem_cores (d : Dev) (a n v : Nat) : (writeMem d a n v).cores = d.cores := rfl
@[simp] theorem writeMem_agents (d : Dev) (a n v : Nat) : (writeMem d a n v).agents = d.agents := rfl
@[simp] theorem writeMem_opens (d : Dev) (a n v : Nat) : (writeMem d a n v).opens = d.opens := rfl
@[simp] theorem writeMem_closes (d : Dev) (a n v : Nat) : (writeMem d a n v).closes = d.closes := rfl
@[simp] theorem writeMem_flits (d : Dev) (a n v : Nat) : (writeMem d a n v).flits = d.flits := rfl
@[simp] theorem writeMem_preReads (d : Dev) (a n v : Nat) : (writeMem d a n v).preReads = d.preReads := rfl
@[simp] theorem writeMem_deliveries (d : Dev) (a n v : Nat) : (writeMem d a n v).deliveries = d.deliveries := rfl
@[simp] theorem writeMem_shelfFlight (d : Dev) (a n v : Nat) : (writeMem d a n v).shelfFlight = d.shelfFlight := rfl
@[simp] theorem writeMem_hostHold (d : Dev) (a n v : Nat) : (writeMem d a n v).hostHold = d.hostHold := rfl
@[simp] theorem writeMem_doeHeld (d : Dev) (a n v : Nat) : (writeMem d a n v).doeHeld = d.doeHeld := rfl
@[simp] theorem writeMem_hostRds (d : Dev) (a n v : Nat) : (writeMem d a n v).hostRds = d.hostRds := rfl
@[simp] theorem writeMem_hostNo (d : Dev) (a n v : Nat) : (writeMem d a n v).hostNo = d.hostNo := rfl
@[simp] theorem writeMem_meshLatch (d : Dev) (a n v : Nat) : (writeMem d a n v).meshLatch = d.meshLatch := rfl
@[simp] theorem writeMem_tickOut (d : Dev) (a n v : Nat) : (writeMem d a n v).tickOut = d.tickOut := rfl
@[simp] theorem writeMem_guarded (d : Dev) (a n v : Nat) : (writeMem d a n v).guarded = d.guarded := rfl
@[simp] theorem writeMem_tickAt (d : Dev) (a n v : Nat) : (writeMem d a n v).tickAt = d.tickAt := rfl
@[simp] theorem writeMem_edgeAlign (d : Dev) (a n v : Nat) : (writeMem d a n v).edgeAlign = d.edgeAlign := rfl
@[simp] theorem writeMem_losePend (d : Dev) (a n v : Nat) : (writeMem d a n v).losePend = d.losePend := rfl
@[simp] theorem writeMem_keyTable (d : Dev) (a n v : Nat) : (writeMem d a n v).keyTable = d.keyTable := rfl
@[simp] theorem writeMem_cmap (d : Dev) (a n v : Nat) : (writeMem d a n v).cmap = d.cmap := rfl
@[simp] theorem writeMem_writebacks (d : Dev) (a n v : Nat) : (writeMem d a n v).writebacks = d.writebacks := rfl
@[simp] theorem writeMem_ccLast (d : Dev) (a n v : Nat) : (writeMem d a n v).ccLast = d.ccLast := rfl
@[simp] theorem writeMem_ceTime (d : Dev) (a n v : Nat) : (writeMem d a n v).ceTime = d.ceTime := rfl
@[simp] theorem writeMem_syncFlight (d : Dev) (a n v : Nat) : (writeMem d a n v).syncFlight = d.syncFlight := rfl
@[simp] theorem writeMem_waits (d : Dev) (a n v : Nat) : (writeMem d a n v).waits = d.waits := rfl
@[simp] theorem writeMem_syncOut (d : Dev) (a n v : Nat) : (writeMem d a n v).syncOut = d.syncOut := rfl
@[simp] theorem writeMem_cqQueue (d : Dev) (a n v : Nat) : (writeMem d a n v).cqQueue = d.cqQueue := rfl
@[simp] theorem writeMem_cqHeld (d : Dev) (a n v : Nat) : (writeMem d a n v).cqHeld = d.cqHeld := rfl
@[simp] theorem writeMem_upd (d : Dev) (a n v : Nat) : (writeMem d a n v).upd = d.upd := rfl
@[simp] theorem writeMem_res (d : Dev) (a n v : Nat) : (writeMem d a n v).res = d.res := rfl
@[simp] theorem writeMem_out (d : Dev) (a n v : Nat) : (writeMem d a n v).out = d.out := rfl
@[simp] theorem writeMem_fab (d : Dev) (a n v : Nat) : (writeMem d a n v).fab = d.fab := rfl
@[simp] theorem writeMem_meshInj (d : Dev) (a n v : Nat) : (writeMem d a n v).meshInj = d.meshInj := rfl
@[simp] theorem writeMem_pwr (d : Dev) (a n v : Nat) : (writeMem d a n v).pwr = d.pwr := rfl
@[simp] theorem writeMem_heat (d : Dev) (a n v : Nat) : (writeMem d a n v).heat = d.heat := rfl
@[simp] theorem writeMem_flt (d : Dev) (a n v : Nat) : (writeMem d a n v).flt = d.flt := rfl
@[simp] theorem writeMem_staged (d : Dev) (a n v : Nat) : (writeMem d a n v).staged = d.staged := rfl
@[simp] theorem writeMem_pkgs (d : Dev) (a n v : Nat) : (writeMem d a n v).pkgs = d.pkgs := rfl
@[simp] theorem writeMem_primary (d : Dev) (a n v : Nat) : (writeMem d a n v).primary = d.primary := rfl
@[simp] theorem writeMem_pan (d : Dev) (a n v : Nat) : (writeMem d a n v).pan = d.pan := rfl
@[simp] theorem writeMem_ctxKeys (d : Dev) (a n v : Nat) : (writeMem d a n v).ctxKeys = d.ctxKeys := rfl
@[simp] theorem writeMem_jtag (d : Dev) (a n v : Nat) : (writeMem d a n v).jtag = d.jtag := rfl
@[simp] theorem writeMem_attic (d : Dev) (a n v : Nat) : (writeMem d a n v).attic = d.attic := rfl
@[simp] theorem writeMem_boot (d : Dev) (a n v : Nat) : (writeMem d a n v).boot = d.boot := rfl
@[simp] theorem writeMem_volts (d : Dev) (a n v : Nat) : (writeMem d a n v).volts = d.volts := rfl
@[simp] theorem writeMem_aer (d : Dev) (a n v : Nat) : (writeMem d a n v).aer = d.aer := rfl
@[simp] theorem writeMem_cqPhase (d : Dev) (a n v : Nat) : (writeMem d a n v).cqPhase = d.cqPhase := rfl
@[simp] theorem writeMem_msixDue (d : Dev) (a n v : Nat) : (writeMem d a n v).msixDue = d.msixDue := rfl
@[simp] theorem writeMem_alert (d : Dev) (a n v : Nat) : (writeMem d a n v).alert = d.alert := rfl
@[simp] theorem writeMem_committedPoison (d : Dev) (a n v : Nat) : (writeMem d a n v).committedPoison = d.committedPoison := rfl
@[simp] theorem writeMem_manifestChunks (d : Dev) (a n v : Nat) : (writeMem d a n v).manifestChunks = d.manifestChunks := rfl
@[simp] theorem writeMem_recFlight (d : Dev) (a n v : Nat) : (writeMem d a n v).recFlight = d.recFlight := rfl
@[simp] theorem writeMem_recSeen (d : Dev) (a n v : Nat) : (writeMem d a n v).recSeen = d.recSeen := rfl
@[simp] theorem writeMem_rerunStep (d : Dev) (a n v : Nat) : (writeMem d a n v).rerunStep = d.rerunStep := rfl
@[simp] theorem writeMem_rerunUpd (d : Dev) (a n v : Nat) : (writeMem d a n v).rerunUpd = d.rerunUpd := rfl
@[simp] theorem writeMem_inStep (d : Dev) (a n v : Nat) : (writeMem d a n v).inStep = d.inStep := rfl
@[simp] theorem writeMem_originAt (d : Dev) (a n v : Nat) : (writeMem d a n v).originAt = d.originAt := rfl

/- setMeta -/

@[simp] theorem setMeta_now (d : Dev) (a : Nat) (m : RowMeta) : (setMeta d a m).now = d.now := rfl
@[simp] theorem setMeta_freshN (d : Dev) (a : Nat) (m : RowMeta) : (setMeta d a m).freshN = d.freshN := rfl
@[simp] theorem setMeta_regs (d : Dev) (a : Nat) (m : RowMeta) : (setMeta d a m).regs = d.regs := rfl
@[simp] theorem setMeta_pantry (d : Dev) (a : Nat) (m : RowMeta) : (setMeta d a m).pantry = d.pantry := rfl
@[simp] theorem setMeta_acc (d : Dev) (a : Nat) (m : RowMeta) : (setMeta d a m).acc = d.acc := rfl
@[simp] theorem setMeta_accPar (d : Dev) (a : Nat) (m : RowMeta) : (setMeta d a m).accPar = d.accPar := rfl
@[simp] theorem setMeta_clauseStore (d : Dev) (a : Nat) (m : RowMeta) : (setMeta d a m).clauseStore = d.clauseStore := rfl
@[simp] theorem setMeta_clauseSeq (d : Dev) (a : Nat) (m : RowMeta) : (setMeta d a m).clauseSeq = d.clauseSeq := rfl
@[simp] theorem setMeta_slotTable (d : Dev) (a : Nat) (m : RowMeta) : (setMeta d a m).slotTable = d.slotTable := rfl
@[simp] theorem setMeta_portMap (d : Dev) (a : Nat) (m : RowMeta) : (setMeta d a m).portMap = d.portMap := rfl
@[simp] theorem setMeta_cores (d : Dev) (a : Nat) (m : RowMeta) : (setMeta d a m).cores = d.cores := rfl
@[simp] theorem setMeta_agents (d : Dev) (a : Nat) (m : RowMeta) : (setMeta d a m).agents = d.agents := rfl
@[simp] theorem setMeta_opens (d : Dev) (a : Nat) (m : RowMeta) : (setMeta d a m).opens = d.opens := rfl
@[simp] theorem setMeta_closes (d : Dev) (a : Nat) (m : RowMeta) : (setMeta d a m).closes = d.closes := rfl
@[simp] theorem setMeta_flits (d : Dev) (a : Nat) (m : RowMeta) : (setMeta d a m).flits = d.flits := rfl
@[simp] theorem setMeta_preReads (d : Dev) (a : Nat) (m : RowMeta) : (setMeta d a m).preReads = d.preReads := rfl
@[simp] theorem setMeta_deliveries (d : Dev) (a : Nat) (m : RowMeta) : (setMeta d a m).deliveries = d.deliveries := rfl
@[simp] theorem setMeta_shelfFlight (d : Dev) (a : Nat) (m : RowMeta) : (setMeta d a m).shelfFlight = d.shelfFlight := rfl
@[simp] theorem setMeta_hostHold (d : Dev) (a : Nat) (m : RowMeta) : (setMeta d a m).hostHold = d.hostHold := rfl
@[simp] theorem setMeta_doeHeld (d : Dev) (a : Nat) (m : RowMeta) : (setMeta d a m).doeHeld = d.doeHeld := rfl
@[simp] theorem setMeta_hostRds (d : Dev) (a : Nat) (m : RowMeta) : (setMeta d a m).hostRds = d.hostRds := rfl
@[simp] theorem setMeta_hostNo (d : Dev) (a : Nat) (m : RowMeta) : (setMeta d a m).hostNo = d.hostNo := rfl
@[simp] theorem setMeta_meshLatch (d : Dev) (a : Nat) (m : RowMeta) : (setMeta d a m).meshLatch = d.meshLatch := rfl
@[simp] theorem setMeta_tickOut (d : Dev) (a : Nat) (m : RowMeta) : (setMeta d a m).tickOut = d.tickOut := rfl
@[simp] theorem setMeta_guarded (d : Dev) (a : Nat) (m : RowMeta) : (setMeta d a m).guarded = d.guarded := rfl
@[simp] theorem setMeta_tickAt (d : Dev) (a : Nat) (m : RowMeta) : (setMeta d a m).tickAt = d.tickAt := rfl
@[simp] theorem setMeta_edgeAlign (d : Dev) (a : Nat) (m : RowMeta) : (setMeta d a m).edgeAlign = d.edgeAlign := rfl
@[simp] theorem setMeta_losePend (d : Dev) (a : Nat) (m : RowMeta) : (setMeta d a m).losePend = d.losePend := rfl
@[simp] theorem setMeta_keyTable (d : Dev) (a : Nat) (m : RowMeta) : (setMeta d a m).keyTable = d.keyTable := rfl
@[simp] theorem setMeta_cmap (d : Dev) (a : Nat) (m : RowMeta) : (setMeta d a m).cmap = d.cmap := rfl
@[simp] theorem setMeta_writebacks (d : Dev) (a : Nat) (m : RowMeta) : (setMeta d a m).writebacks = d.writebacks := rfl
@[simp] theorem setMeta_ccLast (d : Dev) (a : Nat) (m : RowMeta) : (setMeta d a m).ccLast = d.ccLast := rfl
@[simp] theorem setMeta_ceTime (d : Dev) (a : Nat) (m : RowMeta) : (setMeta d a m).ceTime = d.ceTime := rfl
@[simp] theorem setMeta_syncFlight (d : Dev) (a : Nat) (m : RowMeta) : (setMeta d a m).syncFlight = d.syncFlight := rfl
@[simp] theorem setMeta_waits (d : Dev) (a : Nat) (m : RowMeta) : (setMeta d a m).waits = d.waits := rfl
@[simp] theorem setMeta_syncOut (d : Dev) (a : Nat) (m : RowMeta) : (setMeta d a m).syncOut = d.syncOut := rfl
@[simp] theorem setMeta_cqQueue (d : Dev) (a : Nat) (m : RowMeta) : (setMeta d a m).cqQueue = d.cqQueue := rfl
@[simp] theorem setMeta_cqHeld (d : Dev) (a : Nat) (m : RowMeta) : (setMeta d a m).cqHeld = d.cqHeld := rfl
@[simp] theorem setMeta_upd (d : Dev) (a : Nat) (m : RowMeta) : (setMeta d a m).upd = d.upd := rfl
@[simp] theorem setMeta_res (d : Dev) (a : Nat) (m : RowMeta) : (setMeta d a m).res = d.res := rfl
@[simp] theorem setMeta_out (d : Dev) (a : Nat) (m : RowMeta) : (setMeta d a m).out = d.out := rfl
@[simp] theorem setMeta_fab (d : Dev) (a : Nat) (m : RowMeta) : (setMeta d a m).fab = d.fab := rfl
@[simp] theorem setMeta_meshInj (d : Dev) (a : Nat) (m : RowMeta) : (setMeta d a m).meshInj = d.meshInj := rfl
@[simp] theorem setMeta_pwr (d : Dev) (a : Nat) (m : RowMeta) : (setMeta d a m).pwr = d.pwr := rfl
@[simp] theorem setMeta_heat (d : Dev) (a : Nat) (m : RowMeta) : (setMeta d a m).heat = d.heat := rfl
@[simp] theorem setMeta_flt (d : Dev) (a : Nat) (m : RowMeta) : (setMeta d a m).flt = d.flt := rfl
@[simp] theorem setMeta_staged (d : Dev) (a : Nat) (m : RowMeta) : (setMeta d a m).staged = d.staged := rfl
@[simp] theorem setMeta_pkgs (d : Dev) (a : Nat) (m : RowMeta) : (setMeta d a m).pkgs = d.pkgs := rfl
@[simp] theorem setMeta_primary (d : Dev) (a : Nat) (m : RowMeta) : (setMeta d a m).primary = d.primary := rfl
@[simp] theorem setMeta_pan (d : Dev) (a : Nat) (m : RowMeta) : (setMeta d a m).pan = d.pan := rfl
@[simp] theorem setMeta_ctxKeys (d : Dev) (a : Nat) (m : RowMeta) : (setMeta d a m).ctxKeys = d.ctxKeys := rfl
@[simp] theorem setMeta_jtag (d : Dev) (a : Nat) (m : RowMeta) : (setMeta d a m).jtag = d.jtag := rfl
@[simp] theorem setMeta_attic (d : Dev) (a : Nat) (m : RowMeta) : (setMeta d a m).attic = d.attic := rfl
@[simp] theorem setMeta_boot (d : Dev) (a : Nat) (m : RowMeta) : (setMeta d a m).boot = d.boot := rfl
@[simp] theorem setMeta_volts (d : Dev) (a : Nat) (m : RowMeta) : (setMeta d a m).volts = d.volts := rfl
@[simp] theorem setMeta_aer (d : Dev) (a : Nat) (m : RowMeta) : (setMeta d a m).aer = d.aer := rfl
@[simp] theorem setMeta_cqPhase (d : Dev) (a : Nat) (m : RowMeta) : (setMeta d a m).cqPhase = d.cqPhase := rfl
@[simp] theorem setMeta_msixDue (d : Dev) (a : Nat) (m : RowMeta) : (setMeta d a m).msixDue = d.msixDue := rfl
@[simp] theorem setMeta_alert (d : Dev) (a : Nat) (m : RowMeta) : (setMeta d a m).alert = d.alert := rfl
@[simp] theorem setMeta_committedPoison (d : Dev) (a : Nat) (m : RowMeta) : (setMeta d a m).committedPoison = d.committedPoison := rfl
@[simp] theorem setMeta_manifestChunks (d : Dev) (a : Nat) (m : RowMeta) : (setMeta d a m).manifestChunks = d.manifestChunks := rfl
@[simp] theorem setMeta_recFlight (d : Dev) (a : Nat) (m : RowMeta) : (setMeta d a m).recFlight = d.recFlight := rfl
@[simp] theorem setMeta_recSeen (d : Dev) (a : Nat) (m : RowMeta) : (setMeta d a m).recSeen = d.recSeen := rfl
@[simp] theorem setMeta_rerunStep (d : Dev) (a : Nat) (m : RowMeta) : (setMeta d a m).rerunStep = d.rerunStep := rfl
@[simp] theorem setMeta_rerunUpd (d : Dev) (a : Nat) (m : RowMeta) : (setMeta d a m).rerunUpd = d.rerunUpd := rfl
@[simp] theorem setMeta_inStep (d : Dev) (a : Nat) (m : RowMeta) : (setMeta d a m).inStep = d.inStep := rfl
@[simp] theorem setMeta_originAt (d : Dev) (a : Nat) (m : RowMeta) : (setMeta d a m).originAt = d.originAt := rfl

/- putRow -/

@[simp] theorem putRow_now (d : Dev) (a : Nat) (v : Row) (p : Bool) (h : BitVec 64) : (putRow d a v p h).now = d.now := rfl
@[simp] theorem putRow_freshN (d : Dev) (a : Nat) (v : Row) (p : Bool) (h : BitVec 64) : (putRow d a v p h).freshN = d.freshN := rfl
@[simp] theorem putRow_regs (d : Dev) (a : Nat) (v : Row) (p : Bool) (h : BitVec 64) : (putRow d a v p h).regs = d.regs := rfl
@[simp] theorem putRow_pantry (d : Dev) (a : Nat) (v : Row) (p : Bool) (h : BitVec 64) : (putRow d a v p h).pantry = d.pantry := rfl
@[simp] theorem putRow_acc (d : Dev) (a : Nat) (v : Row) (p : Bool) (h : BitVec 64) : (putRow d a v p h).acc = d.acc := rfl
@[simp] theorem putRow_accPar (d : Dev) (a : Nat) (v : Row) (p : Bool) (h : BitVec 64) : (putRow d a v p h).accPar = d.accPar := rfl
@[simp] theorem putRow_clauseStore (d : Dev) (a : Nat) (v : Row) (p : Bool) (h : BitVec 64) : (putRow d a v p h).clauseStore = d.clauseStore := rfl
@[simp] theorem putRow_clauseSeq (d : Dev) (a : Nat) (v : Row) (p : Bool) (h : BitVec 64) : (putRow d a v p h).clauseSeq = d.clauseSeq := rfl
@[simp] theorem putRow_slotTable (d : Dev) (a : Nat) (v : Row) (p : Bool) (h : BitVec 64) : (putRow d a v p h).slotTable = d.slotTable := rfl
@[simp] theorem putRow_portMap (d : Dev) (a : Nat) (v : Row) (p : Bool) (h : BitVec 64) : (putRow d a v p h).portMap = d.portMap := rfl
@[simp] theorem putRow_cores (d : Dev) (a : Nat) (v : Row) (p : Bool) (h : BitVec 64) : (putRow d a v p h).cores = d.cores := rfl
@[simp] theorem putRow_agents (d : Dev) (a : Nat) (v : Row) (p : Bool) (h : BitVec 64) : (putRow d a v p h).agents = d.agents := rfl
@[simp] theorem putRow_opens (d : Dev) (a : Nat) (v : Row) (p : Bool) (h : BitVec 64) : (putRow d a v p h).opens = d.opens := rfl
@[simp] theorem putRow_closes (d : Dev) (a : Nat) (v : Row) (p : Bool) (h : BitVec 64) : (putRow d a v p h).closes = d.closes := rfl
@[simp] theorem putRow_flits (d : Dev) (a : Nat) (v : Row) (p : Bool) (h : BitVec 64) : (putRow d a v p h).flits = d.flits := rfl
@[simp] theorem putRow_preReads (d : Dev) (a : Nat) (v : Row) (p : Bool) (h : BitVec 64) : (putRow d a v p h).preReads = d.preReads := rfl
@[simp] theorem putRow_deliveries (d : Dev) (a : Nat) (v : Row) (p : Bool) (h : BitVec 64) : (putRow d a v p h).deliveries = d.deliveries := rfl
@[simp] theorem putRow_shelfFlight (d : Dev) (a : Nat) (v : Row) (p : Bool) (h : BitVec 64) : (putRow d a v p h).shelfFlight = d.shelfFlight := rfl
@[simp] theorem putRow_hostHold (d : Dev) (a : Nat) (v : Row) (p : Bool) (h : BitVec 64) : (putRow d a v p h).hostHold = d.hostHold := rfl
@[simp] theorem putRow_doeHeld (d : Dev) (a : Nat) (v : Row) (p : Bool) (h : BitVec 64) : (putRow d a v p h).doeHeld = d.doeHeld := rfl
@[simp] theorem putRow_hostRds (d : Dev) (a : Nat) (v : Row) (p : Bool) (h : BitVec 64) : (putRow d a v p h).hostRds = d.hostRds := rfl
@[simp] theorem putRow_hostNo (d : Dev) (a : Nat) (v : Row) (p : Bool) (h : BitVec 64) : (putRow d a v p h).hostNo = d.hostNo := rfl
@[simp] theorem putRow_meshLatch (d : Dev) (a : Nat) (v : Row) (p : Bool) (h : BitVec 64) : (putRow d a v p h).meshLatch = d.meshLatch := rfl
@[simp] theorem putRow_tickOut (d : Dev) (a : Nat) (v : Row) (p : Bool) (h : BitVec 64) : (putRow d a v p h).tickOut = d.tickOut := rfl
@[simp] theorem putRow_guarded (d : Dev) (a : Nat) (v : Row) (p : Bool) (h : BitVec 64) : (putRow d a v p h).guarded = d.guarded := rfl
@[simp] theorem putRow_tickAt (d : Dev) (a : Nat) (v : Row) (p : Bool) (h : BitVec 64) : (putRow d a v p h).tickAt = d.tickAt := rfl
@[simp] theorem putRow_edgeAlign (d : Dev) (a : Nat) (v : Row) (p : Bool) (h : BitVec 64) : (putRow d a v p h).edgeAlign = d.edgeAlign := rfl
@[simp] theorem putRow_losePend (d : Dev) (a : Nat) (v : Row) (p : Bool) (h : BitVec 64) : (putRow d a v p h).losePend = d.losePend := rfl
@[simp] theorem putRow_keyTable (d : Dev) (a : Nat) (v : Row) (p : Bool) (h : BitVec 64) : (putRow d a v p h).keyTable = d.keyTable := rfl
@[simp] theorem putRow_cmap (d : Dev) (a : Nat) (v : Row) (p : Bool) (h : BitVec 64) : (putRow d a v p h).cmap = d.cmap := rfl
@[simp] theorem putRow_writebacks (d : Dev) (a : Nat) (v : Row) (p : Bool) (h : BitVec 64) : (putRow d a v p h).writebacks = d.writebacks := rfl
@[simp] theorem putRow_ccLast (d : Dev) (a : Nat) (v : Row) (p : Bool) (h : BitVec 64) : (putRow d a v p h).ccLast = d.ccLast := rfl
@[simp] theorem putRow_ceTime (d : Dev) (a : Nat) (v : Row) (p : Bool) (h : BitVec 64) : (putRow d a v p h).ceTime = d.ceTime := rfl
@[simp] theorem putRow_syncFlight (d : Dev) (a : Nat) (v : Row) (p : Bool) (h : BitVec 64) : (putRow d a v p h).syncFlight = d.syncFlight := rfl
@[simp] theorem putRow_waits (d : Dev) (a : Nat) (v : Row) (p : Bool) (h : BitVec 64) : (putRow d a v p h).waits = d.waits := rfl
@[simp] theorem putRow_syncOut (d : Dev) (a : Nat) (v : Row) (p : Bool) (h : BitVec 64) : (putRow d a v p h).syncOut = d.syncOut := rfl
@[simp] theorem putRow_cqQueue (d : Dev) (a : Nat) (v : Row) (p : Bool) (h : BitVec 64) : (putRow d a v p h).cqQueue = d.cqQueue := rfl
@[simp] theorem putRow_cqHeld (d : Dev) (a : Nat) (v : Row) (p : Bool) (h : BitVec 64) : (putRow d a v p h).cqHeld = d.cqHeld := rfl
@[simp] theorem putRow_upd (d : Dev) (a : Nat) (v : Row) (p : Bool) (h : BitVec 64) : (putRow d a v p h).upd = d.upd := rfl
@[simp] theorem putRow_res (d : Dev) (a : Nat) (v : Row) (p : Bool) (h : BitVec 64) : (putRow d a v p h).res = d.res := rfl
@[simp] theorem putRow_out (d : Dev) (a : Nat) (v : Row) (p : Bool) (h : BitVec 64) : (putRow d a v p h).out = d.out := rfl
@[simp] theorem putRow_fab (d : Dev) (a : Nat) (v : Row) (p : Bool) (h : BitVec 64) : (putRow d a v p h).fab = d.fab := rfl
@[simp] theorem putRow_meshInj (d : Dev) (a : Nat) (v : Row) (p : Bool) (h : BitVec 64) : (putRow d a v p h).meshInj = d.meshInj := rfl
@[simp] theorem putRow_pwr (d : Dev) (a : Nat) (v : Row) (p : Bool) (h : BitVec 64) : (putRow d a v p h).pwr = d.pwr := rfl
@[simp] theorem putRow_heat (d : Dev) (a : Nat) (v : Row) (p : Bool) (h : BitVec 64) : (putRow d a v p h).heat = d.heat := rfl
@[simp] theorem putRow_flt (d : Dev) (a : Nat) (v : Row) (p : Bool) (h : BitVec 64) : (putRow d a v p h).flt = d.flt := rfl
@[simp] theorem putRow_staged (d : Dev) (a : Nat) (v : Row) (p : Bool) (h : BitVec 64) : (putRow d a v p h).staged = d.staged := rfl
@[simp] theorem putRow_pkgs (d : Dev) (a : Nat) (v : Row) (p : Bool) (h : BitVec 64) : (putRow d a v p h).pkgs = d.pkgs := rfl
@[simp] theorem putRow_primary (d : Dev) (a : Nat) (v : Row) (p : Bool) (h : BitVec 64) : (putRow d a v p h).primary = d.primary := rfl
@[simp] theorem putRow_pan (d : Dev) (a : Nat) (v : Row) (p : Bool) (h : BitVec 64) : (putRow d a v p h).pan = d.pan := rfl
@[simp] theorem putRow_ctxKeys (d : Dev) (a : Nat) (v : Row) (p : Bool) (h : BitVec 64) : (putRow d a v p h).ctxKeys = d.ctxKeys := rfl
@[simp] theorem putRow_jtag (d : Dev) (a : Nat) (v : Row) (p : Bool) (h : BitVec 64) : (putRow d a v p h).jtag = d.jtag := rfl
@[simp] theorem putRow_attic (d : Dev) (a : Nat) (v : Row) (p : Bool) (h : BitVec 64) : (putRow d a v p h).attic = d.attic := rfl
@[simp] theorem putRow_boot (d : Dev) (a : Nat) (v : Row) (p : Bool) (h : BitVec 64) : (putRow d a v p h).boot = d.boot := rfl
@[simp] theorem putRow_volts (d : Dev) (a : Nat) (v : Row) (p : Bool) (h : BitVec 64) : (putRow d a v p h).volts = d.volts := rfl
@[simp] theorem putRow_aer (d : Dev) (a : Nat) (v : Row) (p : Bool) (h : BitVec 64) : (putRow d a v p h).aer = d.aer := rfl
@[simp] theorem putRow_cqPhase (d : Dev) (a : Nat) (v : Row) (p : Bool) (h : BitVec 64) : (putRow d a v p h).cqPhase = d.cqPhase := rfl
@[simp] theorem putRow_msixDue (d : Dev) (a : Nat) (v : Row) (p : Bool) (h : BitVec 64) : (putRow d a v p h).msixDue = d.msixDue := rfl
@[simp] theorem putRow_alert (d : Dev) (a : Nat) (v : Row) (p : Bool) (h : BitVec 64) : (putRow d a v p h).alert = d.alert := rfl
@[simp] theorem putRow_committedPoison (d : Dev) (a : Nat) (v : Row) (p : Bool) (h : BitVec 64) : (putRow d a v p h).committedPoison = d.committedPoison := rfl
@[simp] theorem putRow_manifestChunks (d : Dev) (a : Nat) (v : Row) (p : Bool) (h : BitVec 64) : (putRow d a v p h).manifestChunks = d.manifestChunks := rfl
@[simp] theorem putRow_recFlight (d : Dev) (a : Nat) (v : Row) (p : Bool) (h : BitVec 64) : (putRow d a v p h).recFlight = d.recFlight := rfl
@[simp] theorem putRow_recSeen (d : Dev) (a : Nat) (v : Row) (p : Bool) (h : BitVec 64) : (putRow d a v p h).recSeen = d.recSeen := rfl
@[simp] theorem putRow_rerunStep (d : Dev) (a : Nat) (v : Row) (p : Bool) (h : BitVec 64) : (putRow d a v p h).rerunStep = d.rerunStep := rfl
@[simp] theorem putRow_rerunUpd (d : Dev) (a : Nat) (v : Row) (p : Bool) (h : BitVec 64) : (putRow d a v p h).rerunUpd = d.rerunUpd := rfl
@[simp] theorem putRow_inStep (d : Dev) (a : Nat) (v : Row) (p : Bool) (h : BitVec 64) : (putRow d a v p h).inStep = d.inStep := rfl
@[simp] theorem putRow_originAt (d : Dev) (a : Nat) (v : Row) (p : Bool) (h : BitVec 64) : (putRow d a v p h).originAt = d.originAt := rfl

/- modCore -/

@[simp] theorem modCore_now (d : Dev) (c : Nat) (f : CoreSt → CoreSt) : (modCore d c f).now = d.now := rfl
@[simp] theorem modCore_freshN (d : Dev) (c : Nat) (f : CoreSt → CoreSt) : (modCore d c f).freshN = d.freshN := rfl
@[simp] theorem modCore_regs (d : Dev) (c : Nat) (f : CoreSt → CoreSt) : (modCore d c f).regs = d.regs := rfl
@[simp] theorem modCore_rowMeta (d : Dev) (c : Nat) (f : CoreSt → CoreSt) : (modCore d c f).rowMeta = d.rowMeta := rfl
@[simp] theorem modCore_pantry (d : Dev) (c : Nat) (f : CoreSt → CoreSt) : (modCore d c f).pantry = d.pantry := rfl
@[simp] theorem modCore_acc (d : Dev) (c : Nat) (f : CoreSt → CoreSt) : (modCore d c f).acc = d.acc := rfl
@[simp] theorem modCore_accPar (d : Dev) (c : Nat) (f : CoreSt → CoreSt) : (modCore d c f).accPar = d.accPar := rfl
@[simp] theorem modCore_clauseStore (d : Dev) (c : Nat) (f : CoreSt → CoreSt) : (modCore d c f).clauseStore = d.clauseStore := rfl
@[simp] theorem modCore_clauseSeq (d : Dev) (c : Nat) (f : CoreSt → CoreSt) : (modCore d c f).clauseSeq = d.clauseSeq := rfl
@[simp] theorem modCore_slotTable (d : Dev) (c : Nat) (f : CoreSt → CoreSt) : (modCore d c f).slotTable = d.slotTable := rfl
@[simp] theorem modCore_portMap (d : Dev) (c : Nat) (f : CoreSt → CoreSt) : (modCore d c f).portMap = d.portMap := rfl
@[simp] theorem modCore_agents (d : Dev) (c : Nat) (f : CoreSt → CoreSt) : (modCore d c f).agents = d.agents := rfl
@[simp] theorem modCore_opens (d : Dev) (c : Nat) (f : CoreSt → CoreSt) : (modCore d c f).opens = d.opens := rfl
@[simp] theorem modCore_closes (d : Dev) (c : Nat) (f : CoreSt → CoreSt) : (modCore d c f).closes = d.closes := rfl
@[simp] theorem modCore_flits (d : Dev) (c : Nat) (f : CoreSt → CoreSt) : (modCore d c f).flits = d.flits := rfl
@[simp] theorem modCore_preReads (d : Dev) (c : Nat) (f : CoreSt → CoreSt) : (modCore d c f).preReads = d.preReads := rfl
@[simp] theorem modCore_deliveries (d : Dev) (c : Nat) (f : CoreSt → CoreSt) : (modCore d c f).deliveries = d.deliveries := rfl
@[simp] theorem modCore_shelfFlight (d : Dev) (c : Nat) (f : CoreSt → CoreSt) : (modCore d c f).shelfFlight = d.shelfFlight := rfl
@[simp] theorem modCore_hostHold (d : Dev) (c : Nat) (f : CoreSt → CoreSt) : (modCore d c f).hostHold = d.hostHold := rfl
@[simp] theorem modCore_doeHeld (d : Dev) (c : Nat) (f : CoreSt → CoreSt) : (modCore d c f).doeHeld = d.doeHeld := rfl
@[simp] theorem modCore_hostRds (d : Dev) (c : Nat) (f : CoreSt → CoreSt) : (modCore d c f).hostRds = d.hostRds := rfl
@[simp] theorem modCore_hostNo (d : Dev) (c : Nat) (f : CoreSt → CoreSt) : (modCore d c f).hostNo = d.hostNo := rfl
@[simp] theorem modCore_meshLatch (d : Dev) (c : Nat) (f : CoreSt → CoreSt) : (modCore d c f).meshLatch = d.meshLatch := rfl
@[simp] theorem modCore_tickOut (d : Dev) (c : Nat) (f : CoreSt → CoreSt) : (modCore d c f).tickOut = d.tickOut := rfl
@[simp] theorem modCore_guarded (d : Dev) (c : Nat) (f : CoreSt → CoreSt) : (modCore d c f).guarded = d.guarded := rfl
@[simp] theorem modCore_tickAt (d : Dev) (c : Nat) (f : CoreSt → CoreSt) : (modCore d c f).tickAt = d.tickAt := rfl
@[simp] theorem modCore_edgeAlign (d : Dev) (c : Nat) (f : CoreSt → CoreSt) : (modCore d c f).edgeAlign = d.edgeAlign := rfl
@[simp] theorem modCore_losePend (d : Dev) (c : Nat) (f : CoreSt → CoreSt) : (modCore d c f).losePend = d.losePend := rfl
@[simp] theorem modCore_keyTable (d : Dev) (c : Nat) (f : CoreSt → CoreSt) : (modCore d c f).keyTable = d.keyTable := rfl
@[simp] theorem modCore_cmap (d : Dev) (c : Nat) (f : CoreSt → CoreSt) : (modCore d c f).cmap = d.cmap := rfl
@[simp] theorem modCore_writebacks (d : Dev) (c : Nat) (f : CoreSt → CoreSt) : (modCore d c f).writebacks = d.writebacks := rfl
@[simp] theorem modCore_ccLast (d : Dev) (c : Nat) (f : CoreSt → CoreSt) : (modCore d c f).ccLast = d.ccLast := rfl
@[simp] theorem modCore_ceTime (d : Dev) (c : Nat) (f : CoreSt → CoreSt) : (modCore d c f).ceTime = d.ceTime := rfl
@[simp] theorem modCore_syncFlight (d : Dev) (c : Nat) (f : CoreSt → CoreSt) : (modCore d c f).syncFlight = d.syncFlight := rfl
@[simp] theorem modCore_waits (d : Dev) (c : Nat) (f : CoreSt → CoreSt) : (modCore d c f).waits = d.waits := rfl
@[simp] theorem modCore_syncOut (d : Dev) (c : Nat) (f : CoreSt → CoreSt) : (modCore d c f).syncOut = d.syncOut := rfl
@[simp] theorem modCore_cqQueue (d : Dev) (c : Nat) (f : CoreSt → CoreSt) : (modCore d c f).cqQueue = d.cqQueue := rfl
@[simp] theorem modCore_cqHeld (d : Dev) (c : Nat) (f : CoreSt → CoreSt) : (modCore d c f).cqHeld = d.cqHeld := rfl
@[simp] theorem modCore_upd (d : Dev) (c : Nat) (f : CoreSt → CoreSt) : (modCore d c f).upd = d.upd := rfl
@[simp] theorem modCore_res (d : Dev) (c : Nat) (f : CoreSt → CoreSt) : (modCore d c f).res = d.res := rfl
@[simp] theorem modCore_out (d : Dev) (c : Nat) (f : CoreSt → CoreSt) : (modCore d c f).out = d.out := rfl
@[simp] theorem modCore_fab (d : Dev) (c : Nat) (f : CoreSt → CoreSt) : (modCore d c f).fab = d.fab := rfl
@[simp] theorem modCore_meshInj (d : Dev) (c : Nat) (f : CoreSt → CoreSt) : (modCore d c f).meshInj = d.meshInj := rfl
@[simp] theorem modCore_pwr (d : Dev) (c : Nat) (f : CoreSt → CoreSt) : (modCore d c f).pwr = d.pwr := rfl
@[simp] theorem modCore_heat (d : Dev) (c : Nat) (f : CoreSt → CoreSt) : (modCore d c f).heat = d.heat := rfl
@[simp] theorem modCore_flt (d : Dev) (c : Nat) (f : CoreSt → CoreSt) : (modCore d c f).flt = d.flt := rfl
@[simp] theorem modCore_staged (d : Dev) (c : Nat) (f : CoreSt → CoreSt) : (modCore d c f).staged = d.staged := rfl
@[simp] theorem modCore_pkgs (d : Dev) (c : Nat) (f : CoreSt → CoreSt) : (modCore d c f).pkgs = d.pkgs := rfl
@[simp] theorem modCore_primary (d : Dev) (c : Nat) (f : CoreSt → CoreSt) : (modCore d c f).primary = d.primary := rfl
@[simp] theorem modCore_pan (d : Dev) (c : Nat) (f : CoreSt → CoreSt) : (modCore d c f).pan = d.pan := rfl
@[simp] theorem modCore_ctxKeys (d : Dev) (c : Nat) (f : CoreSt → CoreSt) : (modCore d c f).ctxKeys = d.ctxKeys := rfl
@[simp] theorem modCore_jtag (d : Dev) (c : Nat) (f : CoreSt → CoreSt) : (modCore d c f).jtag = d.jtag := rfl
@[simp] theorem modCore_attic (d : Dev) (c : Nat) (f : CoreSt → CoreSt) : (modCore d c f).attic = d.attic := rfl
@[simp] theorem modCore_boot (d : Dev) (c : Nat) (f : CoreSt → CoreSt) : (modCore d c f).boot = d.boot := rfl
@[simp] theorem modCore_volts (d : Dev) (c : Nat) (f : CoreSt → CoreSt) : (modCore d c f).volts = d.volts := rfl
@[simp] theorem modCore_aer (d : Dev) (c : Nat) (f : CoreSt → CoreSt) : (modCore d c f).aer = d.aer := rfl
@[simp] theorem modCore_cqPhase (d : Dev) (c : Nat) (f : CoreSt → CoreSt) : (modCore d c f).cqPhase = d.cqPhase := rfl
@[simp] theorem modCore_msixDue (d : Dev) (c : Nat) (f : CoreSt → CoreSt) : (modCore d c f).msixDue = d.msixDue := rfl
@[simp] theorem modCore_alert (d : Dev) (c : Nat) (f : CoreSt → CoreSt) : (modCore d c f).alert = d.alert := rfl
@[simp] theorem modCore_committedPoison (d : Dev) (c : Nat) (f : CoreSt → CoreSt) : (modCore d c f).committedPoison = d.committedPoison := rfl
@[simp] theorem modCore_manifestChunks (d : Dev) (c : Nat) (f : CoreSt → CoreSt) : (modCore d c f).manifestChunks = d.manifestChunks := rfl
@[simp] theorem modCore_recFlight (d : Dev) (c : Nat) (f : CoreSt → CoreSt) : (modCore d c f).recFlight = d.recFlight := rfl
@[simp] theorem modCore_recSeen (d : Dev) (c : Nat) (f : CoreSt → CoreSt) : (modCore d c f).recSeen = d.recSeen := rfl
@[simp] theorem modCore_rerunStep (d : Dev) (c : Nat) (f : CoreSt → CoreSt) : (modCore d c f).rerunStep = d.rerunStep := rfl
@[simp] theorem modCore_rerunUpd (d : Dev) (c : Nat) (f : CoreSt → CoreSt) : (modCore d c f).rerunUpd = d.rerunUpd := rfl
@[simp] theorem modCore_inStep (d : Dev) (c : Nat) (f : CoreSt → CoreSt) : (modCore d c f).inStep = d.inStep := rfl
@[simp] theorem modCore_originAt (d : Dev) (c : Nat) (f : CoreSt → CoreSt) : (modCore d c f).originAt = d.originAt := rfl

/- modRun -/

@[simp] theorem modRun_now (d : Dev) (c : Nat) (f : RunSt → RunSt) : (modRun d c f).now = d.now := rfl
@[simp] theorem modRun_freshN (d : Dev) (c : Nat) (f : RunSt → RunSt) : (modRun d c f).freshN = d.freshN := rfl
@[simp] theorem modRun_regs (d : Dev) (c : Nat) (f : RunSt → RunSt) : (modRun d c f).regs = d.regs := rfl
@[simp] theorem modRun_rowMeta (d : Dev) (c : Nat) (f : RunSt → RunSt) : (modRun d c f).rowMeta = d.rowMeta := rfl
@[simp] theorem modRun_pantry (d : Dev) (c : Nat) (f : RunSt → RunSt) : (modRun d c f).pantry = d.pantry := rfl
@[simp] theorem modRun_acc (d : Dev) (c : Nat) (f : RunSt → RunSt) : (modRun d c f).acc = d.acc := rfl
@[simp] theorem modRun_accPar (d : Dev) (c : Nat) (f : RunSt → RunSt) : (modRun d c f).accPar = d.accPar := rfl
@[simp] theorem modRun_clauseStore (d : Dev) (c : Nat) (f : RunSt → RunSt) : (modRun d c f).clauseStore = d.clauseStore := rfl
@[simp] theorem modRun_clauseSeq (d : Dev) (c : Nat) (f : RunSt → RunSt) : (modRun d c f).clauseSeq = d.clauseSeq := rfl
@[simp] theorem modRun_slotTable (d : Dev) (c : Nat) (f : RunSt → RunSt) : (modRun d c f).slotTable = d.slotTable := rfl
@[simp] theorem modRun_portMap (d : Dev) (c : Nat) (f : RunSt → RunSt) : (modRun d c f).portMap = d.portMap := rfl
@[simp] theorem modRun_agents (d : Dev) (c : Nat) (f : RunSt → RunSt) : (modRun d c f).agents = d.agents := rfl
@[simp] theorem modRun_opens (d : Dev) (c : Nat) (f : RunSt → RunSt) : (modRun d c f).opens = d.opens := rfl
@[simp] theorem modRun_closes (d : Dev) (c : Nat) (f : RunSt → RunSt) : (modRun d c f).closes = d.closes := rfl
@[simp] theorem modRun_flits (d : Dev) (c : Nat) (f : RunSt → RunSt) : (modRun d c f).flits = d.flits := rfl
@[simp] theorem modRun_preReads (d : Dev) (c : Nat) (f : RunSt → RunSt) : (modRun d c f).preReads = d.preReads := rfl
@[simp] theorem modRun_deliveries (d : Dev) (c : Nat) (f : RunSt → RunSt) : (modRun d c f).deliveries = d.deliveries := rfl
@[simp] theorem modRun_shelfFlight (d : Dev) (c : Nat) (f : RunSt → RunSt) : (modRun d c f).shelfFlight = d.shelfFlight := rfl
@[simp] theorem modRun_hostHold (d : Dev) (c : Nat) (f : RunSt → RunSt) : (modRun d c f).hostHold = d.hostHold := rfl
@[simp] theorem modRun_doeHeld (d : Dev) (c : Nat) (f : RunSt → RunSt) : (modRun d c f).doeHeld = d.doeHeld := rfl
@[simp] theorem modRun_hostRds (d : Dev) (c : Nat) (f : RunSt → RunSt) : (modRun d c f).hostRds = d.hostRds := rfl
@[simp] theorem modRun_hostNo (d : Dev) (c : Nat) (f : RunSt → RunSt) : (modRun d c f).hostNo = d.hostNo := rfl
@[simp] theorem modRun_meshLatch (d : Dev) (c : Nat) (f : RunSt → RunSt) : (modRun d c f).meshLatch = d.meshLatch := rfl
@[simp] theorem modRun_tickOut (d : Dev) (c : Nat) (f : RunSt → RunSt) : (modRun d c f).tickOut = d.tickOut := rfl
@[simp] theorem modRun_guarded (d : Dev) (c : Nat) (f : RunSt → RunSt) : (modRun d c f).guarded = d.guarded := rfl
@[simp] theorem modRun_tickAt (d : Dev) (c : Nat) (f : RunSt → RunSt) : (modRun d c f).tickAt = d.tickAt := rfl
@[simp] theorem modRun_edgeAlign (d : Dev) (c : Nat) (f : RunSt → RunSt) : (modRun d c f).edgeAlign = d.edgeAlign := rfl
@[simp] theorem modRun_losePend (d : Dev) (c : Nat) (f : RunSt → RunSt) : (modRun d c f).losePend = d.losePend := rfl
@[simp] theorem modRun_keyTable (d : Dev) (c : Nat) (f : RunSt → RunSt) : (modRun d c f).keyTable = d.keyTable := rfl
@[simp] theorem modRun_cmap (d : Dev) (c : Nat) (f : RunSt → RunSt) : (modRun d c f).cmap = d.cmap := rfl
@[simp] theorem modRun_writebacks (d : Dev) (c : Nat) (f : RunSt → RunSt) : (modRun d c f).writebacks = d.writebacks := rfl
@[simp] theorem modRun_ccLast (d : Dev) (c : Nat) (f : RunSt → RunSt) : (modRun d c f).ccLast = d.ccLast := rfl
@[simp] theorem modRun_ceTime (d : Dev) (c : Nat) (f : RunSt → RunSt) : (modRun d c f).ceTime = d.ceTime := rfl
@[simp] theorem modRun_syncFlight (d : Dev) (c : Nat) (f : RunSt → RunSt) : (modRun d c f).syncFlight = d.syncFlight := rfl
@[simp] theorem modRun_waits (d : Dev) (c : Nat) (f : RunSt → RunSt) : (modRun d c f).waits = d.waits := rfl
@[simp] theorem modRun_syncOut (d : Dev) (c : Nat) (f : RunSt → RunSt) : (modRun d c f).syncOut = d.syncOut := rfl
@[simp] theorem modRun_cqQueue (d : Dev) (c : Nat) (f : RunSt → RunSt) : (modRun d c f).cqQueue = d.cqQueue := rfl
@[simp] theorem modRun_cqHeld (d : Dev) (c : Nat) (f : RunSt → RunSt) : (modRun d c f).cqHeld = d.cqHeld := rfl
@[simp] theorem modRun_upd (d : Dev) (c : Nat) (f : RunSt → RunSt) : (modRun d c f).upd = d.upd := rfl
@[simp] theorem modRun_res (d : Dev) (c : Nat) (f : RunSt → RunSt) : (modRun d c f).res = d.res := rfl
@[simp] theorem modRun_out (d : Dev) (c : Nat) (f : RunSt → RunSt) : (modRun d c f).out = d.out := rfl
@[simp] theorem modRun_fab (d : Dev) (c : Nat) (f : RunSt → RunSt) : (modRun d c f).fab = d.fab := rfl
@[simp] theorem modRun_meshInj (d : Dev) (c : Nat) (f : RunSt → RunSt) : (modRun d c f).meshInj = d.meshInj := rfl
@[simp] theorem modRun_pwr (d : Dev) (c : Nat) (f : RunSt → RunSt) : (modRun d c f).pwr = d.pwr := rfl
@[simp] theorem modRun_heat (d : Dev) (c : Nat) (f : RunSt → RunSt) : (modRun d c f).heat = d.heat := rfl
@[simp] theorem modRun_flt (d : Dev) (c : Nat) (f : RunSt → RunSt) : (modRun d c f).flt = d.flt := rfl
@[simp] theorem modRun_staged (d : Dev) (c : Nat) (f : RunSt → RunSt) : (modRun d c f).staged = d.staged := rfl
@[simp] theorem modRun_pkgs (d : Dev) (c : Nat) (f : RunSt → RunSt) : (modRun d c f).pkgs = d.pkgs := rfl
@[simp] theorem modRun_primary (d : Dev) (c : Nat) (f : RunSt → RunSt) : (modRun d c f).primary = d.primary := rfl
@[simp] theorem modRun_pan (d : Dev) (c : Nat) (f : RunSt → RunSt) : (modRun d c f).pan = d.pan := rfl
@[simp] theorem modRun_ctxKeys (d : Dev) (c : Nat) (f : RunSt → RunSt) : (modRun d c f).ctxKeys = d.ctxKeys := rfl
@[simp] theorem modRun_jtag (d : Dev) (c : Nat) (f : RunSt → RunSt) : (modRun d c f).jtag = d.jtag := rfl
@[simp] theorem modRun_attic (d : Dev) (c : Nat) (f : RunSt → RunSt) : (modRun d c f).attic = d.attic := rfl
@[simp] theorem modRun_boot (d : Dev) (c : Nat) (f : RunSt → RunSt) : (modRun d c f).boot = d.boot := rfl
@[simp] theorem modRun_volts (d : Dev) (c : Nat) (f : RunSt → RunSt) : (modRun d c f).volts = d.volts := rfl
@[simp] theorem modRun_aer (d : Dev) (c : Nat) (f : RunSt → RunSt) : (modRun d c f).aer = d.aer := rfl
@[simp] theorem modRun_cqPhase (d : Dev) (c : Nat) (f : RunSt → RunSt) : (modRun d c f).cqPhase = d.cqPhase := rfl
@[simp] theorem modRun_msixDue (d : Dev) (c : Nat) (f : RunSt → RunSt) : (modRun d c f).msixDue = d.msixDue := rfl
@[simp] theorem modRun_alert (d : Dev) (c : Nat) (f : RunSt → RunSt) : (modRun d c f).alert = d.alert := rfl
@[simp] theorem modRun_committedPoison (d : Dev) (c : Nat) (f : RunSt → RunSt) : (modRun d c f).committedPoison = d.committedPoison := rfl
@[simp] theorem modRun_manifestChunks (d : Dev) (c : Nat) (f : RunSt → RunSt) : (modRun d c f).manifestChunks = d.manifestChunks := rfl
@[simp] theorem modRun_recFlight (d : Dev) (c : Nat) (f : RunSt → RunSt) : (modRun d c f).recFlight = d.recFlight := rfl
@[simp] theorem modRun_recSeen (d : Dev) (c : Nat) (f : RunSt → RunSt) : (modRun d c f).recSeen = d.recSeen := rfl
@[simp] theorem modRun_rerunStep (d : Dev) (c : Nat) (f : RunSt → RunSt) : (modRun d c f).rerunStep = d.rerunStep := rfl
@[simp] theorem modRun_rerunUpd (d : Dev) (c : Nat) (f : RunSt → RunSt) : (modRun d c f).rerunUpd = d.rerunUpd := rfl
@[simp] theorem modRun_inStep (d : Dev) (c : Nat) (f : RunSt → RunSt) : (modRun d c f).inStep = d.inStep := rfl
@[simp] theorem modRun_originAt (d : Dev) (c : Nat) (f : RunSt → RunSt) : (modRun d c f).originAt = d.originAt := rfl

/- modPort -/

@[simp] theorem modPort_now (d : Dev) (p : Nat) (f : GPort → GPort) : (modPort d p f).now = d.now := rfl
@[simp] theorem modPort_freshN (d : Dev) (p : Nat) (f : GPort → GPort) : (modPort d p f).freshN = d.freshN := rfl
@[simp] theorem modPort_regs (d : Dev) (p : Nat) (f : GPort → GPort) : (modPort d p f).regs = d.regs := rfl
@[simp] theorem modPort_rowMeta (d : Dev) (p : Nat) (f : GPort → GPort) : (modPort d p f).rowMeta = d.rowMeta := rfl
@[simp] theorem modPort_pantry (d : Dev) (p : Nat) (f : GPort → GPort) : (modPort d p f).pantry = d.pantry := rfl
@[simp] theorem modPort_acc (d : Dev) (p : Nat) (f : GPort → GPort) : (modPort d p f).acc = d.acc := rfl
@[simp] theorem modPort_accPar (d : Dev) (p : Nat) (f : GPort → GPort) : (modPort d p f).accPar = d.accPar := rfl
@[simp] theorem modPort_clauseStore (d : Dev) (p : Nat) (f : GPort → GPort) : (modPort d p f).clauseStore = d.clauseStore := rfl
@[simp] theorem modPort_clauseSeq (d : Dev) (p : Nat) (f : GPort → GPort) : (modPort d p f).clauseSeq = d.clauseSeq := rfl
@[simp] theorem modPort_slotTable (d : Dev) (p : Nat) (f : GPort → GPort) : (modPort d p f).slotTable = d.slotTable := rfl
@[simp] theorem modPort_portMap (d : Dev) (p : Nat) (f : GPort → GPort) : (modPort d p f).portMap = d.portMap := rfl
@[simp] theorem modPort_cores (d : Dev) (p : Nat) (f : GPort → GPort) : (modPort d p f).cores = d.cores := rfl
@[simp] theorem modPort_agents (d : Dev) (p : Nat) (f : GPort → GPort) : (modPort d p f).agents = d.agents := rfl
@[simp] theorem modPort_opens (d : Dev) (p : Nat) (f : GPort → GPort) : (modPort d p f).opens = d.opens := rfl
@[simp] theorem modPort_closes (d : Dev) (p : Nat) (f : GPort → GPort) : (modPort d p f).closes = d.closes := rfl
@[simp] theorem modPort_flits (d : Dev) (p : Nat) (f : GPort → GPort) : (modPort d p f).flits = d.flits := rfl
@[simp] theorem modPort_preReads (d : Dev) (p : Nat) (f : GPort → GPort) : (modPort d p f).preReads = d.preReads := rfl
@[simp] theorem modPort_deliveries (d : Dev) (p : Nat) (f : GPort → GPort) : (modPort d p f).deliveries = d.deliveries := rfl
@[simp] theorem modPort_shelfFlight (d : Dev) (p : Nat) (f : GPort → GPort) : (modPort d p f).shelfFlight = d.shelfFlight := rfl
@[simp] theorem modPort_hostHold (d : Dev) (p : Nat) (f : GPort → GPort) : (modPort d p f).hostHold = d.hostHold := rfl
@[simp] theorem modPort_doeHeld (d : Dev) (p : Nat) (f : GPort → GPort) : (modPort d p f).doeHeld = d.doeHeld := rfl
@[simp] theorem modPort_hostRds (d : Dev) (p : Nat) (f : GPort → GPort) : (modPort d p f).hostRds = d.hostRds := rfl
@[simp] theorem modPort_hostNo (d : Dev) (p : Nat) (f : GPort → GPort) : (modPort d p f).hostNo = d.hostNo := rfl
@[simp] theorem modPort_meshLatch (d : Dev) (p : Nat) (f : GPort → GPort) : (modPort d p f).meshLatch = d.meshLatch := rfl
@[simp] theorem modPort_tickOut (d : Dev) (p : Nat) (f : GPort → GPort) : (modPort d p f).tickOut = d.tickOut := rfl
@[simp] theorem modPort_guarded (d : Dev) (p : Nat) (f : GPort → GPort) : (modPort d p f).guarded = d.guarded := rfl
@[simp] theorem modPort_tickAt (d : Dev) (p : Nat) (f : GPort → GPort) : (modPort d p f).tickAt = d.tickAt := rfl
@[simp] theorem modPort_edgeAlign (d : Dev) (p : Nat) (f : GPort → GPort) : (modPort d p f).edgeAlign = d.edgeAlign := rfl
@[simp] theorem modPort_losePend (d : Dev) (p : Nat) (f : GPort → GPort) : (modPort d p f).losePend = d.losePend := rfl
@[simp] theorem modPort_keyTable (d : Dev) (p : Nat) (f : GPort → GPort) : (modPort d p f).keyTable = d.keyTable := rfl
@[simp] theorem modPort_cmap (d : Dev) (p : Nat) (f : GPort → GPort) : (modPort d p f).cmap = d.cmap := rfl
@[simp] theorem modPort_writebacks (d : Dev) (p : Nat) (f : GPort → GPort) : (modPort d p f).writebacks = d.writebacks := rfl
@[simp] theorem modPort_ccLast (d : Dev) (p : Nat) (f : GPort → GPort) : (modPort d p f).ccLast = d.ccLast := rfl
@[simp] theorem modPort_ceTime (d : Dev) (p : Nat) (f : GPort → GPort) : (modPort d p f).ceTime = d.ceTime := rfl
@[simp] theorem modPort_syncFlight (d : Dev) (p : Nat) (f : GPort → GPort) : (modPort d p f).syncFlight = d.syncFlight := rfl
@[simp] theorem modPort_waits (d : Dev) (p : Nat) (f : GPort → GPort) : (modPort d p f).waits = d.waits := rfl
@[simp] theorem modPort_syncOut (d : Dev) (p : Nat) (f : GPort → GPort) : (modPort d p f).syncOut = d.syncOut := rfl
@[simp] theorem modPort_cqQueue (d : Dev) (p : Nat) (f : GPort → GPort) : (modPort d p f).cqQueue = d.cqQueue := rfl
@[simp] theorem modPort_cqHeld (d : Dev) (p : Nat) (f : GPort → GPort) : (modPort d p f).cqHeld = d.cqHeld := rfl
@[simp] theorem modPort_upd (d : Dev) (p : Nat) (f : GPort → GPort) : (modPort d p f).upd = d.upd := rfl
@[simp] theorem modPort_res (d : Dev) (p : Nat) (f : GPort → GPort) : (modPort d p f).res = d.res := rfl
@[simp] theorem modPort_out (d : Dev) (p : Nat) (f : GPort → GPort) : (modPort d p f).out = d.out := rfl
@[simp] theorem modPort_meshInj (d : Dev) (p : Nat) (f : GPort → GPort) : (modPort d p f).meshInj = d.meshInj := rfl
@[simp] theorem modPort_pwr (d : Dev) (p : Nat) (f : GPort → GPort) : (modPort d p f).pwr = d.pwr := rfl
@[simp] theorem modPort_heat (d : Dev) (p : Nat) (f : GPort → GPort) : (modPort d p f).heat = d.heat := rfl
@[simp] theorem modPort_flt (d : Dev) (p : Nat) (f : GPort → GPort) : (modPort d p f).flt = d.flt := rfl
@[simp] theorem modPort_staged (d : Dev) (p : Nat) (f : GPort → GPort) : (modPort d p f).staged = d.staged := rfl
@[simp] theorem modPort_pkgs (d : Dev) (p : Nat) (f : GPort → GPort) : (modPort d p f).pkgs = d.pkgs := rfl
@[simp] theorem modPort_primary (d : Dev) (p : Nat) (f : GPort → GPort) : (modPort d p f).primary = d.primary := rfl
@[simp] theorem modPort_pan (d : Dev) (p : Nat) (f : GPort → GPort) : (modPort d p f).pan = d.pan := rfl
@[simp] theorem modPort_ctxKeys (d : Dev) (p : Nat) (f : GPort → GPort) : (modPort d p f).ctxKeys = d.ctxKeys := rfl
@[simp] theorem modPort_jtag (d : Dev) (p : Nat) (f : GPort → GPort) : (modPort d p f).jtag = d.jtag := rfl
@[simp] theorem modPort_attic (d : Dev) (p : Nat) (f : GPort → GPort) : (modPort d p f).attic = d.attic := rfl
@[simp] theorem modPort_boot (d : Dev) (p : Nat) (f : GPort → GPort) : (modPort d p f).boot = d.boot := rfl
@[simp] theorem modPort_volts (d : Dev) (p : Nat) (f : GPort → GPort) : (modPort d p f).volts = d.volts := rfl
@[simp] theorem modPort_aer (d : Dev) (p : Nat) (f : GPort → GPort) : (modPort d p f).aer = d.aer := rfl
@[simp] theorem modPort_cqPhase (d : Dev) (p : Nat) (f : GPort → GPort) : (modPort d p f).cqPhase = d.cqPhase := rfl
@[simp] theorem modPort_msixDue (d : Dev) (p : Nat) (f : GPort → GPort) : (modPort d p f).msixDue = d.msixDue := rfl
@[simp] theorem modPort_alert (d : Dev) (p : Nat) (f : GPort → GPort) : (modPort d p f).alert = d.alert := rfl
@[simp] theorem modPort_committedPoison (d : Dev) (p : Nat) (f : GPort → GPort) : (modPort d p f).committedPoison = d.committedPoison := rfl
@[simp] theorem modPort_manifestChunks (d : Dev) (p : Nat) (f : GPort → GPort) : (modPort d p f).manifestChunks = d.manifestChunks := rfl
@[simp] theorem modPort_recFlight (d : Dev) (p : Nat) (f : GPort → GPort) : (modPort d p f).recFlight = d.recFlight := rfl
@[simp] theorem modPort_recSeen (d : Dev) (p : Nat) (f : GPort → GPort) : (modPort d p f).recSeen = d.recSeen := rfl
@[simp] theorem modPort_rerunStep (d : Dev) (p : Nat) (f : GPort → GPort) : (modPort d p f).rerunStep = d.rerunStep := rfl
@[simp] theorem modPort_rerunUpd (d : Dev) (p : Nat) (f : GPort → GPort) : (modPort d p f).rerunUpd = d.rerunUpd := rfl
@[simp] theorem modPort_inStep (d : Dev) (p : Nat) (f : GPort → GPort) : (modPort d p f).inStep = d.inStep := rfl
@[simp] theorem modPort_originAt (d : Dev) (p : Nat) (f : GPort → GPort) : (modPort d p f).originAt = d.originAt := rfl

/- modEdge -/

@[simp] theorem modEdge_now (d : Dev) (k : Nat) (f : Edge → Edge) : (modEdge d k f).now = d.now := rfl
@[simp] theorem modEdge_freshN (d : Dev) (k : Nat) (f : Edge → Edge) : (modEdge d k f).freshN = d.freshN := rfl
@[simp] theorem modEdge_regs (d : Dev) (k : Nat) (f : Edge → Edge) : (modEdge d k f).regs = d.regs := rfl
@[simp] theorem modEdge_rowMeta (d : Dev) (k : Nat) (f : Edge → Edge) : (modEdge d k f).rowMeta = d.rowMeta := rfl
@[simp] theorem modEdge_pantry (d : Dev) (k : Nat) (f : Edge → Edge) : (modEdge d k f).pantry = d.pantry := rfl
@[simp] theorem modEdge_acc (d : Dev) (k : Nat) (f : Edge → Edge) : (modEdge d k f).acc = d.acc := rfl
@[simp] theorem modEdge_accPar (d : Dev) (k : Nat) (f : Edge → Edge) : (modEdge d k f).accPar = d.accPar := rfl
@[simp] theorem modEdge_clauseStore (d : Dev) (k : Nat) (f : Edge → Edge) : (modEdge d k f).clauseStore = d.clauseStore := rfl
@[simp] theorem modEdge_clauseSeq (d : Dev) (k : Nat) (f : Edge → Edge) : (modEdge d k f).clauseSeq = d.clauseSeq := rfl
@[simp] theorem modEdge_slotTable (d : Dev) (k : Nat) (f : Edge → Edge) : (modEdge d k f).slotTable = d.slotTable := rfl
@[simp] theorem modEdge_portMap (d : Dev) (k : Nat) (f : Edge → Edge) : (modEdge d k f).portMap = d.portMap := rfl
@[simp] theorem modEdge_cores (d : Dev) (k : Nat) (f : Edge → Edge) : (modEdge d k f).cores = d.cores := rfl
@[simp] theorem modEdge_agents (d : Dev) (k : Nat) (f : Edge → Edge) : (modEdge d k f).agents = d.agents := rfl
@[simp] theorem modEdge_opens (d : Dev) (k : Nat) (f : Edge → Edge) : (modEdge d k f).opens = d.opens := rfl
@[simp] theorem modEdge_closes (d : Dev) (k : Nat) (f : Edge → Edge) : (modEdge d k f).closes = d.closes := rfl
@[simp] theorem modEdge_flits (d : Dev) (k : Nat) (f : Edge → Edge) : (modEdge d k f).flits = d.flits := rfl
@[simp] theorem modEdge_preReads (d : Dev) (k : Nat) (f : Edge → Edge) : (modEdge d k f).preReads = d.preReads := rfl
@[simp] theorem modEdge_deliveries (d : Dev) (k : Nat) (f : Edge → Edge) : (modEdge d k f).deliveries = d.deliveries := rfl
@[simp] theorem modEdge_shelfFlight (d : Dev) (k : Nat) (f : Edge → Edge) : (modEdge d k f).shelfFlight = d.shelfFlight := rfl
@[simp] theorem modEdge_hostHold (d : Dev) (k : Nat) (f : Edge → Edge) : (modEdge d k f).hostHold = d.hostHold := rfl
@[simp] theorem modEdge_doeHeld (d : Dev) (k : Nat) (f : Edge → Edge) : (modEdge d k f).doeHeld = d.doeHeld := rfl
@[simp] theorem modEdge_hostRds (d : Dev) (k : Nat) (f : Edge → Edge) : (modEdge d k f).hostRds = d.hostRds := rfl
@[simp] theorem modEdge_hostNo (d : Dev) (k : Nat) (f : Edge → Edge) : (modEdge d k f).hostNo = d.hostNo := rfl
@[simp] theorem modEdge_meshLatch (d : Dev) (k : Nat) (f : Edge → Edge) : (modEdge d k f).meshLatch = d.meshLatch := rfl
@[simp] theorem modEdge_tickOut (d : Dev) (k : Nat) (f : Edge → Edge) : (modEdge d k f).tickOut = d.tickOut := rfl
@[simp] theorem modEdge_guarded (d : Dev) (k : Nat) (f : Edge → Edge) : (modEdge d k f).guarded = d.guarded := rfl
@[simp] theorem modEdge_tickAt (d : Dev) (k : Nat) (f : Edge → Edge) : (modEdge d k f).tickAt = d.tickAt := rfl
@[simp] theorem modEdge_edgeAlign (d : Dev) (k : Nat) (f : Edge → Edge) : (modEdge d k f).edgeAlign = d.edgeAlign := rfl
@[simp] theorem modEdge_losePend (d : Dev) (k : Nat) (f : Edge → Edge) : (modEdge d k f).losePend = d.losePend := rfl
@[simp] theorem modEdge_keyTable (d : Dev) (k : Nat) (f : Edge → Edge) : (modEdge d k f).keyTable = d.keyTable := rfl
@[simp] theorem modEdge_cmap (d : Dev) (k : Nat) (f : Edge → Edge) : (modEdge d k f).cmap = d.cmap := rfl
@[simp] theorem modEdge_writebacks (d : Dev) (k : Nat) (f : Edge → Edge) : (modEdge d k f).writebacks = d.writebacks := rfl
@[simp] theorem modEdge_ccLast (d : Dev) (k : Nat) (f : Edge → Edge) : (modEdge d k f).ccLast = d.ccLast := rfl
@[simp] theorem modEdge_ceTime (d : Dev) (k : Nat) (f : Edge → Edge) : (modEdge d k f).ceTime = d.ceTime := rfl
@[simp] theorem modEdge_syncFlight (d : Dev) (k : Nat) (f : Edge → Edge) : (modEdge d k f).syncFlight = d.syncFlight := rfl
@[simp] theorem modEdge_waits (d : Dev) (k : Nat) (f : Edge → Edge) : (modEdge d k f).waits = d.waits := rfl
@[simp] theorem modEdge_syncOut (d : Dev) (k : Nat) (f : Edge → Edge) : (modEdge d k f).syncOut = d.syncOut := rfl
@[simp] theorem modEdge_cqQueue (d : Dev) (k : Nat) (f : Edge → Edge) : (modEdge d k f).cqQueue = d.cqQueue := rfl
@[simp] theorem modEdge_cqHeld (d : Dev) (k : Nat) (f : Edge → Edge) : (modEdge d k f).cqHeld = d.cqHeld := rfl
@[simp] theorem modEdge_upd (d : Dev) (k : Nat) (f : Edge → Edge) : (modEdge d k f).upd = d.upd := rfl
@[simp] theorem modEdge_res (d : Dev) (k : Nat) (f : Edge → Edge) : (modEdge d k f).res = d.res := rfl
@[simp] theorem modEdge_out (d : Dev) (k : Nat) (f : Edge → Edge) : (modEdge d k f).out = d.out := rfl
@[simp] theorem modEdge_meshInj (d : Dev) (k : Nat) (f : Edge → Edge) : (modEdge d k f).meshInj = d.meshInj := rfl
@[simp] theorem modEdge_pwr (d : Dev) (k : Nat) (f : Edge → Edge) : (modEdge d k f).pwr = d.pwr := rfl
@[simp] theorem modEdge_heat (d : Dev) (k : Nat) (f : Edge → Edge) : (modEdge d k f).heat = d.heat := rfl
@[simp] theorem modEdge_flt (d : Dev) (k : Nat) (f : Edge → Edge) : (modEdge d k f).flt = d.flt := rfl
@[simp] theorem modEdge_staged (d : Dev) (k : Nat) (f : Edge → Edge) : (modEdge d k f).staged = d.staged := rfl
@[simp] theorem modEdge_pkgs (d : Dev) (k : Nat) (f : Edge → Edge) : (modEdge d k f).pkgs = d.pkgs := rfl
@[simp] theorem modEdge_primary (d : Dev) (k : Nat) (f : Edge → Edge) : (modEdge d k f).primary = d.primary := rfl
@[simp] theorem modEdge_pan (d : Dev) (k : Nat) (f : Edge → Edge) : (modEdge d k f).pan = d.pan := rfl
@[simp] theorem modEdge_ctxKeys (d : Dev) (k : Nat) (f : Edge → Edge) : (modEdge d k f).ctxKeys = d.ctxKeys := rfl
@[simp] theorem modEdge_jtag (d : Dev) (k : Nat) (f : Edge → Edge) : (modEdge d k f).jtag = d.jtag := rfl
@[simp] theorem modEdge_attic (d : Dev) (k : Nat) (f : Edge → Edge) : (modEdge d k f).attic = d.attic := rfl
@[simp] theorem modEdge_boot (d : Dev) (k : Nat) (f : Edge → Edge) : (modEdge d k f).boot = d.boot := rfl
@[simp] theorem modEdge_volts (d : Dev) (k : Nat) (f : Edge → Edge) : (modEdge d k f).volts = d.volts := rfl
@[simp] theorem modEdge_aer (d : Dev) (k : Nat) (f : Edge → Edge) : (modEdge d k f).aer = d.aer := rfl
@[simp] theorem modEdge_cqPhase (d : Dev) (k : Nat) (f : Edge → Edge) : (modEdge d k f).cqPhase = d.cqPhase := rfl
@[simp] theorem modEdge_msixDue (d : Dev) (k : Nat) (f : Edge → Edge) : (modEdge d k f).msixDue = d.msixDue := rfl
@[simp] theorem modEdge_alert (d : Dev) (k : Nat) (f : Edge → Edge) : (modEdge d k f).alert = d.alert := rfl
@[simp] theorem modEdge_committedPoison (d : Dev) (k : Nat) (f : Edge → Edge) : (modEdge d k f).committedPoison = d.committedPoison := rfl
@[simp] theorem modEdge_manifestChunks (d : Dev) (k : Nat) (f : Edge → Edge) : (modEdge d k f).manifestChunks = d.manifestChunks := rfl
@[simp] theorem modEdge_recFlight (d : Dev) (k : Nat) (f : Edge → Edge) : (modEdge d k f).recFlight = d.recFlight := rfl
@[simp] theorem modEdge_recSeen (d : Dev) (k : Nat) (f : Edge → Edge) : (modEdge d k f).recSeen = d.recSeen := rfl
@[simp] theorem modEdge_rerunStep (d : Dev) (k : Nat) (f : Edge → Edge) : (modEdge d k f).rerunStep = d.rerunStep := rfl
@[simp] theorem modEdge_rerunUpd (d : Dev) (k : Nat) (f : Edge → Edge) : (modEdge d k f).rerunUpd = d.rerunUpd := rfl
@[simp] theorem modEdge_inStep (d : Dev) (k : Nat) (f : Edge → Edge) : (modEdge d k f).inStep = d.inStep := rfl
@[simp] theorem modEdge_originAt (d : Dev) (k : Nat) (f : Edge → Edge) : (modEdge d k f).originAt = d.originAt := rfl

/- raiseRerun -/

@[simp] theorem raiseRerun_now (d : Dev) (s : Scope) : (raiseRerun d s).now = d.now := by cases s <;> rfl
@[simp] theorem raiseRerun_freshN (d : Dev) (s : Scope) : (raiseRerun d s).freshN = d.freshN := by cases s <;> rfl
@[simp] theorem raiseRerun_regs (d : Dev) (s : Scope) : (raiseRerun d s).regs = d.regs := by cases s <;> rfl
@[simp] theorem raiseRerun_rowMeta (d : Dev) (s : Scope) : (raiseRerun d s).rowMeta = d.rowMeta := by cases s <;> rfl
@[simp] theorem raiseRerun_pantry (d : Dev) (s : Scope) : (raiseRerun d s).pantry = d.pantry := by cases s <;> rfl
@[simp] theorem raiseRerun_acc (d : Dev) (s : Scope) : (raiseRerun d s).acc = d.acc := by cases s <;> rfl
@[simp] theorem raiseRerun_accPar (d : Dev) (s : Scope) : (raiseRerun d s).accPar = d.accPar := by cases s <;> rfl
@[simp] theorem raiseRerun_clauseStore (d : Dev) (s : Scope) : (raiseRerun d s).clauseStore = d.clauseStore := by cases s <;> rfl
@[simp] theorem raiseRerun_clauseSeq (d : Dev) (s : Scope) : (raiseRerun d s).clauseSeq = d.clauseSeq := by cases s <;> rfl
@[simp] theorem raiseRerun_slotTable (d : Dev) (s : Scope) : (raiseRerun d s).slotTable = d.slotTable := by cases s <;> rfl
@[simp] theorem raiseRerun_portMap (d : Dev) (s : Scope) : (raiseRerun d s).portMap = d.portMap := by cases s <;> rfl
@[simp] theorem raiseRerun_cores (d : Dev) (s : Scope) : (raiseRerun d s).cores = d.cores := by cases s <;> rfl
@[simp] theorem raiseRerun_agents (d : Dev) (s : Scope) : (raiseRerun d s).agents = d.agents := by cases s <;> rfl
@[simp] theorem raiseRerun_opens (d : Dev) (s : Scope) : (raiseRerun d s).opens = d.opens := by cases s <;> rfl
@[simp] theorem raiseRerun_closes (d : Dev) (s : Scope) : (raiseRerun d s).closes = d.closes := by cases s <;> rfl
@[simp] theorem raiseRerun_flits (d : Dev) (s : Scope) : (raiseRerun d s).flits = d.flits := by cases s <;> rfl
@[simp] theorem raiseRerun_preReads (d : Dev) (s : Scope) : (raiseRerun d s).preReads = d.preReads := by cases s <;> rfl
@[simp] theorem raiseRerun_deliveries (d : Dev) (s : Scope) : (raiseRerun d s).deliveries = d.deliveries := by cases s <;> rfl
@[simp] theorem raiseRerun_shelfFlight (d : Dev) (s : Scope) : (raiseRerun d s).shelfFlight = d.shelfFlight := by cases s <;> rfl
@[simp] theorem raiseRerun_hostHold (d : Dev) (s : Scope) : (raiseRerun d s).hostHold = d.hostHold := by cases s <;> rfl
@[simp] theorem raiseRerun_doeHeld (d : Dev) (s : Scope) : (raiseRerun d s).doeHeld = d.doeHeld := by cases s <;> rfl
@[simp] theorem raiseRerun_hostRds (d : Dev) (s : Scope) : (raiseRerun d s).hostRds = d.hostRds := by cases s <;> rfl
@[simp] theorem raiseRerun_hostNo (d : Dev) (s : Scope) : (raiseRerun d s).hostNo = d.hostNo := by cases s <;> rfl
@[simp] theorem raiseRerun_meshLatch (d : Dev) (s : Scope) : (raiseRerun d s).meshLatch = d.meshLatch := by cases s <;> rfl
@[simp] theorem raiseRerun_tickOut (d : Dev) (s : Scope) : (raiseRerun d s).tickOut = d.tickOut := by cases s <;> rfl
@[simp] theorem raiseRerun_guarded (d : Dev) (s : Scope) : (raiseRerun d s).guarded = d.guarded := by cases s <;> rfl
@[simp] theorem raiseRerun_tickAt (d : Dev) (s : Scope) : (raiseRerun d s).tickAt = d.tickAt := by cases s <;> rfl
@[simp] theorem raiseRerun_edgeAlign (d : Dev) (s : Scope) : (raiseRerun d s).edgeAlign = d.edgeAlign := by cases s <;> rfl
@[simp] theorem raiseRerun_losePend (d : Dev) (s : Scope) : (raiseRerun d s).losePend = d.losePend := by cases s <;> rfl
@[simp] theorem raiseRerun_keyTable (d : Dev) (s : Scope) : (raiseRerun d s).keyTable = d.keyTable := by cases s <;> rfl
@[simp] theorem raiseRerun_cmap (d : Dev) (s : Scope) : (raiseRerun d s).cmap = d.cmap := by cases s <;> rfl
@[simp] theorem raiseRerun_writebacks (d : Dev) (s : Scope) : (raiseRerun d s).writebacks = d.writebacks := by cases s <;> rfl
@[simp] theorem raiseRerun_ccLast (d : Dev) (s : Scope) : (raiseRerun d s).ccLast = d.ccLast := by cases s <;> rfl
@[simp] theorem raiseRerun_ceTime (d : Dev) (s : Scope) : (raiseRerun d s).ceTime = d.ceTime := by cases s <;> rfl
@[simp] theorem raiseRerun_syncFlight (d : Dev) (s : Scope) : (raiseRerun d s).syncFlight = d.syncFlight := by cases s <;> rfl
@[simp] theorem raiseRerun_waits (d : Dev) (s : Scope) : (raiseRerun d s).waits = d.waits := by cases s <;> rfl
@[simp] theorem raiseRerun_syncOut (d : Dev) (s : Scope) : (raiseRerun d s).syncOut = d.syncOut := by cases s <;> rfl
@[simp] theorem raiseRerun_cqQueue (d : Dev) (s : Scope) : (raiseRerun d s).cqQueue = d.cqQueue := by cases s <;> rfl
@[simp] theorem raiseRerun_cqHeld (d : Dev) (s : Scope) : (raiseRerun d s).cqHeld = d.cqHeld := by cases s <;> rfl
@[simp] theorem raiseRerun_upd (d : Dev) (s : Scope) : (raiseRerun d s).upd = d.upd := by cases s <;> rfl
@[simp] theorem raiseRerun_res (d : Dev) (s : Scope) : (raiseRerun d s).res = d.res := by cases s <;> rfl
@[simp] theorem raiseRerun_out (d : Dev) (s : Scope) : (raiseRerun d s).out = d.out := by cases s <;> rfl
@[simp] theorem raiseRerun_fab (d : Dev) (s : Scope) : (raiseRerun d s).fab = d.fab := by cases s <;> rfl
@[simp] theorem raiseRerun_meshInj (d : Dev) (s : Scope) : (raiseRerun d s).meshInj = d.meshInj := by cases s <;> rfl
@[simp] theorem raiseRerun_pwr (d : Dev) (s : Scope) : (raiseRerun d s).pwr = d.pwr := by cases s <;> rfl
@[simp] theorem raiseRerun_heat (d : Dev) (s : Scope) : (raiseRerun d s).heat = d.heat := by cases s <;> rfl
@[simp] theorem raiseRerun_flt (d : Dev) (s : Scope) : (raiseRerun d s).flt = d.flt := by cases s <;> rfl
@[simp] theorem raiseRerun_staged (d : Dev) (s : Scope) : (raiseRerun d s).staged = d.staged := by cases s <;> rfl
@[simp] theorem raiseRerun_pkgs (d : Dev) (s : Scope) : (raiseRerun d s).pkgs = d.pkgs := by cases s <;> rfl
@[simp] theorem raiseRerun_primary (d : Dev) (s : Scope) : (raiseRerun d s).primary = d.primary := by cases s <;> rfl
@[simp] theorem raiseRerun_pan (d : Dev) (s : Scope) : (raiseRerun d s).pan = d.pan := by cases s <;> rfl
@[simp] theorem raiseRerun_ctxKeys (d : Dev) (s : Scope) : (raiseRerun d s).ctxKeys = d.ctxKeys := by cases s <;> rfl
@[simp] theorem raiseRerun_jtag (d : Dev) (s : Scope) : (raiseRerun d s).jtag = d.jtag := by cases s <;> rfl
@[simp] theorem raiseRerun_attic (d : Dev) (s : Scope) : (raiseRerun d s).attic = d.attic := by cases s <;> rfl
@[simp] theorem raiseRerun_boot (d : Dev) (s : Scope) : (raiseRerun d s).boot = d.boot := by cases s <;> rfl
@[simp] theorem raiseRerun_volts (d : Dev) (s : Scope) : (raiseRerun d s).volts = d.volts := by cases s <;> rfl
@[simp] theorem raiseRerun_aer (d : Dev) (s : Scope) : (raiseRerun d s).aer = d.aer := by cases s <;> rfl
@[simp] theorem raiseRerun_cqPhase (d : Dev) (s : Scope) : (raiseRerun d s).cqPhase = d.cqPhase := by cases s <;> rfl
@[simp] theorem raiseRerun_msixDue (d : Dev) (s : Scope) : (raiseRerun d s).msixDue = d.msixDue := by cases s <;> rfl
@[simp] theorem raiseRerun_alert (d : Dev) (s : Scope) : (raiseRerun d s).alert = d.alert := by cases s <;> rfl
@[simp] theorem raiseRerun_committedPoison (d : Dev) (s : Scope) : (raiseRerun d s).committedPoison = d.committedPoison := by cases s <;> rfl
@[simp] theorem raiseRerun_manifestChunks (d : Dev) (s : Scope) : (raiseRerun d s).manifestChunks = d.manifestChunks := by cases s <;> rfl
@[simp] theorem raiseRerun_recFlight (d : Dev) (s : Scope) : (raiseRerun d s).recFlight = d.recFlight := by cases s <;> rfl
@[simp] theorem raiseRerun_recSeen (d : Dev) (s : Scope) : (raiseRerun d s).recSeen = d.recSeen := by cases s <;> rfl
@[simp] theorem raiseRerun_inStep (d : Dev) (s : Scope) : (raiseRerun d s).inStep = d.inStep := by cases s <;> rfl
@[simp] theorem raiseRerun_originAt (d : Dev) (s : Scope) : (raiseRerun d s).originAt = d.originAt := by cases s <;> rfl

/- report -/

@[simp] theorem report_now (d : Dev) (e : Ev) : (report d e).now = d.now := report_keep Dev.now (fun _ _ _ _ => rfl) raiseRerun_now d e
@[simp] theorem report_regs (d : Dev) (e : Ev) : (report d e).regs = d.regs := report_keep Dev.regs (fun _ _ _ _ => rfl) raiseRerun_regs d e
@[simp] theorem report_rowMeta (d : Dev) (e : Ev) : (report d e).rowMeta = d.rowMeta := report_keep Dev.rowMeta (fun _ _ _ _ => rfl) raiseRerun_rowMeta d e
@[simp] theorem report_pantry (d : Dev) (e : Ev) : (report d e).pantry = d.pantry := report_keep Dev.pantry (fun _ _ _ _ => rfl) raiseRerun_pantry d e
@[simp] theorem report_acc (d : Dev) (e : Ev) : (report d e).acc = d.acc := report_keep Dev.acc (fun _ _ _ _ => rfl) raiseRerun_acc d e
@[simp] theorem report_accPar (d : Dev) (e : Ev) : (report d e).accPar = d.accPar := report_keep Dev.accPar (fun _ _ _ _ => rfl) raiseRerun_accPar d e
@[simp] theorem report_clauseStore (d : Dev) (e : Ev) : (report d e).clauseStore = d.clauseStore := report_keep Dev.clauseStore (fun _ _ _ _ => rfl) raiseRerun_clauseStore d e
@[simp] theorem report_clauseSeq (d : Dev) (e : Ev) : (report d e).clauseSeq = d.clauseSeq := report_keep Dev.clauseSeq (fun _ _ _ _ => rfl) raiseRerun_clauseSeq d e
@[simp] theorem report_slotTable (d : Dev) (e : Ev) : (report d e).slotTable = d.slotTable := report_keep Dev.slotTable (fun _ _ _ _ => rfl) raiseRerun_slotTable d e
@[simp] theorem report_portMap (d : Dev) (e : Ev) : (report d e).portMap = d.portMap := report_keep Dev.portMap (fun _ _ _ _ => rfl) raiseRerun_portMap d e
@[simp] theorem report_cores (d : Dev) (e : Ev) : (report d e).cores = d.cores := report_keep Dev.cores (fun _ _ _ _ => rfl) raiseRerun_cores d e
@[simp] theorem report_agents (d : Dev) (e : Ev) : (report d e).agents = d.agents := report_keep Dev.agents (fun _ _ _ _ => rfl) raiseRerun_agents d e
@[simp] theorem report_opens (d : Dev) (e : Ev) : (report d e).opens = d.opens := report_keep Dev.opens (fun _ _ _ _ => rfl) raiseRerun_opens d e
@[simp] theorem report_closes (d : Dev) (e : Ev) : (report d e).closes = d.closes := report_keep Dev.closes (fun _ _ _ _ => rfl) raiseRerun_closes d e
@[simp] theorem report_flits (d : Dev) (e : Ev) : (report d e).flits = d.flits := report_keep Dev.flits (fun _ _ _ _ => rfl) raiseRerun_flits d e
@[simp] theorem report_preReads (d : Dev) (e : Ev) : (report d e).preReads = d.preReads := report_keep Dev.preReads (fun _ _ _ _ => rfl) raiseRerun_preReads d e
@[simp] theorem report_deliveries (d : Dev) (e : Ev) : (report d e).deliveries = d.deliveries := report_keep Dev.deliveries (fun _ _ _ _ => rfl) raiseRerun_deliveries d e
@[simp] theorem report_shelfFlight (d : Dev) (e : Ev) : (report d e).shelfFlight = d.shelfFlight := report_keep Dev.shelfFlight (fun _ _ _ _ => rfl) raiseRerun_shelfFlight d e
@[simp] theorem report_hostHold (d : Dev) (e : Ev) : (report d e).hostHold = d.hostHold := report_keep Dev.hostHold (fun _ _ _ _ => rfl) raiseRerun_hostHold d e
@[simp] theorem report_doeHeld (d : Dev) (e : Ev) : (report d e).doeHeld = d.doeHeld := report_keep Dev.doeHeld (fun _ _ _ _ => rfl) raiseRerun_doeHeld d e
@[simp] theorem report_hostRds (d : Dev) (e : Ev) : (report d e).hostRds = d.hostRds := report_keep Dev.hostRds (fun _ _ _ _ => rfl) raiseRerun_hostRds d e
@[simp] theorem report_hostNo (d : Dev) (e : Ev) : (report d e).hostNo = d.hostNo := report_keep Dev.hostNo (fun _ _ _ _ => rfl) raiseRerun_hostNo d e
@[simp] theorem report_meshLatch (d : Dev) (e : Ev) : (report d e).meshLatch = d.meshLatch := report_keep Dev.meshLatch (fun _ _ _ _ => rfl) raiseRerun_meshLatch d e
@[simp] theorem report_tickOut (d : Dev) (e : Ev) : (report d e).tickOut = d.tickOut := report_keep Dev.tickOut (fun _ _ _ _ => rfl) raiseRerun_tickOut d e
@[simp] theorem report_guarded (d : Dev) (e : Ev) : (report d e).guarded = d.guarded := report_keep Dev.guarded (fun _ _ _ _ => rfl) raiseRerun_guarded d e
@[simp] theorem report_tickAt (d : Dev) (e : Ev) : (report d e).tickAt = d.tickAt := report_keep Dev.tickAt (fun _ _ _ _ => rfl) raiseRerun_tickAt d e
@[simp] theorem report_edgeAlign (d : Dev) (e : Ev) : (report d e).edgeAlign = d.edgeAlign := report_keep Dev.edgeAlign (fun _ _ _ _ => rfl) raiseRerun_edgeAlign d e
@[simp] theorem report_losePend (d : Dev) (e : Ev) : (report d e).losePend = d.losePend := report_keep Dev.losePend (fun _ _ _ _ => rfl) raiseRerun_losePend d e
@[simp] theorem report_keyTable (d : Dev) (e : Ev) : (report d e).keyTable = d.keyTable := report_keep Dev.keyTable (fun _ _ _ _ => rfl) raiseRerun_keyTable d e
@[simp] theorem report_cmap (d : Dev) (e : Ev) : (report d e).cmap = d.cmap := report_keep Dev.cmap (fun _ _ _ _ => rfl) raiseRerun_cmap d e
@[simp] theorem report_writebacks (d : Dev) (e : Ev) : (report d e).writebacks = d.writebacks := report_keep Dev.writebacks (fun _ _ _ _ => rfl) raiseRerun_writebacks d e
@[simp] theorem report_ccLast (d : Dev) (e : Ev) : (report d e).ccLast = d.ccLast := report_keep Dev.ccLast (fun _ _ _ _ => rfl) raiseRerun_ccLast d e
@[simp] theorem report_ceTime (d : Dev) (e : Ev) : (report d e).ceTime = d.ceTime := report_keep Dev.ceTime (fun _ _ _ _ => rfl) raiseRerun_ceTime d e
@[simp] theorem report_syncFlight (d : Dev) (e : Ev) : (report d e).syncFlight = d.syncFlight := report_keep Dev.syncFlight (fun _ _ _ _ => rfl) raiseRerun_syncFlight d e
@[simp] theorem report_waits (d : Dev) (e : Ev) : (report d e).waits = d.waits := report_keep Dev.waits (fun _ _ _ _ => rfl) raiseRerun_waits d e
@[simp] theorem report_syncOut (d : Dev) (e : Ev) : (report d e).syncOut = d.syncOut := report_keep Dev.syncOut (fun _ _ _ _ => rfl) raiseRerun_syncOut d e
@[simp] theorem report_cqQueue (d : Dev) (e : Ev) : (report d e).cqQueue = d.cqQueue := report_keep Dev.cqQueue (fun _ _ _ _ => rfl) raiseRerun_cqQueue d e
@[simp] theorem report_cqHeld (d : Dev) (e : Ev) : (report d e).cqHeld = d.cqHeld := report_keep Dev.cqHeld (fun _ _ _ _ => rfl) raiseRerun_cqHeld d e
@[simp] theorem report_upd (d : Dev) (e : Ev) : (report d e).upd = d.upd := report_keep Dev.upd (fun _ _ _ _ => rfl) raiseRerun_upd d e
@[simp] theorem report_res (d : Dev) (e : Ev) : (report d e).res = d.res := report_keep Dev.res (fun _ _ _ _ => rfl) raiseRerun_res d e
@[simp] theorem report_out (d : Dev) (e : Ev) : (report d e).out = d.out := report_keep Dev.out (fun _ _ _ _ => rfl) raiseRerun_out d e
@[simp] theorem report_fab (d : Dev) (e : Ev) : (report d e).fab = d.fab := report_keep Dev.fab (fun _ _ _ _ => rfl) raiseRerun_fab d e
@[simp] theorem report_meshInj (d : Dev) (e : Ev) : (report d e).meshInj = d.meshInj := report_keep Dev.meshInj (fun _ _ _ _ => rfl) raiseRerun_meshInj d e
@[simp] theorem report_pwr (d : Dev) (e : Ev) : (report d e).pwr = d.pwr := report_keep Dev.pwr (fun _ _ _ _ => rfl) raiseRerun_pwr d e
@[simp] theorem report_heat (d : Dev) (e : Ev) : (report d e).heat = d.heat := report_keep Dev.heat (fun _ _ _ _ => rfl) raiseRerun_heat d e
@[simp] theorem report_flt (d : Dev) (e : Ev) : (report d e).flt = d.flt := report_keep Dev.flt (fun _ _ _ _ => rfl) raiseRerun_flt d e
@[simp] theorem report_staged (d : Dev) (e : Ev) : (report d e).staged = d.staged := report_keep Dev.staged (fun _ _ _ _ => rfl) raiseRerun_staged d e
@[simp] theorem report_pkgs (d : Dev) (e : Ev) : (report d e).pkgs = d.pkgs := report_keep Dev.pkgs (fun _ _ _ _ => rfl) raiseRerun_pkgs d e
@[simp] theorem report_primary (d : Dev) (e : Ev) : (report d e).primary = d.primary := report_keep Dev.primary (fun _ _ _ _ => rfl) raiseRerun_primary d e
@[simp] theorem report_pan (d : Dev) (e : Ev) : (report d e).pan = d.pan := report_keep Dev.pan (fun _ _ _ _ => rfl) raiseRerun_pan d e
@[simp] theorem report_ctxKeys (d : Dev) (e : Ev) : (report d e).ctxKeys = d.ctxKeys := report_keep Dev.ctxKeys (fun _ _ _ _ => rfl) raiseRerun_ctxKeys d e
@[simp] theorem report_jtag (d : Dev) (e : Ev) : (report d e).jtag = d.jtag := report_keep Dev.jtag (fun _ _ _ _ => rfl) raiseRerun_jtag d e
@[simp] theorem report_attic (d : Dev) (e : Ev) : (report d e).attic = d.attic := report_keep Dev.attic (fun _ _ _ _ => rfl) raiseRerun_attic d e
@[simp] theorem report_boot (d : Dev) (e : Ev) : (report d e).boot = d.boot := report_keep Dev.boot (fun _ _ _ _ => rfl) raiseRerun_boot d e
@[simp] theorem report_volts (d : Dev) (e : Ev) : (report d e).volts = d.volts := report_keep Dev.volts (fun _ _ _ _ => rfl) raiseRerun_volts d e
@[simp] theorem report_aer (d : Dev) (e : Ev) : (report d e).aer = d.aer := report_keep Dev.aer (fun _ _ _ _ => rfl) raiseRerun_aer d e
@[simp] theorem report_cqPhase (d : Dev) (e : Ev) : (report d e).cqPhase = d.cqPhase := report_keep Dev.cqPhase (fun _ _ _ _ => rfl) raiseRerun_cqPhase d e
@[simp] theorem report_msixDue (d : Dev) (e : Ev) : (report d e).msixDue = d.msixDue := report_keep Dev.msixDue (fun _ _ _ _ => rfl) raiseRerun_msixDue d e
@[simp] theorem report_alert (d : Dev) (e : Ev) : (report d e).alert = d.alert := report_keep Dev.alert (fun _ _ _ _ => rfl) raiseRerun_alert d e
@[simp] theorem report_committedPoison (d : Dev) (e : Ev) : (report d e).committedPoison = d.committedPoison := report_keep Dev.committedPoison (fun _ _ _ _ => rfl) raiseRerun_committedPoison d e
@[simp] theorem report_manifestChunks (d : Dev) (e : Ev) : (report d e).manifestChunks = d.manifestChunks := report_keep Dev.manifestChunks (fun _ _ _ _ => rfl) raiseRerun_manifestChunks d e
@[simp] theorem report_inStep (d : Dev) (e : Ev) : (report d e).inStep = d.inStep := report_keep Dev.inStep (fun _ _ _ _ => rfl) raiseRerun_inStep d e
@[simp] theorem report_originAt (d : Dev) (e : Ev) : (report d e).originAt = d.originAt := report_keep Dev.originAt (fun _ _ _ _ => rfl) raiseRerun_originAt d e

/- postCq -/

@[simp] theorem postCq_now (d : Dev) (kind status tag value detail vec : Nat) : (postCq d kind status tag value detail vec).now = d.now := postCq_keep Dev.now (fun _ _ _ => rfl) (fun _ _ => rfl) (fun _ _ => rfl) d kind status tag value detail vec
@[simp] theorem postCq_freshN (d : Dev) (kind status tag value detail vec : Nat) : (postCq d kind status tag value detail vec).freshN = d.freshN := postCq_keep Dev.freshN (fun _ _ _ => rfl) (fun _ _ => rfl) (fun _ _ => rfl) d kind status tag value detail vec
@[simp] theorem postCq_rowMeta (d : Dev) (kind status tag value detail vec : Nat) : (postCq d kind status tag value detail vec).rowMeta = d.rowMeta := postCq_keep Dev.rowMeta (fun _ _ _ => rfl) (fun _ _ => rfl) (fun _ _ => rfl) d kind status tag value detail vec
@[simp] theorem postCq_pantry (d : Dev) (kind status tag value detail vec : Nat) : (postCq d kind status tag value detail vec).pantry = d.pantry := postCq_keep Dev.pantry (fun _ _ _ => rfl) (fun _ _ => rfl) (fun _ _ => rfl) d kind status tag value detail vec
@[simp] theorem postCq_acc (d : Dev) (kind status tag value detail vec : Nat) : (postCq d kind status tag value detail vec).acc = d.acc := postCq_keep Dev.acc (fun _ _ _ => rfl) (fun _ _ => rfl) (fun _ _ => rfl) d kind status tag value detail vec
@[simp] theorem postCq_accPar (d : Dev) (kind status tag value detail vec : Nat) : (postCq d kind status tag value detail vec).accPar = d.accPar := postCq_keep Dev.accPar (fun _ _ _ => rfl) (fun _ _ => rfl) (fun _ _ => rfl) d kind status tag value detail vec
@[simp] theorem postCq_clauseStore (d : Dev) (kind status tag value detail vec : Nat) : (postCq d kind status tag value detail vec).clauseStore = d.clauseStore := postCq_keep Dev.clauseStore (fun _ _ _ => rfl) (fun _ _ => rfl) (fun _ _ => rfl) d kind status tag value detail vec
@[simp] theorem postCq_clauseSeq (d : Dev) (kind status tag value detail vec : Nat) : (postCq d kind status tag value detail vec).clauseSeq = d.clauseSeq := postCq_keep Dev.clauseSeq (fun _ _ _ => rfl) (fun _ _ => rfl) (fun _ _ => rfl) d kind status tag value detail vec
@[simp] theorem postCq_slotTable (d : Dev) (kind status tag value detail vec : Nat) : (postCq d kind status tag value detail vec).slotTable = d.slotTable := postCq_keep Dev.slotTable (fun _ _ _ => rfl) (fun _ _ => rfl) (fun _ _ => rfl) d kind status tag value detail vec
@[simp] theorem postCq_portMap (d : Dev) (kind status tag value detail vec : Nat) : (postCq d kind status tag value detail vec).portMap = d.portMap := postCq_keep Dev.portMap (fun _ _ _ => rfl) (fun _ _ => rfl) (fun _ _ => rfl) d kind status tag value detail vec
@[simp] theorem postCq_cores (d : Dev) (kind status tag value detail vec : Nat) : (postCq d kind status tag value detail vec).cores = d.cores := postCq_keep Dev.cores (fun _ _ _ => rfl) (fun _ _ => rfl) (fun _ _ => rfl) d kind status tag value detail vec
@[simp] theorem postCq_agents (d : Dev) (kind status tag value detail vec : Nat) : (postCq d kind status tag value detail vec).agents = d.agents := postCq_keep Dev.agents (fun _ _ _ => rfl) (fun _ _ => rfl) (fun _ _ => rfl) d kind status tag value detail vec
@[simp] theorem postCq_opens (d : Dev) (kind status tag value detail vec : Nat) : (postCq d kind status tag value detail vec).opens = d.opens := postCq_keep Dev.opens (fun _ _ _ => rfl) (fun _ _ => rfl) (fun _ _ => rfl) d kind status tag value detail vec
@[simp] theorem postCq_closes (d : Dev) (kind status tag value detail vec : Nat) : (postCq d kind status tag value detail vec).closes = d.closes := postCq_keep Dev.closes (fun _ _ _ => rfl) (fun _ _ => rfl) (fun _ _ => rfl) d kind status tag value detail vec
@[simp] theorem postCq_flits (d : Dev) (kind status tag value detail vec : Nat) : (postCq d kind status tag value detail vec).flits = d.flits := postCq_keep Dev.flits (fun _ _ _ => rfl) (fun _ _ => rfl) (fun _ _ => rfl) d kind status tag value detail vec
@[simp] theorem postCq_preReads (d : Dev) (kind status tag value detail vec : Nat) : (postCq d kind status tag value detail vec).preReads = d.preReads := postCq_keep Dev.preReads (fun _ _ _ => rfl) (fun _ _ => rfl) (fun _ _ => rfl) d kind status tag value detail vec
@[simp] theorem postCq_deliveries (d : Dev) (kind status tag value detail vec : Nat) : (postCq d kind status tag value detail vec).deliveries = d.deliveries := postCq_keep Dev.deliveries (fun _ _ _ => rfl) (fun _ _ => rfl) (fun _ _ => rfl) d kind status tag value detail vec
@[simp] theorem postCq_shelfFlight (d : Dev) (kind status tag value detail vec : Nat) : (postCq d kind status tag value detail vec).shelfFlight = d.shelfFlight := postCq_keep Dev.shelfFlight (fun _ _ _ => rfl) (fun _ _ => rfl) (fun _ _ => rfl) d kind status tag value detail vec
@[simp] theorem postCq_hostHold (d : Dev) (kind status tag value detail vec : Nat) : (postCq d kind status tag value detail vec).hostHold = d.hostHold := postCq_keep Dev.hostHold (fun _ _ _ => rfl) (fun _ _ => rfl) (fun _ _ => rfl) d kind status tag value detail vec
@[simp] theorem postCq_doeHeld (d : Dev) (kind status tag value detail vec : Nat) : (postCq d kind status tag value detail vec).doeHeld = d.doeHeld := postCq_keep Dev.doeHeld (fun _ _ _ => rfl) (fun _ _ => rfl) (fun _ _ => rfl) d kind status tag value detail vec
@[simp] theorem postCq_hostRds (d : Dev) (kind status tag value detail vec : Nat) : (postCq d kind status tag value detail vec).hostRds = d.hostRds := postCq_keep Dev.hostRds (fun _ _ _ => rfl) (fun _ _ => rfl) (fun _ _ => rfl) d kind status tag value detail vec
@[simp] theorem postCq_hostNo (d : Dev) (kind status tag value detail vec : Nat) : (postCq d kind status tag value detail vec).hostNo = d.hostNo := postCq_keep Dev.hostNo (fun _ _ _ => rfl) (fun _ _ => rfl) (fun _ _ => rfl) d kind status tag value detail vec
@[simp] theorem postCq_meshLatch (d : Dev) (kind status tag value detail vec : Nat) : (postCq d kind status tag value detail vec).meshLatch = d.meshLatch := postCq_keep Dev.meshLatch (fun _ _ _ => rfl) (fun _ _ => rfl) (fun _ _ => rfl) d kind status tag value detail vec
@[simp] theorem postCq_tickOut (d : Dev) (kind status tag value detail vec : Nat) : (postCq d kind status tag value detail vec).tickOut = d.tickOut := postCq_keep Dev.tickOut (fun _ _ _ => rfl) (fun _ _ => rfl) (fun _ _ => rfl) d kind status tag value detail vec
@[simp] theorem postCq_guarded (d : Dev) (kind status tag value detail vec : Nat) : (postCq d kind status tag value detail vec).guarded = d.guarded := postCq_keep Dev.guarded (fun _ _ _ => rfl) (fun _ _ => rfl) (fun _ _ => rfl) d kind status tag value detail vec
@[simp] theorem postCq_tickAt (d : Dev) (kind status tag value detail vec : Nat) : (postCq d kind status tag value detail vec).tickAt = d.tickAt := postCq_keep Dev.tickAt (fun _ _ _ => rfl) (fun _ _ => rfl) (fun _ _ => rfl) d kind status tag value detail vec
@[simp] theorem postCq_edgeAlign (d : Dev) (kind status tag value detail vec : Nat) : (postCq d kind status tag value detail vec).edgeAlign = d.edgeAlign := postCq_keep Dev.edgeAlign (fun _ _ _ => rfl) (fun _ _ => rfl) (fun _ _ => rfl) d kind status tag value detail vec
@[simp] theorem postCq_losePend (d : Dev) (kind status tag value detail vec : Nat) : (postCq d kind status tag value detail vec).losePend = d.losePend := postCq_keep Dev.losePend (fun _ _ _ => rfl) (fun _ _ => rfl) (fun _ _ => rfl) d kind status tag value detail vec
@[simp] theorem postCq_keyTable (d : Dev) (kind status tag value detail vec : Nat) : (postCq d kind status tag value detail vec).keyTable = d.keyTable := postCq_keep Dev.keyTable (fun _ _ _ => rfl) (fun _ _ => rfl) (fun _ _ => rfl) d kind status tag value detail vec
@[simp] theorem postCq_cmap (d : Dev) (kind status tag value detail vec : Nat) : (postCq d kind status tag value detail vec).cmap = d.cmap := postCq_keep Dev.cmap (fun _ _ _ => rfl) (fun _ _ => rfl) (fun _ _ => rfl) d kind status tag value detail vec
@[simp] theorem postCq_writebacks (d : Dev) (kind status tag value detail vec : Nat) : (postCq d kind status tag value detail vec).writebacks = d.writebacks := postCq_keep Dev.writebacks (fun _ _ _ => rfl) (fun _ _ => rfl) (fun _ _ => rfl) d kind status tag value detail vec
@[simp] theorem postCq_ccLast (d : Dev) (kind status tag value detail vec : Nat) : (postCq d kind status tag value detail vec).ccLast = d.ccLast := postCq_keep Dev.ccLast (fun _ _ _ => rfl) (fun _ _ => rfl) (fun _ _ => rfl) d kind status tag value detail vec
@[simp] theorem postCq_ceTime (d : Dev) (kind status tag value detail vec : Nat) : (postCq d kind status tag value detail vec).ceTime = d.ceTime := postCq_keep Dev.ceTime (fun _ _ _ => rfl) (fun _ _ => rfl) (fun _ _ => rfl) d kind status tag value detail vec
@[simp] theorem postCq_syncFlight (d : Dev) (kind status tag value detail vec : Nat) : (postCq d kind status tag value detail vec).syncFlight = d.syncFlight := postCq_keep Dev.syncFlight (fun _ _ _ => rfl) (fun _ _ => rfl) (fun _ _ => rfl) d kind status tag value detail vec
@[simp] theorem postCq_waits (d : Dev) (kind status tag value detail vec : Nat) : (postCq d kind status tag value detail vec).waits = d.waits := postCq_keep Dev.waits (fun _ _ _ => rfl) (fun _ _ => rfl) (fun _ _ => rfl) d kind status tag value detail vec
@[simp] theorem postCq_syncOut (d : Dev) (kind status tag value detail vec : Nat) : (postCq d kind status tag value detail vec).syncOut = d.syncOut := postCq_keep Dev.syncOut (fun _ _ _ => rfl) (fun _ _ => rfl) (fun _ _ => rfl) d kind status tag value detail vec
@[simp] theorem postCq_upd (d : Dev) (kind status tag value detail vec : Nat) : (postCq d kind status tag value detail vec).upd = d.upd := postCq_keep Dev.upd (fun _ _ _ => rfl) (fun _ _ => rfl) (fun _ _ => rfl) d kind status tag value detail vec
@[simp] theorem postCq_res (d : Dev) (kind status tag value detail vec : Nat) : (postCq d kind status tag value detail vec).res = d.res := postCq_keep Dev.res (fun _ _ _ => rfl) (fun _ _ => rfl) (fun _ _ => rfl) d kind status tag value detail vec
@[simp] theorem postCq_out (d : Dev) (kind status tag value detail vec : Nat) : (postCq d kind status tag value detail vec).out = d.out := postCq_keep Dev.out (fun _ _ _ => rfl) (fun _ _ => rfl) (fun _ _ => rfl) d kind status tag value detail vec
@[simp] theorem postCq_fab (d : Dev) (kind status tag value detail vec : Nat) : (postCq d kind status tag value detail vec).fab = d.fab := postCq_keep Dev.fab (fun _ _ _ => rfl) (fun _ _ => rfl) (fun _ _ => rfl) d kind status tag value detail vec
@[simp] theorem postCq_meshInj (d : Dev) (kind status tag value detail vec : Nat) : (postCq d kind status tag value detail vec).meshInj = d.meshInj := postCq_keep Dev.meshInj (fun _ _ _ => rfl) (fun _ _ => rfl) (fun _ _ => rfl) d kind status tag value detail vec
@[simp] theorem postCq_pwr (d : Dev) (kind status tag value detail vec : Nat) : (postCq d kind status tag value detail vec).pwr = d.pwr := postCq_keep Dev.pwr (fun _ _ _ => rfl) (fun _ _ => rfl) (fun _ _ => rfl) d kind status tag value detail vec
@[simp] theorem postCq_heat (d : Dev) (kind status tag value detail vec : Nat) : (postCq d kind status tag value detail vec).heat = d.heat := postCq_keep Dev.heat (fun _ _ _ => rfl) (fun _ _ => rfl) (fun _ _ => rfl) d kind status tag value detail vec
@[simp] theorem postCq_flt (d : Dev) (kind status tag value detail vec : Nat) : (postCq d kind status tag value detail vec).flt = d.flt := postCq_keep Dev.flt (fun _ _ _ => rfl) (fun _ _ => rfl) (fun _ _ => rfl) d kind status tag value detail vec
@[simp] theorem postCq_staged (d : Dev) (kind status tag value detail vec : Nat) : (postCq d kind status tag value detail vec).staged = d.staged := postCq_keep Dev.staged (fun _ _ _ => rfl) (fun _ _ => rfl) (fun _ _ => rfl) d kind status tag value detail vec
@[simp] theorem postCq_pkgs (d : Dev) (kind status tag value detail vec : Nat) : (postCq d kind status tag value detail vec).pkgs = d.pkgs := postCq_keep Dev.pkgs (fun _ _ _ => rfl) (fun _ _ => rfl) (fun _ _ => rfl) d kind status tag value detail vec
@[simp] theorem postCq_primary (d : Dev) (kind status tag value detail vec : Nat) : (postCq d kind status tag value detail vec).primary = d.primary := postCq_keep Dev.primary (fun _ _ _ => rfl) (fun _ _ => rfl) (fun _ _ => rfl) d kind status tag value detail vec
@[simp] theorem postCq_pan (d : Dev) (kind status tag value detail vec : Nat) : (postCq d kind status tag value detail vec).pan = d.pan := postCq_keep Dev.pan (fun _ _ _ => rfl) (fun _ _ => rfl) (fun _ _ => rfl) d kind status tag value detail vec
@[simp] theorem postCq_ctxKeys (d : Dev) (kind status tag value detail vec : Nat) : (postCq d kind status tag value detail vec).ctxKeys = d.ctxKeys := postCq_keep Dev.ctxKeys (fun _ _ _ => rfl) (fun _ _ => rfl) (fun _ _ => rfl) d kind status tag value detail vec
@[simp] theorem postCq_jtag (d : Dev) (kind status tag value detail vec : Nat) : (postCq d kind status tag value detail vec).jtag = d.jtag := postCq_keep Dev.jtag (fun _ _ _ => rfl) (fun _ _ => rfl) (fun _ _ => rfl) d kind status tag value detail vec
@[simp] theorem postCq_attic (d : Dev) (kind status tag value detail vec : Nat) : (postCq d kind status tag value detail vec).attic = d.attic := postCq_keep Dev.attic (fun _ _ _ => rfl) (fun _ _ => rfl) (fun _ _ => rfl) d kind status tag value detail vec
@[simp] theorem postCq_boot (d : Dev) (kind status tag value detail vec : Nat) : (postCq d kind status tag value detail vec).boot = d.boot := postCq_keep Dev.boot (fun _ _ _ => rfl) (fun _ _ => rfl) (fun _ _ => rfl) d kind status tag value detail vec
@[simp] theorem postCq_volts (d : Dev) (kind status tag value detail vec : Nat) : (postCq d kind status tag value detail vec).volts = d.volts := postCq_keep Dev.volts (fun _ _ _ => rfl) (fun _ _ => rfl) (fun _ _ => rfl) d kind status tag value detail vec
@[simp] theorem postCq_aer (d : Dev) (kind status tag value detail vec : Nat) : (postCq d kind status tag value detail vec).aer = d.aer := postCq_keep Dev.aer (fun _ _ _ => rfl) (fun _ _ => rfl) (fun _ _ => rfl) d kind status tag value detail vec
@[simp] theorem postCq_cqPhase (d : Dev) (kind status tag value detail vec : Nat) : (postCq d kind status tag value detail vec).cqPhase = d.cqPhase := postCq_keep Dev.cqPhase (fun _ _ _ => rfl) (fun _ _ => rfl) (fun _ _ => rfl) d kind status tag value detail vec
@[simp] theorem postCq_msixDue (d : Dev) (kind status tag value detail vec : Nat) : (postCq d kind status tag value detail vec).msixDue = d.msixDue := postCq_keep Dev.msixDue (fun _ _ _ => rfl) (fun _ _ => rfl) (fun _ _ => rfl) d kind status tag value detail vec
@[simp] theorem postCq_alert (d : Dev) (kind status tag value detail vec : Nat) : (postCq d kind status tag value detail vec).alert = d.alert := postCq_keep Dev.alert (fun _ _ _ => rfl) (fun _ _ => rfl) (fun _ _ => rfl) d kind status tag value detail vec
@[simp] theorem postCq_committedPoison (d : Dev) (kind status tag value detail vec : Nat) : (postCq d kind status tag value detail vec).committedPoison = d.committedPoison := postCq_keep Dev.committedPoison (fun _ _ _ => rfl) (fun _ _ => rfl) (fun _ _ => rfl) d kind status tag value detail vec
@[simp] theorem postCq_manifestChunks (d : Dev) (kind status tag value detail vec : Nat) : (postCq d kind status tag value detail vec).manifestChunks = d.manifestChunks := postCq_keep Dev.manifestChunks (fun _ _ _ => rfl) (fun _ _ => rfl) (fun _ _ => rfl) d kind status tag value detail vec
@[simp] theorem postCq_recFlight (d : Dev) (kind status tag value detail vec : Nat) : (postCq d kind status tag value detail vec).recFlight = d.recFlight := postCq_keep Dev.recFlight (fun _ _ _ => rfl) (fun _ _ => rfl) (fun _ _ => rfl) d kind status tag value detail vec
@[simp] theorem postCq_recSeen (d : Dev) (kind status tag value detail vec : Nat) : (postCq d kind status tag value detail vec).recSeen = d.recSeen := postCq_keep Dev.recSeen (fun _ _ _ => rfl) (fun _ _ => rfl) (fun _ _ => rfl) d kind status tag value detail vec
@[simp] theorem postCq_rerunStep (d : Dev) (kind status tag value detail vec : Nat) : (postCq d kind status tag value detail vec).rerunStep = d.rerunStep := postCq_keep Dev.rerunStep (fun _ _ _ => rfl) (fun _ _ => rfl) (fun _ _ => rfl) d kind status tag value detail vec
@[simp] theorem postCq_rerunUpd (d : Dev) (kind status tag value detail vec : Nat) : (postCq d kind status tag value detail vec).rerunUpd = d.rerunUpd := postCq_keep Dev.rerunUpd (fun _ _ _ => rfl) (fun _ _ => rfl) (fun _ _ => rfl) d kind status tag value detail vec
@[simp] theorem postCq_inStep (d : Dev) (kind status tag value detail vec : Nat) : (postCq d kind status tag value detail vec).inStep = d.inStep := postCq_keep Dev.inStep (fun _ _ _ => rfl) (fun _ _ => rfl) (fun _ _ => rfl) d kind status tag value detail vec
@[simp] theorem postCq_originAt (d : Dev) (kind status tag value detail vec : Nat) : (postCq d kind status tag value detail vec).originAt = d.originAt := postCq_keep Dev.originAt (fun _ _ _ => rfl) (fun _ _ => rfl) (fun _ _ => rfl) d kind status tag value detail vec

/- finish -/

@[simp] theorem finish_now (d : Dev) (tag status detail : Nat) : (finish d tag status detail).now = d.now := postCq_now d 1 status tag 0 detail 0
@[simp] theorem finish_freshN (d : Dev) (tag status detail : Nat) : (finish d tag status detail).freshN = d.freshN := postCq_freshN d 1 status tag 0 detail 0
@[simp] theorem finish_rowMeta (d : Dev) (tag status detail : Nat) : (finish d tag status detail).rowMeta = d.rowMeta := postCq_rowMeta d 1 status tag 0 detail 0
@[simp] theorem finish_pantry (d : Dev) (tag status detail : Nat) : (finish d tag status detail).pantry = d.pantry := postCq_pantry d 1 status tag 0 detail 0
@[simp] theorem finish_acc (d : Dev) (tag status detail : Nat) : (finish d tag status detail).acc = d.acc := postCq_acc d 1 status tag 0 detail 0
@[simp] theorem finish_accPar (d : Dev) (tag status detail : Nat) : (finish d tag status detail).accPar = d.accPar := postCq_accPar d 1 status tag 0 detail 0
@[simp] theorem finish_clauseStore (d : Dev) (tag status detail : Nat) : (finish d tag status detail).clauseStore = d.clauseStore := postCq_clauseStore d 1 status tag 0 detail 0
@[simp] theorem finish_clauseSeq (d : Dev) (tag status detail : Nat) : (finish d tag status detail).clauseSeq = d.clauseSeq := postCq_clauseSeq d 1 status tag 0 detail 0
@[simp] theorem finish_slotTable (d : Dev) (tag status detail : Nat) : (finish d tag status detail).slotTable = d.slotTable := postCq_slotTable d 1 status tag 0 detail 0
@[simp] theorem finish_portMap (d : Dev) (tag status detail : Nat) : (finish d tag status detail).portMap = d.portMap := postCq_portMap d 1 status tag 0 detail 0
@[simp] theorem finish_cores (d : Dev) (tag status detail : Nat) : (finish d tag status detail).cores = d.cores := postCq_cores d 1 status tag 0 detail 0
@[simp] theorem finish_agents (d : Dev) (tag status detail : Nat) : (finish d tag status detail).agents = d.agents := postCq_agents d 1 status tag 0 detail 0
@[simp] theorem finish_opens (d : Dev) (tag status detail : Nat) : (finish d tag status detail).opens = d.opens := postCq_opens d 1 status tag 0 detail 0
@[simp] theorem finish_closes (d : Dev) (tag status detail : Nat) : (finish d tag status detail).closes = d.closes := postCq_closes d 1 status tag 0 detail 0
@[simp] theorem finish_flits (d : Dev) (tag status detail : Nat) : (finish d tag status detail).flits = d.flits := postCq_flits d 1 status tag 0 detail 0
@[simp] theorem finish_preReads (d : Dev) (tag status detail : Nat) : (finish d tag status detail).preReads = d.preReads := postCq_preReads d 1 status tag 0 detail 0
@[simp] theorem finish_deliveries (d : Dev) (tag status detail : Nat) : (finish d tag status detail).deliveries = d.deliveries := postCq_deliveries d 1 status tag 0 detail 0
@[simp] theorem finish_shelfFlight (d : Dev) (tag status detail : Nat) : (finish d tag status detail).shelfFlight = d.shelfFlight := postCq_shelfFlight d 1 status tag 0 detail 0
@[simp] theorem finish_hostHold (d : Dev) (tag status detail : Nat) : (finish d tag status detail).hostHold = d.hostHold := postCq_hostHold d 1 status tag 0 detail 0
@[simp] theorem finish_doeHeld (d : Dev) (tag status detail : Nat) : (finish d tag status detail).doeHeld = d.doeHeld := postCq_doeHeld d 1 status tag 0 detail 0
@[simp] theorem finish_hostRds (d : Dev) (tag status detail : Nat) : (finish d tag status detail).hostRds = d.hostRds := postCq_hostRds d 1 status tag 0 detail 0
@[simp] theorem finish_hostNo (d : Dev) (tag status detail : Nat) : (finish d tag status detail).hostNo = d.hostNo := postCq_hostNo d 1 status tag 0 detail 0
@[simp] theorem finish_meshLatch (d : Dev) (tag status detail : Nat) : (finish d tag status detail).meshLatch = d.meshLatch := postCq_meshLatch d 1 status tag 0 detail 0
@[simp] theorem finish_tickOut (d : Dev) (tag status detail : Nat) : (finish d tag status detail).tickOut = d.tickOut := postCq_tickOut d 1 status tag 0 detail 0
@[simp] theorem finish_guarded (d : Dev) (tag status detail : Nat) : (finish d tag status detail).guarded = d.guarded := postCq_guarded d 1 status tag 0 detail 0
@[simp] theorem finish_tickAt (d : Dev) (tag status detail : Nat) : (finish d tag status detail).tickAt = d.tickAt := postCq_tickAt d 1 status tag 0 detail 0
@[simp] theorem finish_edgeAlign (d : Dev) (tag status detail : Nat) : (finish d tag status detail).edgeAlign = d.edgeAlign := postCq_edgeAlign d 1 status tag 0 detail 0
@[simp] theorem finish_losePend (d : Dev) (tag status detail : Nat) : (finish d tag status detail).losePend = d.losePend := postCq_losePend d 1 status tag 0 detail 0
@[simp] theorem finish_keyTable (d : Dev) (tag status detail : Nat) : (finish d tag status detail).keyTable = d.keyTable := postCq_keyTable d 1 status tag 0 detail 0
@[simp] theorem finish_cmap (d : Dev) (tag status detail : Nat) : (finish d tag status detail).cmap = d.cmap := postCq_cmap d 1 status tag 0 detail 0
@[simp] theorem finish_writebacks (d : Dev) (tag status detail : Nat) : (finish d tag status detail).writebacks = d.writebacks := postCq_writebacks d 1 status tag 0 detail 0
@[simp] theorem finish_ccLast (d : Dev) (tag status detail : Nat) : (finish d tag status detail).ccLast = d.ccLast := postCq_ccLast d 1 status tag 0 detail 0
@[simp] theorem finish_ceTime (d : Dev) (tag status detail : Nat) : (finish d tag status detail).ceTime = d.ceTime := postCq_ceTime d 1 status tag 0 detail 0
@[simp] theorem finish_syncFlight (d : Dev) (tag status detail : Nat) : (finish d tag status detail).syncFlight = d.syncFlight := postCq_syncFlight d 1 status tag 0 detail 0
@[simp] theorem finish_waits (d : Dev) (tag status detail : Nat) : (finish d tag status detail).waits = d.waits := postCq_waits d 1 status tag 0 detail 0
@[simp] theorem finish_syncOut (d : Dev) (tag status detail : Nat) : (finish d tag status detail).syncOut = d.syncOut := postCq_syncOut d 1 status tag 0 detail 0
@[simp] theorem finish_upd (d : Dev) (tag status detail : Nat) : (finish d tag status detail).upd = d.upd := postCq_upd d 1 status tag 0 detail 0
@[simp] theorem finish_res (d : Dev) (tag status detail : Nat) : (finish d tag status detail).res = d.res := postCq_res d 1 status tag 0 detail 0
@[simp] theorem finish_out (d : Dev) (tag status detail : Nat) : (finish d tag status detail).out = d.out := postCq_out d 1 status tag 0 detail 0
@[simp] theorem finish_fab (d : Dev) (tag status detail : Nat) : (finish d tag status detail).fab = d.fab := postCq_fab d 1 status tag 0 detail 0
@[simp] theorem finish_meshInj (d : Dev) (tag status detail : Nat) : (finish d tag status detail).meshInj = d.meshInj := postCq_meshInj d 1 status tag 0 detail 0
@[simp] theorem finish_pwr (d : Dev) (tag status detail : Nat) : (finish d tag status detail).pwr = d.pwr := postCq_pwr d 1 status tag 0 detail 0
@[simp] theorem finish_heat (d : Dev) (tag status detail : Nat) : (finish d tag status detail).heat = d.heat := postCq_heat d 1 status tag 0 detail 0
@[simp] theorem finish_flt (d : Dev) (tag status detail : Nat) : (finish d tag status detail).flt = d.flt := postCq_flt d 1 status tag 0 detail 0
@[simp] theorem finish_staged (d : Dev) (tag status detail : Nat) : (finish d tag status detail).staged = d.staged := postCq_staged d 1 status tag 0 detail 0
@[simp] theorem finish_pkgs (d : Dev) (tag status detail : Nat) : (finish d tag status detail).pkgs = d.pkgs := postCq_pkgs d 1 status tag 0 detail 0
@[simp] theorem finish_primary (d : Dev) (tag status detail : Nat) : (finish d tag status detail).primary = d.primary := postCq_primary d 1 status tag 0 detail 0
@[simp] theorem finish_pan (d : Dev) (tag status detail : Nat) : (finish d tag status detail).pan = d.pan := postCq_pan d 1 status tag 0 detail 0
@[simp] theorem finish_ctxKeys (d : Dev) (tag status detail : Nat) : (finish d tag status detail).ctxKeys = d.ctxKeys := postCq_ctxKeys d 1 status tag 0 detail 0
@[simp] theorem finish_jtag (d : Dev) (tag status detail : Nat) : (finish d tag status detail).jtag = d.jtag := postCq_jtag d 1 status tag 0 detail 0
@[simp] theorem finish_attic (d : Dev) (tag status detail : Nat) : (finish d tag status detail).attic = d.attic := postCq_attic d 1 status tag 0 detail 0
@[simp] theorem finish_boot (d : Dev) (tag status detail : Nat) : (finish d tag status detail).boot = d.boot := postCq_boot d 1 status tag 0 detail 0
@[simp] theorem finish_volts (d : Dev) (tag status detail : Nat) : (finish d tag status detail).volts = d.volts := postCq_volts d 1 status tag 0 detail 0
@[simp] theorem finish_aer (d : Dev) (tag status detail : Nat) : (finish d tag status detail).aer = d.aer := postCq_aer d 1 status tag 0 detail 0
@[simp] theorem finish_cqPhase (d : Dev) (tag status detail : Nat) : (finish d tag status detail).cqPhase = d.cqPhase := postCq_cqPhase d 1 status tag 0 detail 0
@[simp] theorem finish_msixDue (d : Dev) (tag status detail : Nat) : (finish d tag status detail).msixDue = d.msixDue := postCq_msixDue d 1 status tag 0 detail 0
@[simp] theorem finish_alert (d : Dev) (tag status detail : Nat) : (finish d tag status detail).alert = d.alert := postCq_alert d 1 status tag 0 detail 0
@[simp] theorem finish_committedPoison (d : Dev) (tag status detail : Nat) : (finish d tag status detail).committedPoison = d.committedPoison := postCq_committedPoison d 1 status tag 0 detail 0
@[simp] theorem finish_manifestChunks (d : Dev) (tag status detail : Nat) : (finish d tag status detail).manifestChunks = d.manifestChunks := postCq_manifestChunks d 1 status tag 0 detail 0
@[simp] theorem finish_recFlight (d : Dev) (tag status detail : Nat) : (finish d tag status detail).recFlight = d.recFlight := postCq_recFlight d 1 status tag 0 detail 0
@[simp] theorem finish_recSeen (d : Dev) (tag status detail : Nat) : (finish d tag status detail).recSeen = d.recSeen := postCq_recSeen d 1 status tag 0 detail 0
@[simp] theorem finish_rerunStep (d : Dev) (tag status detail : Nat) : (finish d tag status detail).rerunStep = d.rerunStep := postCq_rerunStep d 1 status tag 0 detail 0
@[simp] theorem finish_rerunUpd (d : Dev) (tag status detail : Nat) : (finish d tag status detail).rerunUpd = d.rerunUpd := postCq_rerunUpd d 1 status tag 0 detail 0
@[simp] theorem finish_inStep (d : Dev) (tag status detail : Nat) : (finish d tag status detail).inStep = d.inStep := postCq_inStep d 1 status tag 0 detail 0
@[simp] theorem finish_originAt (d : Dev) (tag status detail : Nat) : (finish d tag status detail).originAt = d.originAt := postCq_originAt d 1 status tag 0 detail 0

/- raiseAlert -/

@[simp] theorem raiseAlert_now (d : Dev) (i : Nat) : (raiseAlert d i).now = d.now := rfl
@[simp] theorem raiseAlert_freshN (d : Dev) (i : Nat) : (raiseAlert d i).freshN = d.freshN := rfl
@[simp] theorem raiseAlert_rowMeta (d : Dev) (i : Nat) : (raiseAlert d i).rowMeta = d.rowMeta := rfl
@[simp] theorem raiseAlert_pantry (d : Dev) (i : Nat) : (raiseAlert d i).pantry = d.pantry := rfl
@[simp] theorem raiseAlert_acc (d : Dev) (i : Nat) : (raiseAlert d i).acc = d.acc := rfl
@[simp] theorem raiseAlert_accPar (d : Dev) (i : Nat) : (raiseAlert d i).accPar = d.accPar := rfl
@[simp] theorem raiseAlert_clauseStore (d : Dev) (i : Nat) : (raiseAlert d i).clauseStore = d.clauseStore := rfl
@[simp] theorem raiseAlert_clauseSeq (d : Dev) (i : Nat) : (raiseAlert d i).clauseSeq = d.clauseSeq := rfl
@[simp] theorem raiseAlert_slotTable (d : Dev) (i : Nat) : (raiseAlert d i).slotTable = d.slotTable := rfl
@[simp] theorem raiseAlert_portMap (d : Dev) (i : Nat) : (raiseAlert d i).portMap = d.portMap := rfl
@[simp] theorem raiseAlert_cores (d : Dev) (i : Nat) : (raiseAlert d i).cores = d.cores := rfl
@[simp] theorem raiseAlert_agents (d : Dev) (i : Nat) : (raiseAlert d i).agents = d.agents := rfl
@[simp] theorem raiseAlert_opens (d : Dev) (i : Nat) : (raiseAlert d i).opens = d.opens := rfl
@[simp] theorem raiseAlert_closes (d : Dev) (i : Nat) : (raiseAlert d i).closes = d.closes := rfl
@[simp] theorem raiseAlert_flits (d : Dev) (i : Nat) : (raiseAlert d i).flits = d.flits := rfl
@[simp] theorem raiseAlert_preReads (d : Dev) (i : Nat) : (raiseAlert d i).preReads = d.preReads := rfl
@[simp] theorem raiseAlert_deliveries (d : Dev) (i : Nat) : (raiseAlert d i).deliveries = d.deliveries := rfl
@[simp] theorem raiseAlert_shelfFlight (d : Dev) (i : Nat) : (raiseAlert d i).shelfFlight = d.shelfFlight := rfl
@[simp] theorem raiseAlert_hostHold (d : Dev) (i : Nat) : (raiseAlert d i).hostHold = d.hostHold := rfl
@[simp] theorem raiseAlert_doeHeld (d : Dev) (i : Nat) : (raiseAlert d i).doeHeld = d.doeHeld := rfl
@[simp] theorem raiseAlert_hostRds (d : Dev) (i : Nat) : (raiseAlert d i).hostRds = d.hostRds := rfl
@[simp] theorem raiseAlert_hostNo (d : Dev) (i : Nat) : (raiseAlert d i).hostNo = d.hostNo := rfl
@[simp] theorem raiseAlert_meshLatch (d : Dev) (i : Nat) : (raiseAlert d i).meshLatch = d.meshLatch := rfl
@[simp] theorem raiseAlert_tickOut (d : Dev) (i : Nat) : (raiseAlert d i).tickOut = d.tickOut := rfl
@[simp] theorem raiseAlert_guarded (d : Dev) (i : Nat) : (raiseAlert d i).guarded = d.guarded := rfl
@[simp] theorem raiseAlert_tickAt (d : Dev) (i : Nat) : (raiseAlert d i).tickAt = d.tickAt := rfl
@[simp] theorem raiseAlert_edgeAlign (d : Dev) (i : Nat) : (raiseAlert d i).edgeAlign = d.edgeAlign := rfl
@[simp] theorem raiseAlert_losePend (d : Dev) (i : Nat) : (raiseAlert d i).losePend = d.losePend := rfl
@[simp] theorem raiseAlert_keyTable (d : Dev) (i : Nat) : (raiseAlert d i).keyTable = d.keyTable := rfl
@[simp] theorem raiseAlert_cmap (d : Dev) (i : Nat) : (raiseAlert d i).cmap = d.cmap := rfl
@[simp] theorem raiseAlert_writebacks (d : Dev) (i : Nat) : (raiseAlert d i).writebacks = d.writebacks := rfl
@[simp] theorem raiseAlert_ccLast (d : Dev) (i : Nat) : (raiseAlert d i).ccLast = d.ccLast := rfl
@[simp] theorem raiseAlert_ceTime (d : Dev) (i : Nat) : (raiseAlert d i).ceTime = d.ceTime := rfl
@[simp] theorem raiseAlert_syncFlight (d : Dev) (i : Nat) : (raiseAlert d i).syncFlight = d.syncFlight := rfl
@[simp] theorem raiseAlert_waits (d : Dev) (i : Nat) : (raiseAlert d i).waits = d.waits := rfl
@[simp] theorem raiseAlert_syncOut (d : Dev) (i : Nat) : (raiseAlert d i).syncOut = d.syncOut := rfl
@[simp] theorem raiseAlert_cqQueue (d : Dev) (i : Nat) : (raiseAlert d i).cqQueue = d.cqQueue := rfl
@[simp] theorem raiseAlert_cqHeld (d : Dev) (i : Nat) : (raiseAlert d i).cqHeld = d.cqHeld := rfl
@[simp] theorem raiseAlert_upd (d : Dev) (i : Nat) : (raiseAlert d i).upd = d.upd := rfl
@[simp] theorem raiseAlert_res (d : Dev) (i : Nat) : (raiseAlert d i).res = d.res := rfl
@[simp] theorem raiseAlert_out (d : Dev) (i : Nat) : (raiseAlert d i).out = d.out := rfl
@[simp] theorem raiseAlert_fab (d : Dev) (i : Nat) : (raiseAlert d i).fab = d.fab := rfl
@[simp] theorem raiseAlert_meshInj (d : Dev) (i : Nat) : (raiseAlert d i).meshInj = d.meshInj := rfl
@[simp] theorem raiseAlert_pwr (d : Dev) (i : Nat) : (raiseAlert d i).pwr = d.pwr := rfl
@[simp] theorem raiseAlert_heat (d : Dev) (i : Nat) : (raiseAlert d i).heat = d.heat := rfl
@[simp] theorem raiseAlert_flt (d : Dev) (i : Nat) : (raiseAlert d i).flt = d.flt := rfl
@[simp] theorem raiseAlert_staged (d : Dev) (i : Nat) : (raiseAlert d i).staged = d.staged := rfl
@[simp] theorem raiseAlert_pkgs (d : Dev) (i : Nat) : (raiseAlert d i).pkgs = d.pkgs := rfl
@[simp] theorem raiseAlert_primary (d : Dev) (i : Nat) : (raiseAlert d i).primary = d.primary := rfl
@[simp] theorem raiseAlert_pan (d : Dev) (i : Nat) : (raiseAlert d i).pan = d.pan := rfl
@[simp] theorem raiseAlert_ctxKeys (d : Dev) (i : Nat) : (raiseAlert d i).ctxKeys = d.ctxKeys := rfl
@[simp] theorem raiseAlert_jtag (d : Dev) (i : Nat) : (raiseAlert d i).jtag = d.jtag := rfl
@[simp] theorem raiseAlert_attic (d : Dev) (i : Nat) : (raiseAlert d i).attic = d.attic := rfl
@[simp] theorem raiseAlert_boot (d : Dev) (i : Nat) : (raiseAlert d i).boot = d.boot := rfl
@[simp] theorem raiseAlert_volts (d : Dev) (i : Nat) : (raiseAlert d i).volts = d.volts := rfl
@[simp] theorem raiseAlert_aer (d : Dev) (i : Nat) : (raiseAlert d i).aer = d.aer := rfl
@[simp] theorem raiseAlert_cqPhase (d : Dev) (i : Nat) : (raiseAlert d i).cqPhase = d.cqPhase := rfl
@[simp] theorem raiseAlert_msixDue (d : Dev) (i : Nat) : (raiseAlert d i).msixDue = d.msixDue := rfl
@[simp] theorem raiseAlert_committedPoison (d : Dev) (i : Nat) : (raiseAlert d i).committedPoison = d.committedPoison := rfl
@[simp] theorem raiseAlert_manifestChunks (d : Dev) (i : Nat) : (raiseAlert d i).manifestChunks = d.manifestChunks := rfl
@[simp] theorem raiseAlert_recFlight (d : Dev) (i : Nat) : (raiseAlert d i).recFlight = d.recFlight := rfl
@[simp] theorem raiseAlert_recSeen (d : Dev) (i : Nat) : (raiseAlert d i).recSeen = d.recSeen := rfl
@[simp] theorem raiseAlert_rerunStep (d : Dev) (i : Nat) : (raiseAlert d i).rerunStep = d.rerunStep := rfl
@[simp] theorem raiseAlert_rerunUpd (d : Dev) (i : Nat) : (raiseAlert d i).rerunUpd = d.rerunUpd := rfl
@[simp] theorem raiseAlert_inStep (d : Dev) (i : Nat) : (raiseAlert d i).inStep = d.inStep := rfl
@[simp] theorem raiseAlert_originAt (d : Dev) (i : Nat) : (raiseAlert d i).originAt = d.originAt := rfl

end Sys2Proof.Machine
end

