-- ==== Sys2Proof/Tests/Slice0.lean ====
section
/-!
SUPPORT. Tests/Slice0.lean: small tests on fixed values. test_ names a rule and the value its words give; witness_ shows that the
hypotheses of an obligation's clauses are met by concrete states.
-/
namespace Sys2Proof.Tests
open Sys2Proof Sys2Proof.Machine
set_option Elab.async false

/- Well-formedness: one ill-formed term for each check -/

/-- R216: PAIR 0b11 is reserved. -/
theorem test_pair3_refused : MatOp.wf (.msparse 0 0 3 0 0) = false ∧ MatOp.wf (.mmask 0 0 3 0 0 0) = false ∧
    MatOp.wf (.mdense 0 0 3 0 0) = false := by decide

/-- R216, R217: FIRST + NM1 = 128 is refused, 127 is not. -/
theorem test_rows_past_127_refused : MatOp.wf (.spill 0 127 1 0 0 0) = false ∧ MatOp.wf (.accld 1 64 64 0) = false ∧
    MatOp.wf (.accclr 0 1 127) = false ∧ MatOp.wf (.spill 0 127 0 0 0 0) = true := by decide

/-- R218: a MOD bit that an operation does not name, a function's B and VCVT's FMT are 0. -/
theorem test_vector_reserved_refused : VecOp.wf (.op .vadd 0 0 0 0 2) = false ∧ VecOp.wf (.op .vexp 0 0 1 0 0) = false ∧
    VecOp.wf (.op .vcvt 1 0 0 0 0) = false ∧ VecOp.wf (.op .vlnorm 0 1 2 3 63) = true := by decide

/-- R222: PRED above 4, EQ on a format, and SPUT below entry 128. -/
theorem test_move_reserved_refused : MovOp.wf (.cnc 0 0 0 5 2 0) = false ∧ MovOp.wf (.cnc 0 0 0 0 1 0) = false ∧
    MovOp.wf (.sput 0 127) = false ∧ MovOp.wf (.cnc 0 0 0 0 2 0) = true ∧ MovOp.wf (.sput 0 128) = true := by decide

/-- R224: NOTE's LEVEL above 20, SYNCADD of 0. -/
theorem test_control_reserved_refused : CtlOp.wf (.note 21) = false ∧ CtlOp.wf (.syncadd 5 0) = false ∧ CtlOp.wf (.note 20) = true := by decide

/-- R214: the move and control slots may not write one index register. -/
theorem test_same_register_refused : Bundle.wf ⟨.nop, .nop, .xld 7 1, .xli 7 0⟩ = false ∧
    Bundle.wf ⟨.nop, .nop, .xld 7 1, .xli 8 0⟩ = true := by decide

/- Decoding: words written bit by bit from the slot tables -/

/-- R216: MDENSE CH 1 HALF 1 PAIR 2 IH 0x80 XS 9, and ACCCLR HALF 1 FIRST 3 NM1 4. -/
theorem test_decode_matrix : MatOp.ofWord 0b00000000010011000000010101000011 = some (.mdense 1 1 2 0x80 9) ∧
    MatOp.ofWord 0b00000000000000010000000111000110 = some (.accclr 1 3 4) := by decide

/-- R218: VFMA FMT 1 A 2 B 3 D 4 MOD 1. -/
theorem test_decode_vector : VecOp.ofWord 0b00000010001000000110000101000100 = some (.op .vfma 1 2 3 4 1) := by decide

/-- R222: HSET H 0x81 XL 1 XH 2, SLEEP of groups 0 and 15, XST XS 3 XA 4. -/
theorem test_decode_move : MovOp.ofWord 0b00000000001000000110000001000011 = some (.hset 0x81 1 2) ∧
    MovOp.ofWord 0b00000000001000000000000001000101 = some (.sleep 0x8001) ∧
    MovOp.ofWord 0b00000000000000000100000011001001 = some (.xst 3 4) := by decide

/-- R224: LOOP XC 2 OFS -2, STRS CH 12 ENTRY 0x85 XO 1, FENCE M V MV KEEP 3, SYNCWAIT 16383 Y. -/
theorem test_decode_control : CtlOp.ofWord 0b00000001111111111110000010000111 = some (.loop 2 (-2)) ∧
    CtlOp.ofWord 0b00000000000001100001011100001011 = some (.strs 12 0x85 1) ∧
    CtlOp.ofWord 0b00000000000000000000011111001111 = some (.fence 1 1 1 3) ∧
    CtlOp.ofWord 0b00000000000111111111111111010001 = some (.syncwait 16383 1) := by decide

/- Small states -/

def st (d : Dev) : State := { dev := d }
/-- A module whose registers hold these words. -/
def rg (l : List (Nat × Nat)) : Dev := l.foldl (fun d x => setR d x.1 x.2) {}

/-- An issuing clause of the foreground context 5 on the last core, at bundle 2. -/
def runAt (slot : Nat) : RunSt := { fill := false, ctx := 5, start := 0, len := 3, nconst := 0, last := true, rep := 0, no := 1, pc := 2, slot := slot }
def issueDev (b : Bundle) (slot : Nat) : Dev :=
  { cores := [(319, { resFg := some 5, run := some (runAt slot) })], clauseStore := [(storeKey 319 false 2, b.toBits)] }

/-- Something holds issue of core c, or has discarded its filler's results. -/
def stops (d : Dev) (c : Nat) : Bool := issueHeld d c || (Machine.core d c).fillBad

/- Witnesses: issue -/

theorem witness_MatrixOperationsIssue : ∀ o ∈ [MatOp.msparse 0 0 0 0 0, .mmask 1 1 2 5 127 63, .mdense 3 0 2 255 63, .spill 0 0 127 1 1 9,
    .spill 1 0 127 1 1 9, .accld 0 127 0 0, .accclr 1 127 0], stops (issueDev ⟨o, .nop, .nop, .nop⟩ 0) 319 = false ∧
    view (attempt (issueDev ⟨o, .nop, .nop, .nop⟩ 0) 319) 319 = .go (runAt 0) ⟨o, .nop, .nop, .nop⟩ := by decide

theorem witness_VectorOperationsIssue : ∀ o ∈ [VecOp.op .vadd 1 63 0 1 1, .op .vcvt 0 1 2 3 3, .op .vtopk 0 1 2 3 7],
    stops (issueDev ⟨.nop, o, .nop, .nop⟩ 1) 319 = false ∧
    view (attempt (issueDev ⟨.nop, o, .nop, .nop⟩ 1) 319) 319 = .go (runAt 1) ⟨.nop, o, .nop, .nop⟩ := by decide

theorem witness_MoveOperationsIssue : (∀ o ∈ [MovOp.mcopy 0 63, .cnc 1 2 3 4 2 1, .sput 1 128, .wake 1, .sleep 0xFFFF],
    stops (issueDev ⟨.nop, .nop, o, .nop⟩ 2) 319 = false ∧
    view (attempt (issueDev ⟨.nop, .nop, o, .nop⟩ 2) 319) 319 = .go (runAt 2) ⟨.nop, .nop, o, .nop⟩) ∧
    view (attempt (setF (issueDev ⟨.nop, .nop, .sleep 1, .nop⟩ 2) (SHF_PART 319) SHF_PART_FG_ROWS 31) 319) 319 =
      .go (runAt 2) ⟨.nop, .nop, .sleep 1, .nop⟩ ∧
    getF (attempt (setF (issueDev ⟨.nop, .nop, .sleep 1, .nop⟩ 2) (SHF_PART 319) SHF_PART_FG_ROWS 31) 319) (SHF_PART 319) SHF_PART_FG_ROWS < 32 := by
  decide

theorem witness_ControlOperationsIssue : (∀ o ∈ [CtlOp.xli 63 0xFFFF, .xlih 0 1, .xaddi 1 1 (-1), .xadd 0 63 62, .xmuli 5 6 0x3FFF, .brnz 1 (-1),
      .loop 2 (-1), .br (-1), .fence 1 1 1 7, .endc, .note 20, .strs 15 255 0, .stra 15 0 1, .strc 0, .strx 15, .syncadd 16383 255],
    stops (issueDev ⟨.nop, .nop, .nop, o⟩ 3) 319 = false ∧
    view (attempt (issueDev ⟨.nop, .nop, .nop, o⟩ 3) 319) 319 = .go (runAt 3) ⟨.nop, .nop, .nop, o⟩) ∧
    view (attempt (issueDev ⟨.nop, .nop, .nop, .endc⟩ 0) 319) 319 = .go (runAt 0) ⟨.nop, .nop, .nop, .endc⟩ := by decide

/-- No handle write stands in the move slot. -/
theorem witness_IndexRegisterArithmetic : ∀ o ∈ [CtlOp.xli 63 0xFFFF, .xlih 0 1, .xaddi 1 1 (-1), .xadd 0 63 62, .xmuli 5 6 0x3FFF, .loop 2 (-1)],
    stops (issueDev ⟨.nop, .nop, .mcopy 0 1, o⟩ 3) 319 = false ∧
    view (attempt (issueDev ⟨.nop, .nop, .mcopy 0 1, o⟩ 3) 319) 319 = .go (runAt 3) ⟨.nop, .nop, .mcopy 0 1, o⟩ := by decide

theorem witness_BranchesGoToTheirTargets : ∀ o ∈ [CtlOp.brnz 1 (-1), .loop 2 (-1), .br (-1), .fence 1 1 1 7, .endc],
    stops (issueDev ⟨.nop, .nop, .nop, o⟩ 3) 319 = false ∧
    view (attempt (issueDev ⟨.nop, .nop, .nop, o⟩ 3) 319) 319 = .go (runAt 3) ⟨.nop, .nop, .nop, o⟩ := by decide

theorem witness_FastTripHoldsIssue : issueHeld { pwr := { trip := [63] } } 319 = true ∧ issueHeld { pwr := { failed := true } } 0 = true := by decide

/- Standard functions -/

/-- R304 gives this value over "123456789", and 0 over no bytes. -/
theorem test_crc64 : crc64 [0x31, 0x32, 0x33, 0x34, 0x35, 0x36, 0x37, 0x38, 0x39] = 0x995DC9BBDF1939FA ∧ crc64 [] = 0 := by decide +kernel

/-- The IEEE 802.3 frame check sequence's published check value (R338). -/
theorem test_crc32 : crc32 [0x31, 0x32, 0x33, 0x34, 0x35, 0x36, 0x37, 0x38, 0x39] = 0xCBF43926 := by decide +kernel

/-- FIPS 180-4's example: SHA-384 of "abc" (R372). -/
theorem test_sha384 : natOfBytesBE (sha384 [0x61, 0x62, 0x63]) =
    0xCB00753F45A35E8BB5A03D699AC65007272C32AB0EDED1631A8B605A43FF5BED8086072BA1E7CC2358BAECA134C825A7 := by decide +kernel

/-- FIPS 197's example: AES-256 of key 00 01 … 1F (R250). -/
theorem test_aes256 : aesEnc (roundKeys (List.range 32)) ((List.range 16).map (0x11 * ·)) =
    [0x8E, 0xA2, 0xB7, 0xCA, 0x51, 0x67, 0x45, 0xBF, 0xEA, 0xFC, 0x49, 0x90, 0x4B, 0x49, 0x60, 0x89] := by decide +kernel

/-- The worked example after R83: 126.0, 0.3 and -3.0. -/
theorem test_scan_example : scanHdr false [.fin false 126 0, .fin false 5033165 (-24), .fin true 3 0] = 0x0082 ∧
    encodeBlock false 0x0082 [(.rne, .fin false 126 0), (.rne, .fin false 5033165 (-24)), (.rne, .fin true 3 0)] = [0x70, 0x02, 0x98] := by
  decide +kernel

/- Witnesses: bits, memory, handles -/

theorem witness_EveryStepKeepsMemoryCanonical :
    let d : Dev := { mem := [⟨cellarAddr 127 (stackSize - 1), 1⟩] }
    memWf d.mem ∧ step ⟨d, [.supplyRecovery 0]⟩ = exec (.supplyRecovery 0) ⟨d, []⟩ := ⟨by decide, rfl⟩

theorem witness_BundleEncodeOfDecode : Bundle.ofBits (Bundle.toBits ⟨.spill 1 127 0 1 1 63, .op .vfma 1 63 0 1 1, .hset 255 63 0, .br (-1)⟩) =
    some ⟨.spill 1 127 0 1 1 63, .op .vfma 1 63 0 1 1, .hset 255 63 0, .br (-1)⟩ := by decide

/-- The largest code of each format is a NaN; its -0 and its infinity are not; and the two codes beside SDX8G's NaN. -/
theorem witness_FormatsEncodeWhatTheyDecode : (∀ F ∈ [fSdx32, fSdx16, fLong], isNaN (decodeNum F (2 ^ (F.mag + 1) - 1)) = true ∧
    isNaN (decodeNum F (2 ^ F.mag)) = false ∧ isNaN (decodeNum F (2 ^ F.mag - 2 ^ F.fw)) = false) ∧ (0x7F < 256 ∧ 0x7F ≠ 0x80 ∧ 0x81 < 256) := by decide +kernel

theorem witness_ShelfRowsAppearInTheirWindow : 319 < 320 ∧ 127 < 128 ∧ 31 < 32 := by decide

/-- Banks 3 to 127, rows 30 and 31, 83 logical rows of 3 x 1; and two physical rows each. -/
def edgeHandle (w len : Nat) : Nat := fv 0 1 1 + fv 1 2 w + fv 5 7 3 + fv 12 8 125 + fv 20 5 30 + fv 25 6 2 + fv 32 13 len

theorem witness_HandleIndicesStayInTheirPartition : ∀ x ∈ [(0, 250), (1, 125), (2, 62)],
    hValid (edgeHandle x.1 x.2) = true ∧ hWf (edgeHandle x.1 x.2) 30 32 = true ∧ x.2 - 1 < hLen (edgeHandle x.1 x.2) ∧
      2 ^ x.1 - 1 < hW (edgeHandle x.1 x.2) := by decide

/- Witnesses: the host side -/

/-- A powered module at stage 10, ready, life-cycle state lc. -/
def readyDev (lc : Nat) : Dev :=
  { (setF (setB (setF {} BOOT_STAGE BOOT_STAGE_STAGE 10) HIF_STATUS HIF_STATUS_READY true) SEC_LC SEC_LC_STATE lc) with boot := { off := false } }

theorem witness_SmbusReadsAnswer : (let d := setF { boot := { off := false } } BOOT_STAGE BOOT_STAGE_STAGE 3
    smFull d = true ∧ getB (setB d SB_SMB SB_SMB_ALERT true) SB_SMB SB_SMB_ALERT = true ∧ smFull (setB d SB_SMB SB_SMB_ALERT true) = true ∧
      d.boot.fuseBad = false) := by decide +kernel

theorem witness_SmbusWritesTakeEffect : smFull (readyDev 2) = true ∧ isReady (readyDev 2) = true ∧ absorbed (readyDev 2) 1 = false ∧
    absorbed (readyDev 2) 3 = false ∧ (∀ v ∈ [600, 1799], pCap (setF (readyDev 2) PWR_CAP_BMC PWR_CAP_BMC_CAP v) ≠ pCap (readyDev 2)) ∧
    256 ≠ crc8 [smAddr (readyDev 2), 0x30, 0] := by decide +kernel

theorem witness_JtagInstructionsComeIntoForce : ∀ lc ∈ [0, 1, 2, 3],
    (readyDev lc).boot.off = false ∧ getB (setB (readyDev lc) SB_JTAG SB_JTAG_SESSION true) SB_JTAG SB_JTAG_SESSION = true ∧
      getB (setB (readyDev lc) SB_JTAG SB_JTAG_SESSION true) SB_JTAG SB_JTAG_PINS = false ∧ lcState (readyDev lc) = lc ∧
      noneResident (readyDev lc) = true := by decide +kernel

theorem witness_DoeObjectsAreAnswered : doeOn (readyDev 2) = true ∧ noIdentity (readyDev 1) = false ∧ noIdentity (readyDev 0) = true ∧
    noIdentity (readyDev 4) = true ∧ doeOn (readyDev 0) = true ∧ ctxBits (setCtx (readyDev 2) 16383 1) 16383 0 1 = 1 ∧
    doeOn (setCtx (readyDev 2) 16383 1) = true ∧ noIdentity (setCtx (readyDev 2) 16383 1) = false ∧ unapplied (setCtx (readyDev 2) 16383 1) = [] ∧
    (let d : Dev := { (readyDev 2) with pan := { taken := [⟨1, 0, 9, 5, 0, 0, 0, 0, false⟩] } }
     doeOn d = true ∧ unapplied d ≠ []) ∧
    (∀ h ∈ [none, some (DoeHeld.mk 5 6 [9])], let d : Dev := { (readyDev 2) with doeHeld := h, boot := { off := false, restart := h.isNone } }
     doeUp d = true ∧ doeFree d = false) := by decide +kernel

/-- A release message for context 16,383 whose report digest is 5. -/
def relMsg : Nat := fv 0 32 1 + fv 32 32 16383 + fv 64 384 5
def relDev (st : Nat) : Dev :=
  { (setCtx (readyDev 2) 16383 (1 + fv 5 3 st)) with ctxKeys := [(16383, { eph := some (3, 4), report := some 5 })] }

theorem witness_KeyReleaseAndLifeCycleChange : (bits relMsg 0 32 = 1 ∧ bits relMsg 32 32 = 16383 ∧ bits relMsg 9409 7 = 0 ∧ bits relMsg 9424 48 = 0) ∧
    (doeOn (relDev 1) = true ∧ ctxBits (relDev 1) 16383 0 1 = 1 ∧ ctxState (relDev 1) 16383 = 1 ∧ (keysOf (relDev 1) 16383).eph = some (3, 4) ∧
      (keysOf (relDev 1) 16383).report = some (bits relMsg 64 384)) ∧
    (doeOn (relDev 2) = true ∧ ctxState (relDev 2) 16383 ≠ 1) ∧
    (doeOn (readyDev 2) = true ∧ lcStep (getF (readyDev 2) SEC_LC SEC_LC_LC_FUSE) 0 = none ∧
      lcStep (getF (readyDev 2) SEC_LC SEC_LC_LC_FUSE) 3 = some (2, false)) := by decide +kernel

theorem witness_LockBitsAreNeverClearedByAWrite : ∀ l ∈ [FAB_LOCK, MOD_LOCK, CC_LOCK 63 1, GP_LOCK 15 1],
    isLock l = true ∧ getB (setB {} l MOD_LOCK_LOCK true) l MOD_LOCK_LOCK = true := by decide +kernel

theorem witness_RegisterWritesFollowTheirAccessCodes : barOk (readyDev 2) HIF_DBG_BASE 4 = true ∧ getR (setR (readyDev 2) HIF_DBG_BASE (2 ^ 19 - 1)) HIF_DBG_BASE < 2 ^ 19 ∧
    barOk (readyDev 2) HIF_DBG_BASE 2 = false := by decide +kernel

theorem witness_HostRegisterCommandsTakeEffect : (barOk (readyDev 2) (GP_LOCK 15 1) 4 = true ∧ isLock (GP_LOCK 15 1) = true ∧ bit 3 0 = true) ∧
    barOk (readyDev 2) (MSH_INJ_SEED 5) 4 = true ∧
    (barOk (readyDev 2) PWR_CAP_HOST 4 = true ∧ pCap (setF (readyDev 2) PWR_CAP_HOST PWR_CAP_HOST_CAP 600) ≠ pCap (readyDev 2)) ∧
    barOk (readyDev 2) FREQ_MAX 4 = true ∧
    (barOk (readyDev 2) (FLT_WIN 0x10) 4 = true ∧ fltWinDefaults.any (fun r => r.1 == 0x10 && r.2.2 != 0) = true ∧ bits 0xFFFFF8 0 4 ≤ 8 ∧
      bits 0xFFFFF8 4 20 ≠ 0) ∧ barOk (readyDev 2) FLT_TEST_CTL 4 = true := by decide +kernel

def rec0 : CqRec := ⟨0, 0, 0, 0, 0, 0, 0, 0⟩
def cqDev (size tail head : Nat) : Dev :=
  let d := setB (setF {} HIF_CQ_CTL HIF_CQ_CTL_SIZE_LOG2 size) HIF_CQ_CTL HIF_CQ_CTL_EN true
  { (setF (setF d HIF_CQ_TAIL HIF_CQ_TAIL_TAIL tail) HIF_CQ_HEAD HIF_CQ_HEAD_HEAD head) with cqQueue := [rec0] }

/-- Room at the last entry; the full ring; the ring of the disabled engine. -/
theorem witness_CompletionRingRecordsAndRegisters : (cqDev 6 63 1).cqQueue = [rec0] ∧ (cqDev 6 63 1).doeHeld = none ∧ cqRoom (cqDev 6 63 1) = true ∧
    cqRoom (cqDev 6 63 0) = false ∧ cqRoom (cqDev 15 32767 1) = true ∧
    (barOk (readyDev 2) HIF_CQ_CTL 4 = true ∧ getB (readyDev 2) HIF_CQ_CTL HIF_CQ_CTL_EN = false ∧ barOk (readyDev 2) HIF_CQ_HEAD 4 = true) ∧
    getB (cqDev 6 0 0) HIF_CQ_CTL HIF_CQ_CTL_EN = true := by decide +kernel

theorem witness_DebugWindowsAndPcieFunctionEvents : isReady (readyDev 2) = true ∧ linkOpen (readyDev 2) = true ∧
    0x3FFFF + 1 ≤ 0x40000 ∧ 0x17FFFF + 1 ≤ 0x180000 ∧ getB (setB (readyDev 2) HIF_STATUS HIF_STATUS_D3HOT true) HIF_STATUS HIF_STATUS_D3HOT = true ∧
    getB (setB (readyDev 2) HIF_STATUS HIF_STATUS_D3HOT true) SB_JTAG SB_JTAG_PINS = false ∧
    (readyDev 2).boot.off = false := by decide +kernel

/-- The first test vector of RFC 7748, section 5.2. -/
theorem test_x25519 : x25519 0xc49a44ba44226a50185afcc10a4c1462dd5e46824b15163b9d7c52f06be346a5 0x4c1cabd0a603a9103b35b326ec2466727c5fb124a4c19435db3030586768dbe6 = 0x5285a2775507b454f7711c4903cfec324f088df24dea948e90c6e99d3755dac3 := by decide +kernel
/-- The public key of test 1 of RFC 8032, section 7.1. -/
theorem test_ed_public : edPublic 0x607fae1c03ac3b701969327b69c54944c42cec92f44a84ba605afdef9db1619d = 0x1a5107f7681a02af2523a6daf372e10e3a0764c9d3fe4bd5b70ab18201985ad7 := by decide +kernel

/- Witnesses: clauses and operations -/

def prog0 : Prog := { entry := 0, entryNo := 0, ofs := 0, handle := 0, fill := false, ctx := 5, sid := 7, clauseNo := 1 }
def coreDev (k : CoreSt) : Dev := { cores := [(319, k)] }
def vop (start : Option Nat) (done total : Nat) : POp :=
  { op := .vec (.op .vadd 0 0 0 0 0), no := 4, bundle := 2, start := start, done := done, total := total }
def mop (o : MovOp) : POp := { op := .mov o, no := 9, bundle := 2, start := some 3, xs := [8, 77] }

theorem witness_ClausesStartRunAndEnd :
    (Machine.core (coreDev { sel := some true, startPos := some (0, 65535) }) 319).run = none ∧
    (Machine.core (coreDev { sel := some true, startPos := some (0, 65535) }) 319).startPos = some (0, 65535) ∧
    (Machine.core (coreDev { run := some { (runAt 0) with ended := true, last := false } }) 319).run = some { (runAt 0) with ended := true, last := false } ∧
    matOps (Machine.core (coreDev { run := some (runAt 0) }) 319) = [] ∧
    issueHeld (coreDev { run := some { (runAt 0) with pc := 4 } }) 319 = false ∧
    view (coreDev { run := some { (runAt 0) with pc := 4 } }) 319 = .fault CL_FAULT_FELL_OFF ∧
    view (issueDev ⟨.msparse 0 0 3 0 0, .nop, .nop, .nop⟩ 0) 319 = .fault CL_FAULT_ILLEGAL := by decide +kernel

def startDev : Dev := setF (coreDev { vec := [vop none 0 0] }) (CL_NOTE 319) CL_NOTE_COVER 20
def gatherDev : Dev := coreDev { group := [{ op := .mat (.msparse 0 0 0 0 0), no := 1, bundle := 2, start := some 0, total := 1 }], chans := [(12, { cur := some { prog0 with gstage := [{}] } })] }

theorem witness_OperationsStartAndRetire :
    ((pipeOps (Machine.core startDev 319) .vector).find? (fun p => p.start.isNone) = some (vop none 0 0) ∧
      mayStart (Machine.core startDev 319) .vector (vop none 0 0) 1 = true ∧
      activity (Machine.core startDev 319) 1 + opUnits (vop none 0 0) ≤ getF startDev (CL_NOTE 319) CL_NOTE_COVER + 2 ∧
      (∀ o ∈ (Machine.core startDev 319).mov, o.start.isSome = true → (∀ g, o.op ≠ .mov (.sleep g)) ∧ (∀ g, o.op ≠ .mov (.wake g)))) ∧
    (let d := coreDev { group := [{ op := .mat (.msparse 0 0 0 0 0), no := 1, bundle := 2, start := some 0, done := 0, total := 99 }], vec := [vop none 0 0] }
     mayStart (Machine.core d 319) .vector (vop none 0 0) 1 = true ∧ 0 < opUnits (vop none 0 0) ∧ getF d (CL_WAIT 319) CL_WAIT_WAIT = 0 ∧
       getF d (CL_NOTE 319) CL_NOTE_COVER + 2 < activity (Machine.core d 319) 1 + opUnits (vop none 0 0)) ∧
    (let d := coreDev { mov := [mop (.xld 3 4), { (mop (.xst 3 4)) with no := 10 }] }
     (pipeOps (Machine.core d 319) .move).find? (fun p => p.no == 9 && p.start.isSome && p.done == p.total) = some (mop (.xld 3 4)) ∧
       isWord (mop (.xld 3 4)) = true ∧ ∀ o ∈ (Machine.core d 319).mov, isWord o = true → 9 ≤ o.no) ∧
    (pipeOps (Machine.core (coreDev { vec := [vop (some 1) 2 2] }) 319) .vector).find? (fun p => p.no == 4 && p.start.isSome && p.done == p.total) =
      some (vop (some 1) 2 2) ∧
    ((∃ q, gatherOp (Machine.core gatherDev 319) = some q ∧ q.start.getD 0 ≤ 0 ∧ q.op = .mat (.msparse 0 0 0 0 0) ∧
        gopOf (.msparse 0 0 0 0 0) q.done = some { ch := 12, pair := 0, half := 0 }) ∧
      (Machine.core gatherDev 319).gfFree ≤ 0 ∧
      (∀ q ∈ (Machine.core gatherDev 319).group, portsFree (Machine.core gatherDev 319) q 0 = true) ∧ (chan gatherDev 319 12).cur = some { prog0 with gstage := [{}] }) ∧
    (∀ o ∈ [MovOp.sleep 0x8001, .wake 0x8001],
      (Machine.core (coreDev { mov := [mop o] }) 319).mov.find? (fun p => p.start.isSome) = some (mop o)) ∧
    (Machine.core (coreDev { fall := some 0 }) 319).fall = some 0 := by
  refine ⟨⟨by decide +kernel, by decide +kernel, by decide +kernel, fun o ho => by cases ho⟩, by decide +kernel, by decide +kernel, by decide +kernel,
    ⟨⟨_, rfl, by decide +kernel⟩, by decide +kernel⟩, by decide +kernel, by decide +kernel⟩

/-- Context 5's larder extent is rows 0 to 31 of its tile's larder. -/
def larderDev (o : MovOp) (xs : List Nat) : Dev :=
  setWords (coreDev { run := some (runAt 0), mov := [{ (mop o) with xs := xs }] }) (CTX_DESC 5 0) 16 (fv 209 17 1)

theorem witness_LarderWordPortStoresOneWord : (∀ o ∈ [MovOp.xst 3 4, .xld 3 4], ∀ x ∈ [4092, 4096],
    (Machine.core (larderDev o [x, 77]) 319).mov.find? (fun p => p.no == 9 && p.start.isSome && p.done == p.total) = some { (mop o) with xs := [x, 77] } ∧
    (Machine.core (larderDev o [x, 77]) 319).mov.any (fun q => (match q.op with | .mov (.xld _ _) => true | .mov (.xst _ _) => true | _ => false) &&
      decide (q.no < 9)) = false) ∧
    larderOk (larderDev (.xst 3 4) [4092, 77]) (runWho (larderDev (.xst 3 4) [4092, 77]) 319).2 4092 = true ∧
    larderOk (larderDev (.xst 3 4) [4096, 77]) (runWho (larderDev (.xst 3 4) [4096, 77]) 319).2 4096 = false := by decide +kernel

theorem witness_StreamProgramsOpenEndAndClose : (∀ o ∈ [OpenMsg.mk 0 3 5 0 prog0, ⟨0, 3, 63, 62, prog0⟩],
      Tbl.get ([] : Tbl (Option Agent)) (agentKey o.unit o.agent) none = none ∧ o.agent ≠ 63 ∧ (o.agent ≠ 62 ∨ o.unit < 64)) ∧
    (Tbl.get ([(agentKey 5 0, some { core := 0, ch := 3, prog := prog0 })] : Tbl (Option Agent)) (agentKey 5 0) none).isSome = true ∧
    (chan (coreDev { chans := [(15, { cur := some { prog0 with dead := true } })] }) 319 15).cur = some { prog0 with dead := true } ∧
    progDone { prog0 with dead := true } = true ∧ isPhrase prog0 = true ∧
    (chan (coreDev { chans := [(15, { cur := some { prog0 with dead := true } })] }) 319 15).next = none ∧
    (∀ x ∈ [none, some true], let d := coreDev { drained := x, chans := [(15, { cur := some { prog0 with dead := true }, next := some prog0 })] }
     (chan d 319 15).next.isSome = true ∧ (Machine.core d 319).drained ≠ some prog0.fill) := by decide +kernel

theorem witness_ConfirmAndCancelNeedAHeldProgram :
    (chan (coreDev { chans := [(2, { cur := some { prog0 with held := true } })] }) 319 2).cur = some { prog0 with held := true } ∧
    (chan (coreDev { chans := [(2, { cur := some prog0, next := some { prog0 with held := true } })] }) 319 2).next =
      some { prog0 with held := true } ∧
    (chan (coreDev { chans := [(2, { cur := some { prog0 with held := true, discard := true } })] }) 319 2).next = none := by decide +kernel

/- Witnesses: sync objects, mesh, memory, engines -/

theorem someFst {α β : Type} {p : Option α × β} (h : p.1.isSome = true) : ∃ x, p = (some x, p.2) := by
  obtain ⟨a, b⟩ := p
  cases a with
  | none => cases h
  | some x => exact ⟨x, rfl⟩

theorem pairOf {α β : Type} {p : Option α × β} {x : α} (h : p.1 = some x) : p = (some x, p.2) := by
  obtain ⟨a, b⟩ := p
  cases h
  rfl

def syncDev (ctx : Nat) : Dev := setObj { syncFlight := [{ obj := 16383, ctx := ctx, amt := 1, src := 0 }] } 16383 (fv 32 32 2 + fv 64 14 5)

theorem witness_SyncIncrementsAddToTheirObject : ∀ x ∈ [5, 6],
    (syncDev x).syncFlight[0]? = some { obj := 16383, ctx := x, amt := 1, src := 0 } ∧ (syncDev x).syncOut = [] ∧
    baseLost (syncDev x) (16383 / 256) = false ∧ oCtx (objEntry (syncDev x) 16383) = 5 ∧
    oCount (objEntry (syncDev x) 16383) + 1 < oTarget (objEntry (syncDev x) 16383) ∧
    (∀ i ∈ (syncDev x).syncFlight, i.remote = false ∧ i.fromObj = none) := by decide +kernel

def flit0 : Flit := { tile := 1, port := 3, cyc := 7, rows := [{}] }
def loadWork : Work := { op := 100, flags := 0, tag := 0, ctx := 5, pkg := some { hdr := 0, secs := [] } }

/-- Deliveries to the last core, to the last controller and to a port behind which nothing is; port-map entries of both. -/
def deliverDev (p i : Nat) (f : Flit) : Dev :=
  { (setR {} (TILE_CORE_MAP 63) 4) with
    deliveries := [⟨63, p, i, f⟩]
    portMap := [(319 * 8192 + 8191, BitVec.ofNat 16 (15 + fv 6 1 1)), (511 * 8192 + 8191, BitVec.ofNat 16 (63 + fv 6 1 1))] }

theorem witness_TicksFlitsAndThePantryTimer : (80 < 81 ∧ ({ tickOut := true } : Dev).tickOut = true) ∧ 79 < 80 ∧
    ((deliverDev 13 8191 flit0).deliveries[0]? = some ⟨63, 13, 8191, flit0⟩ ∧ portUnit (deliverDev 13 8191 flit0) 63 13 = none) ∧
    (portUnit (deliverDev 6 8191 flit0) 63 6 = some 319 ∧ bit (portEntry (deliverDev 6 8191 flit0) 319 8191) 6 = true ∧
      bits (portEntry (deliverDev 6 8191 flit0) 319 8191) 0 6 < 16) ∧
    (∀ a ∈ [[], [7]], portUnit (deliverDev 12 8191 { flit0 with addrs := a }) 63 12 = some 511 ∧
      bit (portEntry (deliverDev 12 8191 { flit0 with addrs := a }) 511 8191) 6 = true) ∧
    (entryIndex {} 63 0 = none ∧ getB {} (TILE_STATE 63) TILE_STATE_SPARE_IN_USE = false) ∧ getB {} TG_CTL TG_CTL_RUN = false ∧
    ([loadWork].find? (fun w => w.op == 100) = some loadWork ∧ loadWork.src = lostSet {} ∧ loadWork.pkg = some { hdr := 0, secs := [] }) ∧
    ({ loadWork with src := 1 }).src ≠ lostSet {} := by decide +kernel

def hopDev : Dev :=
  { (setB {} (SLOT_CTL 1) SLOT_CTL_ENABLE true) with
    slotTable := [(8192 + 7, BitVec.ofNat 128 ((List.range 16).foldl (fun acc n => acc + fv (4 * n) 4 (if n = 1 then 3 else n)) 0))]
    flits := [flit0] }

theorem witness_FlitsMoveByTheSlotTable : entryIndex hopDev 1 7 = some 7 ∧ 7 < windowCycles hopDev + 256 ∧ flit0.rows ≠ [] ∧
    slotEntry hopDev 1 7 = (List.range 16).foldl (fun acc n => acc + fv (4 * n) 4 (if n = 1 then 3 else n)) 0 ∧
    getF hopDev (MSH_INJ_CTL 2) MSH_INJ_CTL_MODE = 0 ∧ hopDev.meshInj.swap = [] ∧ getB hopDev (TILE_STATE 1) TILE_STATE_SPARE_IN_USE = false := by
  decide +kernel

def rowDev : Dev := ccStore {} (cellarAddr 127 (stackSize - 128)) 0x123456789 false

theorem witness_CellarRowsAreStoredAndReadBack : ∀ o ∈ [0, stackSize - 128], o < stackSize ∧ o % 128 = 0 ∧
    ccChunk rowDev 127 o { tag := 0 } true = some (o / chunkSize) ∧ ccChunk rowDev 127 o { tag := 0 } false = some (o / chunkSize) ∧
    stackLost rowDev 127 = false ∧ chunkTag rowDev 127 (o / chunkSize) = 0 ∧
    (rowClasses (readMem rowDev (cellarAddr 127 o) 128) (rowMetaAt rowDev (cellarAddr 127 o)).chk.toNat).all (· == .clean) = true := by
  decide +kernel

/-- The scrub position at its first and at its last row. -/
theorem witness_CellarHousekeeping :
    ([WriteBack.mk (cellarAddr 127 128) 5 false].find? (fun w => decide (w.addr / stackSize = 127)) = some ⟨cellarAddr 127 128, 5, false⟩) ∧
    (∀ p ∈ [0, stackSize / 128 - 1], let d := setR (setB {} (CC_SCRUB_CTL 63 1) CC_SCRUB_CTL_EN true) (CC_SCRUB_POS 63 1) p
      getB d (CC_SCRUB_CTL 63 1) CC_SCRUB_CTL_EN = true ∧ getB d (CC_STATUS 63 1) CC_STATUS_SELF_REFRESH = false ∧ stackLost d 127 = false) := by
  decide +kernel

def ueDev (u : UeSt) : Dev := { (setF (setF {} (UE_STATUS 63) UE_STATUS_STATE 1) (UE_ORDER 63) UE_ORDER_LEN 1) with upd := { ues := [(63, u)] } }

/-- Tile 63 at a shard of one element whose MASTER is the first chunk of its first stack, agent 62 with a slot for reads and writes; row 1
of the array lies behind its element. -/
def loftDev : Dev :=
  { (setF (setB (ueDev { busy := true, rows := [(0, 1)] }) (SLOT_CTL 63) SLOT_CTL_ENABLE true) (SLOT_CTL 63) SLOT_CTL_PERIOD 1) with
    upd := { ues := [(63, { busy := true, rows := [(0, 1)] })], order := [(63 * 1024, BitVec.ofNat 512 (fv 32 32 1 + fv 96 22 (126 * 32768)))] }
    portMap := [(510 * 8192, BitVec.ofNat 16 (126 + 126 * 256))] }

theorem witness_UpdateEngineShards : (ueReady (ueDev {}) 63 = true ∧ objReached (ueDev {}) (sdToken (curShard (ueDev {}) 63)) = true) ∧
    (baseLost loftDev 63 = false ∧ (loftWrite loftDev 63 0).1 = true) ∧
    ((ueSt (ueDev { busy := true }) 63).busy = true ∧ (ueSt (ueDev { busy := true }) 63).tries < 2 ∧
      (List.range 7).all (fun a => (ueSt (ueDev { busy := true }) 63).rows.get a 0 == arrayRows (curShard (ueDev { busy := true }) 63)
        (ruleEntry (ueDev { busy := true }) 63 (sdRule (curShard (ueDev { busy := true }) 63))) a
        (shardPanels (ueDev { busy := true }) (curShard (ueDev { busy := true }) 63))) = true) := by decide +kernel

/-- Die 15 with a transfer descriptor of an OP and ROWS at the last row of the address space, its port A up with credit of 512 units. -/
def xferDev (op rows : Nat) (e : Eng) (mcp : List McPkt) : Dev :=
  let d := setWords (setF (setGpState {} 15 2) (XFER_STATUS 15) XFER_STATUS_STATE 1) (XFER_DESC 15 0 0) 16 (fv 0 3 op + fv 64 48 (2 ^ 48 - 128) + fv 128 32 rows)
  let d := setF d (GP_CREDIT 15 0 0) GP_CREDIT_LIMIT 512
  { d with fab := { edges := [(15, { xfer := e, mcp := mcp })] } }
/-- A buffered packet that waits for the last entry of its list only. -/
def mcPk : McPkt := { p := { hdr := 1 }, at_ := 0, waiting := [63] }
/-- The same without credit. -/
def dryDev : Dev := setF (xferDev 3 1 {} [{ mcPk with p := { hdr := 1, rows := [0] } }]) (GP_CREDIT 15 0 0) GP_CREDIT_LIMIT 0

theorem witness_TransferEngineDescriptors :
    ((edge (xferDev 1 1 {} []) 15).lost = false ∧ fenced (xferDev 1 1 {} []) = false ∧
      getF (xferDev 1 1 {} []) (XFER_STATUS 15) XFER_STATUS_STATE = 1 ∧
      objReached (xferDev 1 1 {} []) (tdStart (curXfer (xferDev 1 1 {} []) 15)) = true ∧
      gpState (xferDev 1 1 {} []) (15 + 16 * tdPort (curXfer (xferDev 1 1 {} []) 15)) ≠ 4) ∧
    (∀ op ∈ [1, 2, 3], ∀ n ∈ [1, 33], (xferNext (xferDev op n { busy := true } []) 15 op).isSome = true ∧
      groupUp (xferDev op n { busy := true } []) ((15 + 16 * tdPort (curXfer (xferDev op n { busy := true } []) 15)) / 8) = true) ∧
    (∀ n ∈ [1, 32], readRows (xferDev 2 n { busy := true } []) 15 + n ≤ 32) ∧
    (getF (xferDev 3 1 { busy := true } []) (MCP_BUF 15) MCP_BUF_BYTES + 32 * pkUnits 1 ≤ 0x200000 ∧
      (List.range 64).filter (fun i => bit (mcEntry (engReads 15 (2 ^ 48 - 128) 1 (xferDev 3 1 { busy := true } [])).2 15 0 i) 31) = [] ∧
      bit (mcEntry (engReads 15 (2 ^ 48 - 128) 1 (setR (xferDev 3 1 { busy := true } []) (MCP_LIST 15 0 63 0) (2 ^ 31))).2 15 0 63) 31 = true) ∧
    (mcWaiting (xferDev 3 1 {} [mcPk]) 15 0 63 = some mcPk ∧ fenced (xferDev 3 1 {} [mcPk]) = false ∧
      groupUp (xferDev 3 1 {} [mcPk]) (mcPort 15 mcPk / 8) = true ∧ mcCredit (xferDev 3 1 {} [mcPk]) 15 mcPk = true ∧
      startFree (xferDev 3 1 {} [mcPk]) (mcPort 15 mcPk) = true ∧ classDue (xferDev 3 1 {} [mcPk]) (mcPort 15 mcPk) (tdTc mcPk.desc) = true ∧
      keyReady (xferDev 3 1 {} [mcPk]) mcPk.p.hdr.toNat = true) ∧
    (mcWaiting dryDev 15 0 63 = some { mcPk with p := { hdr := 1, rows := [0] } } ∧ fenced dryDev = false ∧
      mcCredit dryDev 15 { mcPk with p := { hdr := 1, rows := [0] } } = false) ∧
    (∀ b ∈ [false, true], let d := xferDev 1 1 { busy := true, pos := 1, bad := b } [{ mcPk with old := true }]
      (eng d 15 2).busy = true ∧ (eng d 15 2).bad = b ∧ tdRows (curXfer d 15) ≤ (eng d 15 2).pos ∧ (edge d 15).mcp.all (·.old) = true ∧
        d.fab.outst.any (fun o => o.die == 15 && o.eng == 2) = false) := by decide +kernel

def xchDev (k op : Nat) (e : Eng) : Dev :=
  { (setWords (setF {} (XCH_STATUS (k - 8)) XCH_STATUS_STATE 1) (XCH_DESC (k - 8) 0 0) 16 (fv 0 2 op + fv 80 16 15 + fv 112 16 15)) with
    fab := { edges := [(k, { xch := e })] } }

theorem witness_ExchangeEngineDescriptors : (∀ k ∈ [8, 15], hasXch k = true ∧ (edge (xchDev k 1 {}) k).lost = false ∧ fenced (xchDev k 1 {}) = false ∧
      getF (xchDev k 1 {}) (XCH_STATUS (k - 8)) XCH_STATUS_STATE = 1 ∧ objReached (xchDev k 1 {}) (xeStart (curXch (xchDev k 1 {}) k)) = true ∧ gpState (xchDev k 1 {}) k ≠ 4) ∧
    (∃ y d1, xchBegin (xchDev 15 2 { busy := true }) 15 2 (combineTotal (curXch (xchDev 15 2 { busy := true }) 15)) = (some y, d1)) ∧
    (∃ y d1, xchBegin (setWords (xchDev 15 1 { busy := true }) (EXP_DIR 0 0) 4 (fv 80 8 1)) 15 1
      (dispatchTotal (setWords (xchDev 15 1 { busy := true }) (EXP_DIR 0 0) 4 (fv 80 8 1))
        (curXch (setWords (xchDev 15 1 { busy := true }) (EXP_DIR 0 0) 4 (fv 80 8 1)) 15)) = (some y, d1)) ∧
    (∀ o ∈ [1, 2], ∀ b ∈ [false, true], let d := xchDev 15 o { busy := true, pos := 99, bad := b }
      (eng d 15 3).busy = true ∧ (eng d 15 3).bad = b ∧ d.fab.outst.any (fun o => o.die == 15 && o.eng == 3) = false ∧
      (if xeOp (curXch d 15) = 1 then dispatchTotal d (curXch d 15) else combineTotal (curXch d 15)) ≤ (eng d 15 3).pos) := by
  refine ⟨by decide +kernel, ?_, ?_, by decide +kernel⟩
  · obtain ⟨y, h⟩ := someFst (p := xchBegin (xchDev 15 2 { busy := true }) 15 2 (combineTotal (curXch (xchDev 15 2 { busy := true }) 15))) (by decide +kernel)
    exact ⟨y, _, h⟩
  · obtain ⟨y, h⟩ := someFst (p := xchBegin (setWords (xchDev 15 1 { busy := true }) (EXP_DIR 0 0) 4 (fv 80 8 1)) 15 1
      (dispatchTotal (setWords (xchDev 15 1 { busy := true }) (EXP_DIR 0 0) 4 (fv 80 8 1))
        (curXch (setWords (xchDev 15 1 { busy := true }) (EXP_DIR 0 0) 4 (fv 80 8 1)) 15))) (by decide +kernel)
    exact ⟨y, _, h⟩

/- Witnesses: the fabric -/

/-- Port 31 up, holding these packets received, the current epoch 7, and these windows, objects and outstanding requests. -/
def fabDev (ps : List RxPkt) (outst : List Outst) : Dev :=
  let d := setGpState (setObj (setR {} FAB_MEPOCH 7) 16383 (fv 32 32 9 + fv 64 14 5 + fv 82 1 1)) 31 2
  let d := setWin d 8191 (fv 0 3 7 + fv 64 48 shelfBase + fv 128 32 4)
  { d with fab := { ports := [(31, { inbox := ps }), (7, { inbox := ps })], outst := outst } }
/-- The same with the window at the last stack, whose edge tile hands flits between attachment EB of die 15 and the controller's bulk agent
in every router cycle. -/
def bulkDev (ps : List RxPkt) (held : List HeldReq) : Dev :=
  let d := setR (setF (setB (fabDev ps []) (SLOT_CTL 63) SLOT_CTL_ENABLE true) (SLOT_CTL 63) SLOT_CTL_PERIOD 1) (BULK_MAP 15 1 0)
    (63 + fv 6 2 2 + fv 8 6 63 + fv 14 2 2)
  let d := setWin d 8191 (fv 0 3 7 + fv 64 48 (cellarAddr 127 0) + fv 128 32 4)
  { d with
    fab := { d.fab with held := held }
    slotTable := [(63 * 8192, BitVec.ofNat 128 ((List.range 16).foldl (fun acc n => acc + fv (4 * n) 4 (if n = 12 then 5 else if n = 5 then 12 else n)) 0 +
      fv 68 1 1))]
    portMap := [(511 * 8192, BitVec.ofNat 16 (127 + 127 * 256))] }
def hdrPkt (h : Nat) : RxPkt := { p := { hdr := BitVec.ofNat 256 h } }
def syncPkt (epoch : Nat) : RxPkt := hdrPkt (6 + fv 160 14 16383 + fv 176 32 epoch)
def reqPkt (t dst : Nat) : RxPkt := hdrPkt (t + fv 32 16 dst + fv 128 13 8191 + fv 208 8 (if t = 2 then 4 else 0))
def rdOut : Outst := { tag := 0, dst := 0, port := 31, die := 15, eng := 2, read := true, rows := 32 }

/-- A NACK of the sync message that object 16,383 has sent to module 9. -/
def nackPkt : RxPkt := hdrPkt (5 + fv 16 16 9 + fv 48 16 16383)
def nackDev : Dev := setObj (fabDev [nackPkt] []) 16383 (fv 80 1 1 + fv 90 1 1 + fv 96 16 9)

theorem witness_PacketsFromOtherModulesAreHandled :
    (takePkt (fabDev [syncPkt 7] []) 31 0 6 = (some (syncPkt 7), (takePkt (fabDev [syncPkt 7] []) 31 0 6).2) ∧
      epochOk (takePkt (fabDev [syncPkt 7] []) 31 0 6).2 (syncPkt 7).p.hdr.toNat = true ∧
      oRemoteOk (objEntry (takePkt (fabDev [syncPkt 7] []) 31 0 6).2 (hTso (syncPkt 7).p.hdr.toNat)) = true) ∧
    (takePkt (fabDev [syncPkt 6] []) 31 0 6 = (some (syncPkt 6), (takePkt (fabDev [syncPkt 6] []) 31 0 6).2) ∧
      epochOk (takePkt (fabDev [syncPkt 6] []) 31 0 6).2 (syncPkt 6).p.hdr.toNat = false) ∧
    (takePkt (fabDev [reqPkt 1 3] []) 31 0 1 = (some (reqPkt 1 3), (takePkt (fabDev [reqPkt 1 3] []) 31 0 1).2) ∧
      reqRefusal (takePkt (fabDev [reqPkt 1 3] []) 31 0 1).2 (reqPkt 1 3).p.hdr.toNat = some 0xA) ∧
    (∀ t ∈ [1, 2], takePkt (fabDev [reqPkt t 65535] []) 31 0 t = (some (reqPkt t 65535), (takePkt (fabDev [reqPkt t 65535] []) 31 0 t).2) ∧
      reqRefusal (takePkt (fabDev [reqPkt t 65535] []) 31 0 t).2 (reqPkt t 65535).p.hdr.toNat = none ∧
      openRows (takePkt (fabDev [reqPkt t 65535] []) 31 0 t).2 31 (reqPkt t 65535) = (some [], (takePkt (fabDev [reqPkt t 65535] []) 31 0 t).2) ∧
      inShelf (wBase (winDesc (takePkt (fabDev [reqPkt t 65535] []) 31 0 t).2 (hWin (reqPkt t 65535).p.hdr.toNat)) + hOfs (reqPkt t 65535).p.hdr.toNat) = true) ∧
    (∀ t ∈ [3, 4, 5], ∀ o ∈ [rdOut, { rdOut with read := false }],
      takePkt (fabDev [reqPkt t 65535] [o]) 31 0 t = (some (reqPkt t 65535), (takePkt (fabDev [reqPkt t 65535] [o]) 31 0 t).2) ∧
      answered (takePkt (fabDev [reqPkt t 65535] [o]) 31 0 t).2 (reqPkt t 65535).p.hdr.toNat = some o ∧
      openRows (takePkt (fabDev [reqPkt t 65535] [o]) 31 0 t).2 31 (reqPkt t 65535) = (some [], (takePkt (fabDev [reqPkt t 65535] [o]) 31 0 t).2)) ∧
    (∀ t ∈ [1, 2], takePkt (bulkDev [reqPkt t 65535] []) 31 0 t = (some (reqPkt t 65535), (takePkt (bulkDev [reqPkt t 65535] []) 31 0 t).2) ∧
      reqRefusal (takePkt (bulkDev [reqPkt t 65535] []) 31 0 t).2 (reqPkt t 65535).p.hdr.toNat = none ∧
      openRows (takePkt (bulkDev [reqPkt t 65535] []) 31 0 t).2 31 (reqPkt t 65535) = (some [], (takePkt (bulkDev [reqPkt t 65535] []) 31 0 t).2) ∧
      bulkLeads (takePkt (bulkDev [reqPkt t 65535] []) 31 0 t).2 15 (cellarAddr 127 0) (t == 1) = true) ∧
    (let d := setF (bulkDev [reqPkt 1 65535] []) (TILE_STATE 63) TILE_STATE_BASE_LOST 1
     takePkt d 31 0 1 = (some (reqPkt 1 65535), (takePkt d 31 0 1).2) ∧ reqRefusal (takePkt d 31 0 1).2 (reqPkt 1 65535).p.hdr.toNat = none ∧
      openRows (takePkt d 31 0 1).2 31 (reqPkt 1 65535) = (some [], (takePkt d 31 0 1).2) ∧ inShelf (cellarAddr 127 0) = false ∧
      bulkLeads (takePkt d 31 0 1).2 15 (cellarAddr 127 0) true = false) ∧
    (takePkt nackDev 31 0 5 = (some nackPkt, (takePkt nackDev 31 0 5).2) ∧ answered (takePkt nackDev 31 0 5).2 nackPkt.p.hdr.toNat = none ∧
      syncSender (takePkt nackDev 31 0 5).2 nackPkt.p.hdr.toNat = some 16383) := by
  refine ⟨⟨pairOf (by decide +kernel), by decide +kernel⟩, ⟨pairOf (by decide +kernel), by decide +kernel⟩,
    ⟨pairOf (by decide +kernel), by decide +kernel⟩, ?_, ?_, ?_, ⟨pairOf (by decide +kernel), by decide +kernel, rfl, by decide +kernel⟩,
    ⟨pairOf (by decide +kernel), by decide +kernel⟩⟩
  · intro t ht
    simp only [List.mem_cons, List.not_mem_nil, or_false] at ht
    rcases ht with rfl | rfl <;> exact ⟨pairOf (by decide +kernel), by decide +kernel, rfl, by decide +kernel⟩
  rotate_left
  · intro t ht
    simp only [List.mem_cons, List.not_mem_nil, or_false] at ht
    rcases ht with rfl | rfl <;> exact ⟨pairOf (by decide +kernel), by decide +kernel, rfl, by decide +kernel⟩
  · intro t ht o ho
    simp only [List.mem_cons, List.not_mem_nil, or_false] at ht ho
    rcases ht with rfl | rfl | rfl <;> rcases ho with rfl | rfl <;> exact ⟨pairOf (by decide +kernel), by decide +kernel, rfl⟩

def heldReq (base : Nat) : HeldReq :=
  { no := 1, port := 31, hdr := (hdrPkt (1 + fv 8 6 1 + fv 32 16 65535 + fv 128 13 8191)).p.hdr, win := fv 0 3 7 + fv 64 48 base + fv 128 32 4, rows := [{}] }
def shelfRow (w : Bool) : ShelfRow := { core := 319, ofs := 0, wr := w }

theorem witness_WindowsLandAndClose :
    (let d := setWin (bulkDev [] [heldReq 0]) 8191 0
     d.fab.held[0]? = some (heldReq 0) ∧ (heldReq 0).sent = 0 ∧ wValid (winDesc d (hWin (heldReq 0).hdr.toNat)) = false) ∧
    (let x := heldReq (cellarAddr 127 0); let d := bulkDev [] [x]
     d.fab.held[0]? = some x ∧ wValid (winDesc d (hWin x.hdr.toNat)) = true ∧ wGen (winDesc d (hWin x.hdr.toNat)) = hWgen x.hdr.toNat ∧
      landTurn d 0 x = true ∧ inShelf (wBase x.win + hOfs x.hdr.toNat) = false) ∧
    (let x := { (heldReq shelfBase) with sent := 1 }; let d := setWin (bulkDev [] [x]) 8191 0
     d.fab.held[0]? = some x ∧ x.sent ≠ 0 ∧ landTurn d 0 x = true ∧ inShelf (wBase x.win + hOfs x.hdr.toNat) = true) ∧
    (let d : Dev := { fab := { closing := [(8191, some 3)], held := [{ (heldReq 0) with done := 1, sent := 1 }] } }
     d.fab.closing.find? (fun c => c.1 == 8191) = some (8191, some 3) ∧
      ∀ y ∈ d.fab.held, hWin y.hdr.toNat = 8191 → hPtype y.hdr.toNat = 1 → y.sent = 0 ∨ reqRows y.hdr.toNat ≤ y.done) ∧
    (let d : Dev := { fab := { outst := [rdOut] }, inStep := true }
     d.fab.outst[0]? = some rdOut ∧ stillHeld d rdOut = false) ∧
    (∀ w ∈ [false, true], ({ shelfFlight := [shelfRow w] } : Dev).shelfFlight[0]? = some (shelfRow w) ∧ (shelfRow w).req = none ∧
      (shelfRow w).wr = w ∧ (shelfRow w).ctx = none) ∧
    (∀ n ∈ [0, 1], let x := { (heldReq 0) with refused := true, done := n }
     ({ fab := { held := [x] } } : Dev).fab.held[0]? = some x ∧ x.refused = true ∧ x.reported = false ∧
      (reqRows x.hdr.toNat ≤ x.done ↔ n = 1)) := by decide +kernel

/-- Port 31 up, with credit of class 0. -/
def upDev (g : GPort) : Dev :=
  { (setF (setGpState {} 31 2) (GP_CREDIT 15 1 0) GP_CREDIT_LIMIT 512) with fab := { ports := [(31, g)] } }
def linkPk (code seq : Nat) : BitVec 256 := BitVec.ofNat 256 (15 + fv 4 4 code + fv 8 12 seq)
def twoKept (l : BitVec 256) : GPort := { txSeq := 2, kept := [{ msg := 0 }, { msg := 4 }], links := [l] }

/-- The zero codeword is a data frame of FSEQ 0; the encoding of message 1 is an idle frame; a word far from every codeword is not decoded. -/
theorem witness_LinkFramesAndControlPackets_1 : rsDecode (List.replicate 8 0x100401) = none ∧ rsDecode (List.replicate 8 0) = some (0, false) ∧
    rsDecode (toLanes (rsEncode 1)) = some (1, false) := by decide +kernel

theorem witness_LinkFramesAndControlPackets_2 : portUp (upDev {}) 31 = true ∧
    (getF (upDev {}) (GP_INJ_CTL 15 1) GP_INJ_CTL_MODE ≠ 1 ∧ bits 0 2 12 = (gport (upDev {}) 31).rxExp ∧ bits 0 0 2 = 0 ∧ bits 1 0 2 = 1 ∧
      portUp (upDev { rxExp := 4095 }) 31 = true ∧ bits 0 2 12 ≠ (gport (upDev { rxExp := 4095 }) 31).rxExp) ∧
    (takeLink (upDev (twoKept (linkPk 0 1))) 31 0 = (some (linkPk 0 1).toNat, (takeLink (upDev (twoKept (linkPk 0 1))) 31 0).2) ∧
      keptBefore (gport (takeLink (upDev (twoKept (linkPk 0 1))) 31 0).2 31) ((bits (linkPk 0 1).toNat 8 12 + 1) % 4096) = some 2 ∧
      (gport (takeLink (upDev (twoKept (linkPk 0 1))) 31 0).2 31).txWait = []) ∧
    (∀ g ∈ [twoKept (linkPk 1 1), { (twoKept (linkPk 1 1)) with reqSeq := 1, reqCnt := 6 }],
      takeLink (upDev g) 31 1 = (some (linkPk 1 1).toNat, (takeLink (upDev g) 31 1).2) ∧
      ((gport (takeLink (upDev g) 31 1).2 31).reqSeq ≠ bits (linkPk 1 1).toNat 8 12 ∨ (gport (takeLink (upDev g) 31 1).2 31).reqCnt < 7) ∧
      keptBefore (gport (takeLink (upDev g) 31 1).2 31) (bits (linkPk 1 1).toNat 8 12) = some 1) ∧
    (takeLink (upDev (twoKept (linkPk 2 0))) 31 2 = (some (linkPk 2 0).toNat, (takeLink (upDev (twoKept (linkPk 2 0))) 31 2).2)) ∧
    (gport (upDev { rxGap := true }) 31).rxGap = true ∧
    (∀ c ∈ [0, 3], let d := setF (upDev { txq := [{ hdr := BitVec.ofNat 256 (6 + fv 4 2 c) }] }) (GP_CREDIT 15 1 c) GP_CREDIT_LIMIT 512
      nextToSend d 31 c = some { hdr := BitVec.ofNat 256 (6 + fv 4 2 c) } ∧ classDue d 31 c = true) ∧
    2048 ≤ (gport (upDev { kept := List.replicate 2048 { msg := 0 } }) 31).kept.length := by
  refine ⟨by decide +kernel, by decide +kernel, ⟨pairOf (by decide +kernel), by decide +kernel⟩, ?_,
    pairOf (by decide +kernel), by decide +kernel, by decide +kernel, by decide +kernel⟩
  intro g hg
  simp only [List.mem_cons, List.not_mem_nil, or_false] at hg
  rcases hg with rfl | rfl <;> exact ⟨pairOf (by decide +kernel), by decide +kernel⟩

theorem witness_LinkLossAndTraining : (portUp (upDev { kept := [{ msg := 0 }] }) 31 = true ∧ (gport (upDev { kept := [{ msg := 0 }] }) 31).kept ≠ []) ∧
    (let d := setGpState {} 31 1
     let mine := getF d FAB_LEVEL FAB_LEVEL_LINK_LEVEL
     gpState d 31 = 1 ∧ mine + 2 < 256 ∧ (mine - 1 ≤ mine + 1 ∧ mine ≤ mine - 1 + 1) ∧ (edge d (portDie 31)).lost = false ∧
       getB d SB_JTAG SB_JTAG_PINS = false) ∧
    gpState (setGpState {} 0 3) 0 = 3 ∧
    (∀ n ∈ [0, 1, 2], let d : Dev := { (setGpState {} 31 1) with fab := { ports := [(31, { levelOk := true, tries := n })] } }
     gpState d 31 = 1 ∧ (edge d (portDie 31)).lost = false ∧ (gport d 31).levelOk = true ∧ (gport d 31).tries = n) := by decide +kernel

/-- A packet of one row, with its DCRC. -/
def rowPkt (h : Nat) (v : Nat) (good : Bool) : RxPkt :=
  { p := { hdr := BitVec.ofNat 256 h, rows := [BitVec.ofNat 1024 v], trl := if good then BitVec.ofNat 256 (crc32 (rowBytes [BitVec.ofNat 1024 v])) else 0 } }
/-- Members 65,535 (this module, as after reset) and 9 of a job, on port 31 these packets. -/
def jobDev (ps : List RxPkt) (m : Member) : Dev :=
  let d := setBitAt (setF (fabDev ps []) FAB_STATE FAB_STATE_STATE 2) (FAB_PRESENT 0) 9 true
  { d with fab := { d.fab with mem := { m with members := [(65535, 0, 0, 0), (9, 1, 0, 0)] } } }

theorem witness_MembershipEvents :
    (takePkt (jobDev [rowPkt (12 + fv 8 6 1) 0 false] {}) 31 0 12 = (some (rowPkt (12 + fv 8 6 1) 0 false), (takePkt (jobDev [rowPkt (12 + fv 8 6 1) 0 false] {}) 31 0 12).2) ∧
      openRows (takePkt (jobDev [rowPkt (12 + fv 8 6 1) 0 false] {}) 31 0 12).2 31 (rowPkt (12 + fv 8 6 1) 0 false) =
        (none, (openRows (takePkt (jobDev [rowPkt (12 + fv 8 6 1) 0 false] {}) 31 0 12).2 31 (rowPkt (12 + fv 8 6 1) 0 false)).2)) ∧
    (let x := rowPkt (12 + fv 8 6 1) (fv 144 16 65534 + fv 160 16 65535) true
     takePkt (jobDev [x] {}) 31 0 12 = (some x, (takePkt (jobDev [x] {}) 31 0 12).2) ∧
      openRows (takePkt (jobDev [x] {}) 31 0 12).2 31 x = (some [{ data := BitVec.ofNat 1024 (fv 144 16 65534 + fv 160 16 65535) }],
        (openRows (takePkt (jobDev [x] {}) 31 0 12).2 31 x).2) ∧
      (openRows (takePkt (jobDev [x] {}) 31 0 12).2 31 x).2.fab.mem.joins = []) ∧
    (let x := rowPkt (12 + fv 8 6 1) (fv 0 64 4 + fv 64 32 5 + fv 144 16 1 + fv 160 16 2) true
     let m : Member := { joins := [⟨0, 4, 5, 2, [0], 0, 0, 0, 0, [], 0⟩] }
     takePkt (jobDev [x] m) 31 0 12 = (some x, (takePkt (jobDev [x] m) 31 0 12).2) ∧
      openRows (takePkt (jobDev [x] m) 31 0 12).2 31 x = (some [{ data := BitVec.ofNat 1024 (fv 0 64 4 + fv 64 32 5 + fv 144 16 1 + fv 160 16 2) }],
        (openRows (takePkt (jobDev [x] m) 31 0 12).2 31 x).2) ∧
      (openRows (takePkt (jobDev [x] m) 31 0 12).2 31 x).2.fab.mem.joins.find? (fun j => j.src == hSrc x.p.hdr.toNat && j.job == 4 && j.epoch == 5) =
        some ⟨0, 4, 5, 2, [0], 0, 0, 0, 0, [], 0⟩) ∧
    (jobDev [] { joining := some (7, 3) }).fab.mem.joining = some (7, 3) ∧
    (let x := hdrPkt (11 + fv 16 16 9 + fv 176 32 7)
     takePkt (jobDev [x] {}) 31 0 11 = (some x, (takePkt (jobDev [x] {}) 31 0 11).2) ∧ epochOk (takePkt (jobDev [x] {}) 31 0 11).2 x.p.hdr.toNat = true ∧
      isMember (takePkt (jobDev [x] {}) 31 0 11).2 (hSrc x.p.hdr.toNat) = true ∧ inJob (takePkt (jobDev [x] {}) 31 0 11).2 = true) ∧
    (inJob (jobDev [] {}) = true ∧ 9 ≠ myMod (jobDev [] {}) ∧ isMember (jobDev [] {}) 9 = true ∧ reachable (jobDev [] {}) 9 = true) ∧
    (jobDev [] { hold := some 5 }).fab.mem.hold.isSome = true := by
  refine ⟨⟨pairOf (by decide +kernel), Prod.ext (by decide +kernel) rfl⟩, ⟨pairOf (by decide +kernel), Prod.ext (by decide +kernel) rfl, by decide +kernel⟩,
    ⟨pairOf (by decide +kernel), Prod.ext (by decide +kernel) rfl, by decide +kernel⟩, by decide +kernel, ⟨pairOf (by decide +kernel), by decide +kernel⟩, by decide +kernel, by decide +kernel⟩

def rdxDev (op : Nat) (e : Eng) : Dev :=
  { (setWords (setF {} (RDX_STATUS 15) RDX_STATUS_STATE 1) (RDX_DESC 15 0 0) 16 (fv 0 2 op)) with fab := { edges := [(15, { rdx := e })] } }

/-- A verdict record, and a module at position q of every ring that receives it on port p. -/
def vrdPkt : RxPkt := hdrPkt (10 + fv 176 32 7)
def vrdDev (p q : Nat) : Dev :=
  let d := setF (setF (setF (setF (fabDev [] []) JOB_POS_0 JOB_POS_0_X q) JOB_POS_0 JOB_POS_0_Y q) JOB_POS_1 JOB_POS_1_Z q) STEP_LAST STEP_LAST_ATTEMPT 0
  { d with fab := { d.fab with ports := [(p, { inbox := [vrdPkt] })] } }

theorem witness_ReductionDescriptorsAndPackets :
    (∀ o ∈ [1, 2, 3], (edge (rdxDev o {}) 15).lost = false ∧ fenced (rdxDev o {}) = false ∧ getF (rdxDev o {}) (RDX_STATUS 15) RDX_STATUS_STATE = 1 ∧
      objReached (rdxDev o {}) (cdStart (curDesc (rdxDev o {}) 15)) = true ∧ gpState (rdxDev o {}) (15 + 16 * cdPort (curDesc (rdxDev o {}) 15)) ≠ 4 ∧
      cdOp (curDesc (rdxDev o {}) 15) = o) ∧
    (∀ q ∈ [0, 1, 2], ∀ b ∈ [false, true], (eng (rdxDev 1 { busy := true, pos := q, sent := b }) 15 0).busy = true ∧
      (eng (rdxDev 1 { busy := true, pos := q, sent := b }) 15 0).pos = q ∧ (eng (rdxDev 1 { busy := true, pos := q, sent := b }) 15 0).sent = b ∧
      (eng (rdxDev 1 { busy := true, pos := q, sent := b }) 15 0).bad = false) ∧
    (∀ t ∈ [7, 8, 9, 10], let x := hdrPkt (t + fv 176 32 7)
      let d := setR (fabDev [x] []) JOB_POS_0 1
      takePkt d 7 0 t = (some x, (takePkt d 7 0 t).2) ∧ epochOk (takePkt d 7 0 t).2 x.p.hdr.toNat = true ∧
        openRows (takePkt d 7 0 t).2 7 x = (some [], (takePkt d 7 0 t).2) ∧ portAxis 7 = some 0 ∧ myPos (takePkt d 7 0 t).2 0 ≠ 0) ∧
    (∀ p ∈ [7, 15, 23], ∀ q ∈ [0, 1], takePkt (vrdDev p q) p 0 10 = (some vrdPkt, (takePkt (vrdDev p q) p 0 10).2) ∧
      epochOk (takePkt (vrdDev p q) p 0 10).2 vrdPkt.p.hdr.toNat = true ∧
      openRows (takePkt (vrdDev p q) p 0 10).2 p vrdPkt = (some [], (takePkt (vrdDev p q) p 0 10).2) ∧ portAxis p = some (p / 8) ∧
      myPos (takePkt (vrdDev p q) p 0 10).2 (p / 8) = q ∧ ofAttempt (takePkt (vrdDev p q) p 0 10).2 0 = true ∧
      (ringPos (takePkt (vrdDev p q) p 0 10).2 (p / 8) (hSrc vrdPkt.p.hdr.toNat)).isSome = true) ∧
    (({ fab := { verd := { repair := some (3, 1) } } } : Dev).fab.verd.repair = some (3, 1)) := by
  refine ⟨by decide +kernel, by decide +kernel, ?_, ?_, rfl⟩
  · intro t ht
    simp only [List.mem_cons, List.not_mem_nil, or_false] at ht
    rcases ht with rfl | rfl | rfl | rfl <;> exact ⟨pairOf (by decide +kernel), by decide +kernel, rfl, by decide +kernel⟩
  · intro p hp q hq
    simp only [List.mem_cons, List.not_mem_nil, or_false] at hp hq
    rcases hp with rfl | rfl | rfl <;> rcases hq with rfl | rfl <;> exact ⟨pairOf (by decide +kernel), by decide +kernel, rfl, by decide +kernel⟩

/- Witnesses: the pantry -/

/-- Contexts 5 (foreground, defined, resident) and 6 (a filler, defined); 16,383 is not defined. A request at the head of the taken list. -/
def panDev (r : PReq) : Dev :=
  let d := setF (setCtx (setCtx {} 5 (1 + fv 5 3 3)) 6 (1 + fv 2 1 1)) SEC_LC SEC_LC_STATE 2
  { d with pan := { taken := [r] }, res := { fg := some 5 } }
def req (op ctx : Nat) (args : Nat) : PReq :=
  { op := op, flags := 0, tag := 9, ctx := ctx, paddr := 0, plen := 0, pspace := 0, args := BitVec.ofNat 1792 args }
/-- The device once the request is taken. -/
def took (d : Dev) : Dev := { d with pan := { d.pan with taken := [] } }

/-- A request that may start is taken; p says which command takes it. -/
def takes (d : Dev) (r : PReq) (p : PReq → Bool) : Bool := d.pan.taken == [r] && !isHeld d r && p r

theorem takeReq_of_takes {d : Dev} {r : PReq} {p : PReq → Bool} (h : takes d r p = true) : takeReq d p = some (r, took d) := by
  simp only [takes, Bool.and_eq_true, Bool.not_eq_true', beq_iff_eq] at h
  obtain ⟨⟨h1, h2⟩, h3⟩ := h
  have h4 : takeReq d p = some (r, { d with pan := { d.pan with taken := [r].erase r } }) := by
    unfold takeReq
    rw [h1]
    simp only [List.find?, h2, h3, Bool.not_false, if_true]
  rw [h4]
  simp only [List.erase_cons_head, took]

/-- A filler package with no section. -/
def emptyPkg : Nat := fv 0 8 1 + fv 8 2 2 + fv 16 8 1 + fv 32 10 4 + fv 192 64 64

theorem witness_PantryRequestsAreCarriedOut_1 :
    (takes (panDev (req 1 16383 (98304 <<< 144))) (req 1 16383 (98304 <<< 144)) (fun r => r.op == 1) = true ∧
      arg (req 1 16383 (98304 <<< 144)) 18 32 + arg (req 1 16383 (98304 <<< 144)) 22 32 ≤ 98304 ∧
      ctxBits (took (panDev (req 1 16383 0))) 16383 0 1 = 0 ∧ lcState (took (panDev (req 1 16383 0))) = 2 ∧
      freeTag (setBitAt (took (panDev (req 1 16383 0))) (SEC_TAGS 0) 1 true) = some 2) ∧
    takes (panDev { (req 1 16383 (98304 <<< 144)) with flags := 1 }) { (req 1 16383 (98304 <<< 144)) with flags := 1 } (fun r => r.op == 1) = true ∧
    (∀ f ∈ [0, 1], takes (panDev { (req 3 5 0) with flags := f }) { (req 3 5 0) with flags := f } (fun r => r.op == 3 && bit r.flags 0 == (f == 1)) = true ∧
      ctxBits (took (panDev (req 3 5 0))) 5 0 1 = 1 ∧ ctxState (took (panDev (req 3 5 0))) 5 = 3) ∧
    (takes (panDev (req 4 6 0)) (req 4 6 0) (fun r => r.op == 4) = true ∧ ctxBits (took (panDev (req 4 6 0))) 6 0 1 = 1 ∧
      ctxState (took (panDev (req 4 6 0))) 6 < 3 ∧ (took (panDev (req 4 6 0))).pan.works.any (fun w => w.op == 2 && w.ctx == 6) = false) ∧
    (takes (panDev (req 4 5 0)) (req 4 5 0) (fun r => r.op == 4) = true ∧ ctxBits (took (panDev (req 4 5 0))) 5 0 1 = 1 ∧
      ctxState (took (panDev (req 4 5 0))) 5 = 3) ∧
    (takes (panDev (req 8 5 1)) (req 8 5 1) (fun r => r.op == 8) = true ∧ 0 < arg (req 8 5 1) 0 32 ∧ arg (req 8 5 1) 4 8 = 0 ∧ arg (req 8 5 1) 5 24 = 0 ∧
      (List.range 8).all (fun i => arg (req 8 5 1) (16 + 16 * i + 6) 16 == 0) = true ∧ (took (panDev (req 8 5 1))).res.fg = some (req 8 5 1).ctx ∧
      fwBusy (took (panDev (req 8 5 1))) = false) ∧
    (takes (setBitAt (panDev (req 0xE 5 63)) THM_SHED_0 63 true) (req 0xE 5 63) (fun r => r.op == 0xE) = true ∧
      tileShed (took (setBitAt (panDev (req 0xE 5 63)) THM_SHED_0 63 true)) 63 = true ∧
      (took (setBitAt (panDev (req 0xE 5 63)) THM_SHED_0 63 true)).heat.fillerShed.contains 63 = false) := by decide +kernel

def ruleDev : Dev := panDev { (req 9 5 0) with plen := 16384 }
def loadDev : Dev := panDev { (req 2 6 0) with plen := 64 }

theorem witness_PantryRequestsAreCarriedOut_2 :
    (takes ruleDev { (req 9 5 0) with plen := 16384 } (fun r => r.op == 9) = true ∧
      (payload (took ruleDev) { (req 9 5 0) with plen := 16384 } (some 0)).1 = (some 0, 0) ∧ (took ruleDev).res.fg.isSome = true ∧
      rulesOk { typ := 0xB, idx := 0, len := 16384, body := 0 } = true) ∧
    (takes loadDev { (req 2 6 0) with plen := 64 } (fun r => r.op == 2) = true ∧
      (payload (took loadDev) { (req 2 6 0) with plen := 64 } (some emptyPkg)).1 = (some emptyPkg, 0)) ∧
    (∃ p, parsePkg emptyPkg 64 = some p ∧ loadRefused (took loadDev) 6 p = false ∧
      pkgRefusal (took loadDev) 6 (if ctxFiller (took loadDev) 6 then 2 else 0) p none = none) := by
  refine ⟨by decide +kernel, by decide +kernel, { hdr := emptyPkg, secs := [], dig := natOfBytes (sha384 (bytesOf 64 emptyPkg)) }, ?_, by decide +kernel⟩
  unfold parsePkg
  have h1 : ¬ (64 < 64 ∨ bits (bits emptyPkg 0 512) 192 64 ≠ 64) := by decide +kernel
  have h2 : bits emptyPkg 0 512 = emptyPkg := by decide +kernel
  have h3 : parseSecs emptyPkg 64 (bits (bits emptyPkg 0 512) 160 16) 64 = some [] := by decide +kernel
  rw [if_neg h1, h3, h2]
  rfl

/-- A module of no tile and no edge die, whose foreground is context 5. -/
def bareDev (r : PReq) : Dev :=
  let d := (List.range 64).foldl (fun d t => setF d (TILE_STATE t) TILE_STATE_BASE_LOST 1) (panDev r)
  { d with fab := { edges := (List.range 16).map (fun k => (k, { lost := true })) }, primary := some { hdr := 0, secs := stageSecs } }
where
  /-- A region table, a rule table and an expert directory of zeros. -/
  stageSecs : List Sec := [{ typ := 1, idx := 0, len := 16384, body := 0 }, { typ := 0xB, idx := 0, len := 16384, body := 0 },
    { typ := 0xF, idx := 0, len := 0, body := 0 }]

/-- A degraded package for every tile lost. -/
def stagePkg : Nat :=
  fv 0 8 1 + fv 8 2 1 + fv 16 8 1 + fv 32 10 4 + fv 64 64 (2 ^ 64 - 1) + fv 160 16 3 + fv 192 64 32880 +
    (1 + fv 64 32 16384) <<< 512 + (0xB + fv 64 32 16384) <<< (512 + 8 * 16400) + 0xF <<< (512 + 8 * 32800)
def stageReq : PReq := { (req 5 5 0) with plen := 32880 }

theorem witness_PantryRequestsAreCarriedOut_3 :
    (takes (bareDev stageReq) stageReq (fun r => r.op == 5) = true ∧
      (payload (took (bareDev stageReq)) stageReq (some stagePkg)).1 = (some stagePkg, 0) ∧ (took (bareDev stageReq)).res.fg = some 5 ∧
      (took (bareDev stageReq)).primary = some { hdr := 0, secs := bareDev.stageSecs } ∧ (took (bareDev stageReq)).staged.length < 80 ∧
      (took (bareDev stageReq)).pan.works = []) ∧
    (∃ p, parsePkg stagePkg 32880 = some p ∧ pkgRefusal (took (bareDev stageReq)) 5 1 p (some { hdr := 0, secs := bareDev.stageSecs }) = none) := by
  refine ⟨by decide +kernel, { hdr := bits stagePkg 0 512, secs := bareDev.stageSecs, dig := natOfBytes (sha384 (bytesOf 32880 stagePkg)) }, ?_, by decide +kernel⟩
  unfold parsePkg
  have h1 : ¬ (32880 < 64 ∨ bits (bits stagePkg 0 512) 192 64 ≠ 32880) := by decide +kernel
  have h3 : parseSecs stagePkg 32880 (bits (bits stagePkg 0 512) 160 16) 64 = some bareDev.stageSecs := by decide +kernel
  rw [if_neg h1, h3]
  rfl

/-- A membership record of one member, this module. -/
def oneMember : Nat :=
  fv 0 32 1 + fv 32 32 72 + fv 128 32 3 + fv 160 32 1 + fv 192 16 1 + fv 208 16 1 + fv 224 16 1 + fv 240 16 65535 + fv 256 16 10 + fv 272 16 100 +
    fv 288 16 1 + fv 512 16 65535
def joinReq : PReq := { (req 6 0 0) with plen := 72 }
/-- A blob of one chunk, the last one of the last stack, in the reserve: header and manifest in the row at address 0. -/
def blobReq : PReq := { (req 0xA 5 0) with pspace := 1 }
def blobMan : Nat := 127 * 32768 + 18431
def blobHdr : Nat := fv 0 32 1 + fv 63 1 1 + fv 96 32 1 + natOfBytes (sha384 (bytesOf 8 blobMan)) <<< 128
def blobDev : Dev :=
  let d := ccStore (setCtx (panDev blobReq) 5 (1 + fv 1 1 1 + fv 5 3 3 + fv 8 8 4)) 0 (blobHdr + blobMan <<< 512) false
  { (setR d (CC_TAG 63 1 (18431 / 4)) (4 <<< 24)) with ctxKeys := [(5, { kw := some 1 })] }
def ckptReq : PReq := req 0xB 5 128
def ckptDev : Dev := { (setCtx (panDev ckptReq) 5 (1 + fv 1 1 1 + fv 5 3 2 + fv 8 8 4)) with ctxKeys := [(5, { kw := some 1, ckpt := true })] }
def winReq (f : Nat) : PReq := { (req 0xF 5 (8191 + (fv 64 48 shelfBase + fv 128 32 1 + fv 16 14 5) <<< 16)) with flags := f }

theorem witness_PantryRequestsForJobsCopiesAndWindows :
    (takes (panDev joinReq) joinReq (fun r => r.op == 6) = true ∧ (payload (took (panDev joinReq)) joinReq (some oneMember)).1 = (some oneMember, 0) ∧
      getF (took (panDev joinReq)) FAB_STATE FAB_STATE_STATE = 0 ∧ fwBusy (took (panDev joinReq)) = false ∧ lcState (took (panDev joinReq)) = 2 ∧
      (∀ c, (took (panDev joinReq)).res.fg = some c → ctxBits (took (panDev joinReq)) c 128 64 = mrJob oneMember) ∧ mrOk (took (panDev joinReq)) oneMember 72 = true) ∧
    (∀ f ∈ [0, 2], takes (setF (panDev (req 7 5 0)) FAB_STATE FAB_STATE_STATE f) (req 7 5 0) (fun r => r.op == 7) = true ∧
      inJob (took (setF (panDev (req 7 5 0)) FAB_STATE FAB_STATE_STATE f)) = (f == 2) ∧
      (setF (panDev (req 7 5 0)) FAB_STATE FAB_STATE_STATE f).pan.taken.find? (fun r => !isHeld (setF (panDev (req 7 5 0)) FAB_STATE FAB_STATE_STATE f) r) =
        some (req 7 5 0)) ∧
    (let d2 := (reserveBytes (took blobDev) 0 64).2
     let d3 := (reserveBytes d2 64 8).2
     takes blobDev blobReq (fun r => r.op == 0xA) = true ∧ (reserveBytes (took blobDev) 0 64).1 = some blobHdr ∧
      (reserveBytes d2 64 (8 * bits blobHdr 96 32)).1 = some blobMan ∧
      bits blobHdr 0 32 = 1 ∧ bits blobHdr 80 16 = 0 ∧ bits blobHdr 63 1 = 1 ∧ bits blobHdr 96 32 = 1 ∧ ctxProt d2 5 = true ∧
      ctxState (took blobDev) 5 = 3 ∧ (keysOf d2 5).kw.isSome = true ∧
      (keysOf d2 5).blobs.contains (bits blobHdr 32 32, bits blobHdr 64 16) = false ∧
      natOfBytes (sha384 (bytesOf (8 * bits blobHdr 96 32) blobMan)) = bits blobHdr 128 384 ∧
      (List.range (bits blobHdr 96 32)).any (fun i => bits blobMan (64 * i + 22) 2 != 0 || bits blobMan (64 * i + 35) 29 != 0) = false ∧
      ((List.range (bits blobHdr 96 32)).map (fun i => bits blobMan (64 * i) 22)).all (ownsChunk d3 5) = true) ∧
    (takes ckptDev ckptReq (fun r => r.op == 0xB) = true ∧ arg ckptReq 0 64 % 128 = 0 ∧ ctxProt (took ckptDev) 5 = true ∧ ctxState (took ckptDev) 5 = 2 ∧
      (keysOf (took ckptDev) 5).ckpt = true ∧ (keysOf (took ckptDev) 5).kw.isSome = true ∧ epoch (took ckptDev) < 2 ^ 31) ∧
    (takes (panDev (req 0xC 5 128)) (req 0xC 5 128) (fun r => r.op == 0xC) = true ∧ arg (req 0xC 5 128) 0 64 % 128 = 0 ∧
      (req 0xC 5 128).plen % 128 = 0 ∧ (req 0xC 5 128).pspace = 0) ∧
    takes (panDev (req 0xD 5 0)) (req 0xD 5 0) (fun r => r.op == 0xD) = true ∧
    (takes (panDev (winReq 0)) (winReq 0) (fun r => r.op == 0xF && !bit r.flags 0) = true ∧ arg (winReq 0) 0 16 = 8191 ∧
      wReserved (arg (winReq 0) 2 512) = 0 ∧ wEpoch (arg (winReq 0) 2 512) = 0 ∧ wBase (arg (winReq 0) 2 512) % 128 = 0 ∧ wLen (arg (winReq 0) 2 512) ≠ 0 ∧
      winSpanOk (wBase (arg (winReq 0) 2 512)) (wLen (arg (winReq 0) 2 512)) = true ∧ winOk (took (panDev (winReq 0))) 8191 (arg (winReq 0) 2 512) 0 = true) ∧
    (takes (setWin (panDev (winReq 1)) 8191 7) (winReq 1) (fun r => r.op == 0xF && bit r.flags 0) = true ∧
      arg (winReq 1) 0 16 = 8191 ∧ wValid (winDesc (took (setWin (panDev (winReq 1)) 8191 7)) 8191) = true ∧ wEpoch (winDesc (took (setWin (panDev (winReq 1)) 8191 7)) 8191) = 0) := by
  refine ⟨⟨by decide +kernel, by decide +kernel, by decide +kernel, by decide +kernel, by decide +kernel, fun c h => ?_, by decide +kernel⟩, by decide +kernel,
    by decide +kernel, by decide +kernel⟩
  have h5 : (5 : Nat) = c := Option.some.inj h
  subst h5
  decide +kernel

def workDev (o : Nat) : Dev :=
  { blobDev with pan := { works := [{ op := o, flags := 0, tag := 1, ctx := 5, src := 0, len := 1, data := blobMan }] } }
/-- The device without the work. -/
def workLess (o : Nat) : Dev := { (workDev o) with pan := { (workDev o).pan with works := [] } }

/-- A blob whose one chunk is the context's: not loaded since; without a key; a checkpoint with and without one. -/
theorem witness_WorkUnderWayCompletes : (∀ o ∈ [2, 0xA, 0xB, 0xC, 0xD], (workDev o).pan.works[0]? =
      some { op := o, flags := 0, tag := 1, ctx := 5, src := 0, len := 1, data := blobMan }) ∧
    (∀ o ∈ [3, 4], streamsGone (workDev o) 5 = true ∧ (workDev o).fab.closing.all (fun x => wCtx (winDesc (workDev o) x.1) != 5) = true) ∧
    (let d2 := (reserveBytes (workLess 0xA) 0 64).2
     (keysOf (workLess 0xA) 5).kw = some 1 ∧ (reserveBytes (workLess 0xA) 0 64).1 = some blobHdr ∧
      (keysOf (workLess 0xA) 5).blobs.contains (bits blobHdr 32 32, bits blobHdr 64 16) = false ∧
      ((List.range 1).map (fun i => bits blobMan (64 * i) 22)).all (ownsChunk d2 5) = true) ∧
    (openChunks { op := 0xA, flags := 0, tag := 1, ctx := 5, len := 0 } blobHdr 4 [] 0 0 {}).1 = true ∧
    (keysOf { (workLess 0xA) with ctxKeys := [] } 5).kw = none ∧ (keysOf (copyMaps (workLess 0xB)) 5).kw.isSome = true ∧
    (busMaster (workDev 0xC) = true ∧ busMaster (workDev 0xD) = true) := by decide +kernel

/- Witnesses: power, losses, faults, firmware, resets, sentences -/

theorem witness_EffectiveCapIsTheLowerRegister : (∀ v ∈ [600, 1800], 600 ≤ v ∧ v ≤ 1800) ∧ (∀ v ∈ [599, 1801], v < 600 ∨ 1800 < v) ∧
    barOk (readyDev 2) PWR_CAP_HOST 4 = true ∧ smFull (readyDev 2) = true := by decide +kernel

/-- Tile 63 runs; droop hold, power-fail, its adaptive clock and its fast-trip hold as given. -/
def tileDev (p : Pwr) : Dev := { (setF {} (TILE_STATE 63) TILE_STATE_COMPUTE 1) with pwr := p }

theorem witness_SupplyDroopAndRailEvents : (tileDev {}).pwr.droop = false ∧ (tileDev {}).pwr.failed = false ∧ (tileDev { droop := true }).pwr.droop = true ∧
    (tileDev { failed := true }).pwr.failed = true ∧ tileRuns (tileDev {}) 63 = true ∧ (tileDev {}).pwr.sag.contains 63 = false ∧
    (tileDev { sag := [63] }).pwr.sag.contains 63 = true ∧ (tileDev {}).pwr.trip.contains 63 = false ∧
    (tileDev { trip := [63] }).pwr.trip.contains 63 = true := by decide +kernel

theorem witness_PowerMeasurementAndControl : (∀ n ∈ [0, 7, 8], let d : Dev := { (setHdr {} 319 1) with pwr := { stages := [(319, n)] } }
      hdrState d 319 = 1 ∧ d.pwr.stages.get 319 0 = n) ∧
    (Machine.core (coreDev { note := some 20 }) 319).note = some 20 ∧ baseLost {} 63 = false ∧
    (pCap {} < 18001 ∧ max 1 (100 * (18001 - pCap {}) / pCap {}) < ({} : Dev).pwr.capCeil) ∧
    (let d : Dev := { pwr := { capCeil := 1 } }
     pCap d < 18001 ∧ d.pwr.capCeil ≤ max 1 (100 * (18001 - pCap d) / pCap d) ∧ getB d PWR_STATUS PWR_STATUS_CAP_UNMET = false) ∧
    (100 * 17459 < 97 * pCap {} ∧ ({ pwr := { under := 9 } } : Dev).pwr.under = 9) ∧
    (∀ p ∈ [17460, 18000], p ≤ pCap {} ∧ 97 * pCap {} ≤ 100 * p) := by decide +kernel

theorem witness_LossesAndTemperatures : (baseLost {} (127 / 2) = false ∧ 104 < 105 ∧ 105 ≤ 105) ∧
    (let d : Dev := { heat := { stackHot := [(127, 9)] } }
     d.heat.stackHot.get 127 0 = 9 ∧ stackLost d 127 = false ∧ baseLost d (127 / 2) = false) ∧
    (∀ n ∈ [64, 71], ({} : Dev).pwr.vcmOff.contains n = false) ∧
    (∀ i ∈ [39, 40, 47], let d := setBitAt {} (IVR_FAILED_LO 63) (4 * (i / 4)) true
     baseLost d 63 = false ∧ (i = 40 ∨ getBitAt d (IVR_FAILED_LO 63) i = false) ∧
       (List.range 4).any (fun j => getBitAt d (IVR_FAILED_LO 63) (4 * (i / 4) + j)) = true) ∧ ({} : Dev).pwr.vcmOff.contains 63 = false ∧
    (getBitAt {} (IVR_FAILED_LO 63) 47 = false ∧ (List.range 4).any (fun j => getBitAt {} (IVR_FAILED_LO 63) (4 * (47 / 4) + j)) = false) ∧
    (List.range 64).all (fun t => decide (({ heat := { hot := [(63, 9)] } } : Dev).heat.hot.get t 0 < 10)) = true ∧
    100 ≤ ({ heat := { cool := [(63, 100)] } } : Dev).heat.cool.get 63 0 ∧
    (let d : Dev := { heat := { fillerShed := [63], cool := [(63, 1000)] } }
     d.heat.fillerShed.contains 63 = true ∧ 1000 ≤ d.heat.cool.get 63 0) := by decide +kernel

theorem witness_ErrorRecordsAndTests : (({ recFlight := [5] } : Dev).recFlight[0]? = some 5 ∧
      (countEvent { ({ recFlight := [5] } : Dev) with recFlight := [5].eraseIdx 0 } 5 7).1 = (false, 0)) ∧
    ({ flt := { plogWait := [5] } } : Dev).flt.plogWait = [5] ∧ anyInject {} = false ∧ ({ flt := { test := true } } : Dev).flt.test = true ∧
    (({ flt := { testPend := [(3, 1, 5, 6)] } } : Dev).flt.testPend.find? (fun p => p.1 == 3) = some (3, 1, 5, 6)) ∧
    (let d : Dev := { (setHdr {} 319 2) with flt := { takeovers := [⟨63, 0, 319, false⟩] } }
     d.flt.takeovers.find? (fun k => k.tile == 63 && !k.done) = some ⟨63, 0, 319, false⟩ ∧ hdrState d 319 = 2 ∧ slotCore d 63 0 = some 315) ∧
    ({ flt := { repair := [4095] } } : Dev).flt.repair.contains 4095 = true := by decide +kernel

def fwReq (k n : Nat) : PReq := { (req 0x12 0 k) with plen := n }

theorem witness_FirmwareUpdatesAndRecovery :
    (let r := fwReq 3 11056
     takes { pan := { taken := [r] } } r (fun r => r.op == 0x12 && arg r 0 8 != 0x10) = true ∧ arg r 0 8 ≤ 4 ∧ fwDrained {} = true ∧
      payload {} r (some (shippedHdr 3).toNat) = ((some (shippedHdr 3).toNat, 0), {}) ∧
      fwReason {} 3 11056 (BitVec.ofNat 2048 (shippedHdr 3).toNat) = 0) ∧
    (let r := fwReq 0x10 64
     takes { pan := { taken := [r] } } r (fun r => r.op == 0x12 && arg r 0 8 == 0x10) = true ∧ r.plen = 64 ∧ payload {} r (some 0) = ((some 0, 0), {})) ∧
    ({ boot := { fwq := [⟨9, 3, false, 0, 0, 1⟩] } } : Dev).boot.fwq = [⟨9, 3, false, 0, 0, 1⟩] ∧
    (let d := setRcv { (setF (setF (readyDev 2) FW_STATUS FW_STATUS_MODE 2) BOOT_STAGE BOOT_STAGE_STAGE 2) with
        boot := { off := false, rcv := 1 + fv 32 32 0x100000 } } 1 1
     barOk d RCV_CTL 4 = true ∧ inRecovery d = true ∧ 1 = getF d RCV_STATUS RCV_STATUS_NEXT ∧ 2 ≠ getF d RCV_STATUS RCV_STATUS_NEXT ∧
      rcvData d = 0 ∧ ihLength (BitVec.ofNat 2048 (d.boot.rcv + rcvData d <<< (262144 * 1))) ≤ regionSize 4 ∧
      32768 * 2 < ihLength (BitVec.ofNat 2048 (d.boot.rcv + rcvData d <<< (262144 * 1)))) ∧
    (let d := setWords { (setF (setF (readyDev 2) FW_STATUS FW_STATUS_MODE 2) BOOT_STAGE BOOT_STAGE_STAGE 2) with boot := { off := false } }
        (RCV_DATA 0) 64 (shippedHdr 4).toNat
     barOk d RCV_CTL 4 = true ∧ inRecovery d = true ∧ 0 = getF d RCV_STATUS RCV_STATUS_NEXT ∧ rcvData d = (shippedHdr 4).toNat ∧
      ihLength (shippedHdr 4) ≤ regionSize 4 ∧ ihLength (shippedHdr 4) ≤ 32768 * (0 + 1) ∧ imgHdrOk 4 (shippedHdr 4) = true ∧
      fusedArb (fwErase d 4 (fwTarget d 4)) 4 ≤ ihArb (shippedHdr 4)) := by decide +kernel

theorem witness_StartsAndResets : (({} : Dev).boot.off = true) ∧
    (∀ g ∈ [1, 2, 3, 4, 5, 6, 7, 8, 9], let d : Dev := { (setStage {} g) with boot := { off := false, run := some 1 } }
      d.boot.off = false ∧ d.boot.held = false ∧ d.boot.run.isSome = true ∧ d.boot.fuseBad = false ∧ bootStage d = g ∧ fwMode d = 0) ∧
    (let d : Dev := setF { (setStage {} 3) with boot := { off := false, run := some 1 } } FW_STATUS FW_STATUS_MODE 1
     d.boot.off = false ∧ d.boot.held = false ∧ d.boot.run.isSome = true ∧ bootStage d = 3 ∧ fwMode d = 1) ∧ ({} : Dev).boot.rsts = [] ∧
    absorbed (readyDev 2) 2 = false ∧ ({ boot := { held := true } } : Dev).boot.held = true ∧
    (∀ k ∈ [1, 2], takes (panDev (req 0x11 0 k)) (req 0x11 0 k) (fun r => r.op == 0x11 && !(arg r 0 8 == 3 || arg r 0 8 == 4)) = true ∧
      arg (req 0x11 0 k) 0 8 = k) ∧
    (let r := req 0x11 0 (3 + fv 8 8 63)
     takes (panDev r) r (fun r => r.op == 0x11 && arg r 0 8 == 3) = true ∧ arg r 1 8 = 63 ∧ baseLost (took (panDev r)) 63 = false ∧
      (took (panDev r)).boot.rsts = [] ∧
      (took { (panDev r) with boot := { rsts := [⟨3, [9], 0, 1⟩] } }).boot.rsts.find? (fun x => x.code == 3) = some ⟨3, [9], 0, 1⟩) ∧
    ({ boot := { rsts := [⟨3, [9], 63, 2⟩] } } : Dev).boot.rsts = [⟨3, [9], 63, 2⟩] := by decide +kernel

theorem witness_PowerStatesClocksAndRestarts :
    (∀ k ∈ [0, 1, 2], takes (panDev (req 0x10 0 k)) (req 0x10 0 k)
      (fun r => r.op == 0x10 && (arg r 0 8 == k || (k == 0 && decide (2 < arg r 0 8)))) = true ∧ arg (req 0x10 0 k) 0 8 = k) ∧
    ({ boot := { ptrans := some (2, none) } } : Dev).boot.ptrans = some (2, none) ∧
    (takes (panDev (req 0x11 5 4)) (req 0x11 5 4) (fun r => r.op == 0x11 && arg r 0 8 == 4) = true ∧ ctxBits (took (panDev (req 0x11 5 4))) 5 0 1 = 1 ∧
      ctxWork (took (panDev (req 0x11 5 4))) 5 = false ∧ (took (panDev (req 0x11 5 4))).boot.rsts = [] ∧
      (took { (panDev (req 0x11 5 4)) with boot := { rsts := [⟨4, [9], 6, 2⟩] } }).boot.rsts = [⟨4, [9], 6, 2⟩]) ∧
    (takes (panDev (req 0x11 7 4)) (req 0x11 7 4) (fun r => r.op == 0x11 && arg r 0 8 == 4) = true ∧ ctxBits (took (panDev (req 0x11 7 4))) 7 0 1 = 0) ∧
    ([(⟨3, [9], 63, 1⟩ : Rst)].find? (fun x => x.code == 3 && x.phase == 1) = some ⟨3, [9], 63, 1⟩) ∧
    (getB {} SB_CLK SB_CLK_HOLDOVER = false ∧ getB (setB {} SB_CLK SB_CLK_HOLDOVER true) SB_CLK SB_CLK_HOLDOVER = true) ∧
    ((readyDev 2).boot.held = false ∧ (readyDev 2).boot.fuseBad = false ∧ isReady (readyDev 2) = true ∧
      (∀ t, some 10000 = some t → 10000 ≤ t) ∧ isReady { boot := { off := false } } = false) ∧
    (∀ k, k < 16 → ([] : List Int).getD k 0 < 115) ∧
    (({ boot := { restart := true } } : Dev).boot.restart = true ∧ ({ boot := { restart := true } } : Dev).fab.mem.joining = none) := by
  refine ⟨by decide +kernel, by decide +kernel, by decide +kernel, by decide +kernel, by decide +kernel, by decide +kernel,
    ⟨by decide +kernel, by decide +kernel, by decide +kernel, fun t h => by cases h; decide, by decide +kernel⟩, fun k _ => ?_, by decide +kernel⟩
  simp

theorem witness_SentencesOpenBeginAndEnd :
    (let d := setB {} TG_CTL TG_CTL_RUN true
     getB d TG_CTL TG_CTL_RUN = true ∧ d.tickOut = false ∧ d.guarded = true ∧ noClause d = true ∧ d.losePend = []) ∧
    (let d : Dev := { tickOut := true, tickAt := (List.range 81).map (fun u => (u, 1)) }
     (liveNodes d).all (fun u => d.tickAt.get u 0 != 0) = true ∧ noClause d = true) ∧
    (let d : Dev := { guarded := false }
     d.guarded = false ∧ d.tickOut = false ∧ stretchOf d (getF d TG_SENT_LEN TG_SENT_LEN_CUR_LEN / 10) = some 0 ∧ d.doeHeld = none) ∧
    getB {} TG_CTL TG_CTL_RUN = false ∧ get64 {} TG_TICK_LO TG_TICK_HI + 1 < 2 ^ 64 := by decide +kernel

theorem witness_StepNumberAdvancesAtCommitAndSkip : (∀ v ∈ [1, 3], vrVerdict v = v) ∧ ({} : Dev).fab.verd.ended = false ∧
    stepNo {} + 1 < 2 ^ 64 ∧ get64 {} STEP_EPOCH_LO STEP_EPOCH_HI + 1 < 2 ^ 64 := by decide +kernel

end Sys2Proof.Tests
end

section
/-!
PROOFS. The SDX8 formats (R75-R78): which codes are finite, and that a negative zero has one code.
-/
namespace Sys2Proof.Machine

/-- R78: code 0x80 of SDX8G. -/
theorem decodeNum_nanCode {F : Fmt} (hG : F.isG = true) : decodeNum F 0x80 = .nan := by
  simp [decodeNum, hG]

/-- What a code can decode to (R76-R78): NaN or an infinity under their conditions, else a subnormal or normal number. -/
theorem decodeNum_cases (F : Fmt) (c : Nat) :
    (decodeNum F c = .nan ∧ (F.isG = true ∧ c % 256 = 0x80 ∨ F.nf = true)) ∨
    (decodeNum F c = .inf (bit c F.mag) ∧ F.nf = true) ∨
    (decodeNum F c = .fin (bit c F.mag) (bits c 0 F.fw) (1 - (F.bias : Int) - F.fw) ∧ bits c F.fw F.ew = 0) ∨
    decodeNum F c = .fin (bit c F.mag) (2 ^ F.fw + bits c 0 F.fw) ((bits c F.fw F.ew : Int) - F.bias - F.fw) := by
  by_cases hnan : F.isG = true ∧ c % 256 = 0x80
  · exact .inl ⟨by simp [decodeNum, hnan], .inl hnan⟩
  by_cases hexp : F.nf = true ∧ bits c F.fw F.ew = 2 ^ F.ew - 1
  · by_cases hf : bits c 0 F.fw = 0
    · exact .inr (.inl ⟨by simp [decodeNum, hnan, hexp, hf], hexp.1⟩)
    · exact .inl ⟨by simp [decodeNum, hnan, hexp, hf], .inr hexp.1⟩
  by_cases he : bits c F.fw F.ew = 0
  · rw [he] at hexp
    exact .inr (.inr (.inl ⟨by simp [decodeNum, hnan, hexp, he], he⟩))
  · exact .inr (.inr (.inr (by simp [decodeNum, hnan, hexp, he])))

/-- R78: in a format without non-finite exponents every code is finite, except SDX8G's 0x80. -/
theorem isNF_decodeNum_of_nf_false {F : Fmt} {c : Nat} (hF : F.nf = false) (hc : F.isG = true → c % 256 ≠ 0x80) :
    isNF (decodeNum F c) = false := by
  rcases decodeNum_cases F c with ⟨-, ⟨hG, h80⟩ | hnf⟩ | ⟨-, hnf⟩ | ⟨h, -⟩ | h
  · exact absurd h80 (hc hG)
  · simp [hF] at hnf
  · simp [hF] at hnf
  · rw [h]; rfl
  · rw [h]; rfl

/-- A finite value is zero when its significand is. -/
theorem isZero_fin_iff (s : Bool) (m : Nat) (e : Int) : isZero (.fin s m e) = true ↔ m = 0 := by
  cases m with
  | zero => simp [isZero]
  | succ m => simp [isZero]

/-- Only a zero exponent with a zero fraction decodes to zero: a normal number has its hidden one (R76). -/
theorem fields_eq_zero_of_isZero_decodeNum {F : Fmt} {c : Nat} (hz : isZero (decodeNum F c) = true) :
    bits c F.fw F.ew = 0 ∧ bits c 0 F.fw = 0 := by
  rcases decodeNum_cases F c with ⟨h, -⟩ | ⟨h, -⟩ | ⟨h, he⟩ | h
  · simp [h, isZero] at hz
  · simp [h, isZero] at hz
  · exact ⟨he, by simpa [h, isZero_fin_iff] using hz⟩
  · simp [h, isZero_fin_iff] at hz

/-- A negative value has the sign bit of its code set (R75). -/
theorem bit_mag_of_signOf_decodeNum {F : Fmt} {c : Nat} (hs : signOf (decodeNum F c) = true) : bit c F.mag = true := by
  rcases decodeNum_cases F c with ⟨h, -⟩ | ⟨h, -⟩ | ⟨h, -⟩ | h
  · simp [h, signOf] at hs
  all_goals simpa [h, signOf] using hs

/-- The sign bit alone makes the code of a set sign, a zero exponent and a zero fraction. -/
theorem eq_two_pow_mag_of_fields {F : Fmt} {c : Nat} (hc : c < 2 ^ (F.mag + 1)) (hs : bit c F.mag = true)
    (he : bits c F.fw F.ew = 0) (hf : bits c 0 F.fw = 0) : c = 2 ^ F.mag := by
  have hmag : c % 2 ^ F.mag = 0 := by
    rw [Fmt.mag, Nat.add_comm, Nat.pow_add, Nat.mod_mul]
    simp_all [bits, Nat.shiftRight_eq_div_pow]
  have hdiv : c / 2 ^ F.mag % 2 = 1 := by simpa [bit, bits, Nat.shiftRight_eq_div_pow] using hs
  have hlt : c / 2 ^ F.mag < 2 := Nat.div_lt_of_lt_mul (by rwa [Nat.pow_succ] at hc)
  have hone : c / 2 ^ F.mag = 1 := by rwa [Nat.mod_eq_of_lt hlt] at hdiv
  simpa [hone, hmag] using (Nat.div_add_mod c (2 ^ F.mag)).symm

/-- A code within its format's width that decodes to -0 is the sign bit alone. -/
theorem eq_two_pow_mag_of_decodeNum_negZero {F : Fmt} {c : Nat} (hc : c < 2 ^ (F.mag + 1))
    (hz : isZero (decodeNum F c) = true) (hs : signOf (decodeNum F c) = true) : c = 2 ^ F.mag := by
  obtain ⟨he, hf⟩ := fields_eq_zero_of_isZero_decodeNum hz
  exact eq_two_pow_mag_of_fields hc (bit_mag_of_signOf_decodeNum hs) he hf

/-- SDX8G has no -0: its code would be 0x80, which is NaN (R78). -/
theorem decodeNum_sdx8G_not_negZero {c : Nat} (hc : c < 256) :
    ¬ (isZero (decodeNum fSdx8G c) = true ∧ signOf (decodeNum fSdx8G c) = true) := by
  rintro ⟨hz, hs⟩
  obtain rfl : c = 0x80 := eq_two_pow_mag_of_decodeNum_negZero hc hz hs
  rw [decodeNum_nanCode rfl] at hz
  cases hz

/-- R78: SDX8W's code 0x80 has the sign set and exponent and fraction zero. -/
theorem decodeNum_sdx8W_negZero : decodeNum fSdx8W 0x80 = .fin true 0 (-6) := by decide

/-- Settles O8: neither format has non-finite exponents, so R78's NaN code is the only exception, and in SDX8G it takes the place
of the only code of -0. -/
theorem sdx8CodesFiniteOrNaN : Obligations.Sdx8CodesFiniteOrNaN := by
  unfold Obligations.Sdx8CodesFiniteOrNaN
  refine ⟨fun c _ => ?wFinite, ?wNegZero, ?gNaN, fun c hc hne => ?gFinite, fun c hc => decodeNum_sdx8G_not_negZero hc⟩
  case wFinite => exact isNF_decodeNum_of_nf_false rfl (fun hG => absurd hG (by decide))
  case wNegZero => simp [decodeNum_sdx8W_negZero, isZero, signOf]
  case gNaN => rw [decodeNum_nanCode rfl]; rfl
  case gFinite => exact isNF_decodeNum_of_nf_false rfl (fun _ => by rwa [Nat.mod_eq_of_lt hc])

end Sys2Proof.Machine
end

section
/-!
PROOFS. The shelf windows (R32, R137): which addresses open a core's window and at which offset, and that a row ends inside it.
-/
namespace Sys2Proof.Machine

/-- The cellar and larder windows end below the shelf windows (R32). -/
theorem cellar_larder_below_shelf : 128 * stackSize ≤ shelfBase ∧ larderBase + 64 * larderSize ≤ shelfBase := by decide

/-- Offset o below 512 KiB of core c's shelf window decodes to that core and that offset (R32). -/
theorem regionOf_shelfWindow {c o : Nat} (hc : c < 320) (ho : o < shelfSize) :
    regionOf (shelfBase + c * shelfSize + o) = .shelf c o := by
  obtain ⟨hcellar, hlarder⟩ := cellar_larder_below_shelf
  have hend : c * shelfSize + o < 320 * shelfSize := by
    calc c * shelfSize + o < (c + 1) * shelfSize := by rw [Nat.succ_mul]; omega
      _ ≤ 320 * shelfSize := Nat.mul_le_mul_right _ hc
  have hdiv : (c * shelfSize + o) / shelfSize = c := Nat.div_eq_of_lt_le (by omega) (by rw [Nat.succ_mul]; omega)
  have hmod : (c * shelfSize + o) % shelfSize = o := Nat.mul_add_mod_of_lt ho
  rw [Nat.add_assoc, regionOf, if_neg (by omega), if_neg (by omega), if_pos (by omega), Nat.add_sub_cancel_left, hdiv, hmod]

/-- A physical row's 128 bytes end within its core's shelf window (R137). -/
theorem shelfRow_end_le_shelfSize {b r : Nat} (hb : b < 128) (hr : r < 32) : (r * 128 + b) * 128 + 128 ≤ shelfSize := by
  rw [shelfSize]; omega

/-- Settles O10: a row's address is its core's window base with the row's offset added, and the row ends inside the window. -/
theorem shelfRowsAppearInTheirWindow : Obligations.ShelfRowsAppearInTheirWindow := by
  unfold Obligations.ShelfRowsAppearInTheirWindow
  intro c b r hc hb hr
  have hend := shelfRow_end_le_shelfSize hb hr
  exact ⟨regionOf_shelfWindow hc (by omega), hend⟩

end Sys2Proof.Machine
end

section
/-!
PROOFS. STRC and STRX (R194, R195, R225): which program of a channel they act on, and that without a held one they do nothing.
-/
namespace Sys2Proof.Machine

/-- No program in CUR that STRC and STRX act on: CUR is empty, or its program is not held or is being discarded. -/
def NoHeldCur (d : Dev) (c n : Nat) : Prop :=
  ∀ p, (chan d c n).cur = some p → p.held = false ∨ p.discard = true

/-- The condition STRC and STRX test of the program in CUR. -/
theorem heldTest_eq_false_of_noHeldCur {d : Dev} {c n : Nat} {p : Prog} (hno : NoHeldCur d c n)
    (hcur : (chan d c n).cur = some p) : (p.held && !p.discard) = false := by
  rcases hno p hcur with hheld | hdiscard
  · simp [hheld]
  · simp [hdiscard]

/-- A held program in CUR is the one STRC confirms (R194, R225). -/
theorem streamConfirm_of_heldCur {d : Dev} {c n : Nat} {p : Prog} (hcur : (chan d c n).cur = some p)
    (hheld : p.held = true) (hdiscard : p.discard = false) :
    streamConfirm d c n =
      let x := runCur (releaseFar d c n p) c n { p with held := false, lateFar := none }
      putChan x.2 c n { chan x.2 c n with cur := some x.1 } := by
  simp [streamConfirm, hcur, hheld, hdiscard]

/-- A held program in CUR is the one STRX cancels (R195, R225). -/
theorem streamCancel_of_heldCur {d : Dev} {c n : Nat} {p : Prog} (hcur : (chan d c n).cur = some p)
    (hheld : p.held = true) (hdiscard : p.discard = false) :
    streamCancel d c n = putChan d c n { chan d c n with cur := some (cancelled p) } := by
  simp [streamCancel, hcur, hheld, hdiscard]

/-- Without a held program in CUR, STRC goes by NEXT alone: it confirms a held one there and otherwise does nothing. -/
theorem streamConfirm_of_noHeldCur {d : Dev} {c n : Nat} (hno : NoHeldCur d c n) :
    streamConfirm d c n = (chan d c n).next.elim d fun q =>
      if q.held then
        releaseFar (putChan d c n { chan d c n with next := some { q with held := false, lateFar := none } }) c n q
      else d := by
  cases hcur : (chan d c n).cur with
  | none => cases hnext : (chan d c n).next <;> simp [streamConfirm, hcur, hnext]
  | some p =>
    have htest := heldTest_eq_false_of_noHeldCur hno hcur
    cases hnext : (chan d c n).next <;> simp [streamConfirm, hcur, hnext, htest]

/-- Without a held program in CUR, STRX goes by NEXT alone: it cancels a held one there and otherwise does nothing. -/
theorem streamCancel_of_noHeldCur {d : Dev} {c n : Nat} (hno : NoHeldCur d c n) :
    streamCancel d c n = (chan d c n).next.elim d fun q =>
      if q.held then putChan d c n { chan d c n with next := some (cancelled q) } else d := by
  cases hcur : (chan d c n).cur with
  | none => cases hnext : (chan d c n).next <;> simp [streamCancel, hcur, hnext]
  | some p =>
    have htest := heldTest_eq_false_of_noHeldCur hno hcur
    cases hnext : (chan d c n).next <;> simp [streamCancel, hcur, hnext, htest]

/-- A choice by NEXT that leaves the device as it is for an ordinary program does so when NEXT holds none. -/
theorem next_elim_of_noHeldNext {d : Dev} {c n : Nat} (f : Prog → Dev)
    (hno : ∀ q, (chan d c n).next = some q → q.held = false) :
    ((chan d c n).next.elim d fun q => if q.held then f q else d) = d := by
  cases hnext : (chan d c n).next with
  | none => rfl
  | some q => simp [hno q hnext]

/-- Settles O33, by where the held program is: in CUR, else in NEXT, else nowhere. -/
theorem confirmAndCancelNeedAHeldProgram : Obligations.ConfirmAndCancelNeedAHeldProgram := by
  unfold Obligations.ConfirmAndCancelNeedAHeldProgram
  intro d c n
  refine ⟨?inCur, ?inNext, ?nowhere⟩
  case inCur =>
    intro p hcur hheld hdiscard
    refine ⟨?_, streamCancel_of_heldCur hcur hheld hdiscard⟩
    rintro x rfl
    exact streamConfirm_of_heldCur hcur hheld hdiscard
  case inNext =>
    intro q hno hnext hheld
    rw [streamConfirm_of_noHeldCur hno, streamCancel_of_noHeldCur hno]
    simp [hnext, hheld]
  case nowhere =>
    intro hno hnext
    rw [streamConfirm_of_noHeldCur hno, streamCancel_of_noHeldCur hno]
    exact ⟨next_elim_of_noHeldNext _ hnext, next_elim_of_noHeldNext _ hnext⟩

end Sys2Proof.Machine
end

section
/-!
PROOFS. The caps (R432): what a write of a cap register does to its register, and when an access over BAR0 or SMBus carries it out.
-/
namespace Sys2Proof.Machine
open Safety

/-- R432: a value outside 600 to 1,800 leaves the module as it is. -/
theorem capWrite_of_outOfRange {a v : Nat} {f : Fld} {d : Dev} (hv : v < 600 ∨ 1800 < v) : capWrite a f v d = d := by
  rw [capWrite, if_pos hv]

/-- R432: a value of 600 to 1,800 is stored, with the consequences of a new cap where that changes P_cap. -/
theorem capWrite_of_inRange {a v : Nat} {f : Fld} {d : Dev} (hv : 600 ≤ v ∧ v ≤ 1800) :
    capWrite a f v d = if pCap (setF d a f v) = pCap d then setF d a f v else capChanged (setF d a f v) := by
  rw [capWrite, if_neg (by omega)]

/-- A field write leaves every other register alone. -/
theorem getR_setF_ne {a b v : Nat} {f : Fld} {d : Dev} (h : b ≠ a) : getR (setF d a f v) b = getR d b :=
  getR_setR_ne d _ h

/-- A field write leaves every byte of memory alone. -/
theorem sameMem_setF (d : Dev) (a : Nat) (f : Fld) (v : Nat) : sameMem d (setF d a f v) :=
  readByte_congr (setF_mem d a f v)

/-- A field of 11 bits takes every value that a cap register accepts. -/
theorem getF_setF_cap {a v : Nat} {d : Dev} (hv : v ≤ 1800) : getF (setF d a ⟨0, 11⟩ v) a ⟨0, 11⟩ = v :=
  (getF_setF_self d a ⟨0, 11⟩ v (by decide)).trans (Nat.mod_eq_of_lt (show v < 2 ^ 11 by omega))

/-- A served word write has its effect (R474). -/
theorem barWrite_of_barOk {a : Nat} {f : Dev → Dev} {d : Dev} (h : barOk d a 4 = true) : barWrite a f d = f d := by
  rw [barWrite, if_pos h]

/-- A word write without effect changes nothing, served or not. -/
theorem barWrite_eq_self {a : Nat} {f : Dev → Dev} {d : Dev} (h : f d = d) : barWrite a f d = d := by
  rw [barWrite, h, ite_self]

/-- An SMBus write with its PEC has its effect from stage 3 on (R487; log 55). -/
theorem smWrite_of_validPec {code : Nat} {bs : List Nat} {f : Dev → Dev} {d : Dev} (h : smFull d = true) :
    smWrite code bs (crc8 ([smAddr d, code] ++ bs)) f d = f d := by
  rw [smWrite, if_pos h, if_pos rfl]

/-- An SMBus write without effect changes nothing, whatever its PEC, unless the ROM answers it with a NACK (R528, R529). -/
theorem smWrite_eq_self {code pec : Nat} {bs : List Nat} {f : Dev → Dev} {d : Dev} (h : f d = d) (hrom : smRom d ≠ true) :
    smWrite code bs pec f d = d := by
  rw [smWrite, h, ite_self, if_neg hrom, ite_self]

/-- HOST_CAP_WRITE is a write over BAR0. -/
theorem exec_hostCapWrite (v : Nat) (s : State) :
    exec (.hostCapWrite v) s = act s (barWrite PWR_CAP_HOST (capWrite PWR_CAP_HOST PWR_CAP_HOST_CAP v)) := rfl

/-- CAP_WRITE is a write of two bytes over SMBus. -/
theorem exec_capWrite (v pec : Nat) (s : State) :
    exec (.capWrite v pec) s =
      act s (smWrite 0x20 (bytesOf 2 v) pec (capWrite PWR_CAP_BMC PWR_CAP_BMC_CAP (v % 2 ^ 16))) := rfl

/-- Settles O51: the accepting clauses by writing the field, the last by a write that the register ignores. -/
theorem effectiveCapIsTheLowerRegister : Obligations.EffectiveCapIsTheLowerRegister := by
  unfold Obligations.EffectiveCapIsTheLowerRegister
  intro s v
  refine ⟨?lower, ?host, ?bmc, ?ignored⟩
  case lower => exact (Nat.mul_min_mul_left 10 _ _).symm
  case host =>
    intro hserved hv
    refine ⟨setF s.dev PWR_CAP_HOST PWR_CAP_HOST_CAP v, getF_setF_cap hv.2, fun _ => getR_setF_ne, sameMem_setF _ _ _ _, ?_⟩
    rw [becomes, exec_hostCapWrite, act, barWrite_of_barOk hserved, capWrite_of_inRange hv]
  case bmc =>
    intro hfull hv
    have hword : v % 2 ^ 16 = v := Nat.mod_eq_of_lt (by omega)
    refine ⟨setF s.dev PWR_CAP_BMC PWR_CAP_BMC_CAP v, getF_setF_cap hv.2, fun _ => getR_setF_ne, sameMem_setF _ _ _ _, ?_⟩
    rw [becomes, exec_capWrite, act, smWrite_of_validPec hfull, hword, capWrite_of_inRange hv]
  case ignored =>
    intro hv
    refine ⟨?_, fun hlt pec => ?_⟩
    · rw [exec_hostCapWrite, act, barWrite_eq_self (capWrite_of_outOfRange hv)]
    · by_cases hrom : smRom s.dev = true
      · exact .inr hrom
      · rw [exec_capWrite, act, Nat.mod_eq_of_lt hlt, smWrite_eq_self (capWrite_of_outOfRange hv) hrom]
        exact .inl rfl

end Sys2Proof.Machine
end

section
/-!
PROOFS. The bundle encoding (R209, R216, R218, R222, R224): a slot word's fields read back as they were packed, a slot word that
reads as an operation is that operation's word, and a bundle is its four slot words.
-/
namespace Sys2Proof

/- Fields of a packed word -/

/-- A field of a packed slot word, as a number. -/
theorem toNat_fld_packSlot (op : Nat) (fs : List (Nat × Nat)) (lo w : Nat) :
    (fld (packSlot op fs) lo w).toNat = (fs.foldl (fun acc f => acc + f.2 <<< f.1) op % 2 ^ 32) >>> lo % 2 ^ w := by
  simp [fld, packSlot, BitVec.extractLsb'_toNat]

/-- Fields from bit 6 on leave the low six bits of a packed sum alone. -/
theorem foldl_pack_mod {fs : List (Nat × Nat)} (acc : Nat) (h : ∀ f ∈ fs, 6 ≤ f.1) :
    fs.foldl (fun acc f => acc + f.2 <<< f.1) acc % 2 ^ 6 = acc % 2 ^ 6 := by
  induction fs generalizing acc with
  | nil => rfl
  | cons f fs ih =>
    obtain ⟨hf, hfs⟩ := List.forall_mem_cons.1 h
    obtain ⟨k, hk⟩ := Nat.exists_eq_add_of_le hf
    rw [List.foldl_cons, ih _ hfs, Nat.shiftLeft_eq, hk, Nat.pow_add, Nat.mul_left_comm, Nat.add_mul_mod_self_left]

/-- A packed word whose fields lie above its opcode has that opcode. -/
theorem opcode_packSlot {op : Nat} {fs : List (Nat × Nat)} (hop : op < 64) (h : ∀ f ∈ fs, 6 ≤ f.1) :
    (fld (packSlot op fs) 0 6).toNat = op := by
  rw [toNat_fld_packSlot, Nat.shiftRight_zero, Nat.mod_mod_of_dvd _ (by decide : 2 ^ 6 ∣ 2 ^ 32), foldl_pack_mod op h]
  exact Nat.mod_eq_of_lt hop

/- The four slots: the opcode of an operation's word selects its row of the table, whose fields are then read back one by one. -/

theorem MatOp.raw_toWord (o : MatOp) : MatOp.raw o.toWord = some o := by
  cases o with
  | nop => rfl
  | _ =>
    rw [MatOp.toWord, MatOp.raw, opcode_packSlot (by decide) (by simp)]
    simp [BitVec.toNat_eq, toNat_fld_packSlot]
    omega

theorem VecFn.ofCode_code (fn : VecFn) : VecFn.ofCode fn.code = some fn := by cases fn <;> rfl

theorem VecFn.code_range (fn : VecFn) : 0 < fn.code ∧ fn.code < 64 := by cases fn <;> decide

theorem VecOp.raw_toWord (o : VecOp) : VecOp.raw o.toWord = some o := by
  cases o with
  | nop => rfl
  | op fn fmt a b d m =>
    obtain ⟨hpos, hlt⟩ := fn.code_range
    have hop : (fld (VecOp.toWord (.op fn fmt a b d m)) 0 6).toNat = fn.code := opcode_packSlot hlt (by simp)
    have hne : fld (VecOp.toWord (.op fn fmt a b d m)) 0 6 ≠ 0 := fun h => (Nat.ne_of_gt hpos) (by rw [← hop, h]; rfl)
    rw [VecOp.raw, if_neg hne, hop, VecFn.ofCode_code]
    simp [VecOp.toWord, BitVec.toNat_eq, toNat_fld_packSlot]
    omega

theorem MovOp.raw_toWord (o : MovOp) : MovOp.raw o.toWord = some o := by
  cases o with
  | nop => rfl
  | _ =>
    rw [MovOp.toWord, MovOp.raw, opcode_packSlot (by decide) (by simp)]
    simp [BitVec.toNat_eq, toNat_fld_packSlot]
    omega

theorem CtlOp.raw_toWord (o : CtlOp) : CtlOp.raw o.toWord = some o := by
  cases o with
  | nop | endc => rfl
  | _ =>
    rw [CtlOp.toWord, CtlOp.raw, opcode_packSlot (by decide) (by simp)]
    simp [BitVec.toNat_eq, toNat_fld_packSlot]
    omega

/-- A reader that refuses every word but the one its reading packs to reads a packed operation back. -/
theorem filter_raw_eq_some {α : Type} {raw : Option α} {o : α} {word : α → BitVec 32} {x : BitVec 32} (hraw : raw = some o)
    (hword : word o = x) : raw.filter (fun o => word o == x) = some o := by
  simp [hraw, hword]

/-- Such a reader's operation packs to the word it read. -/
theorem word_eq_of_filter_eq_some {α : Type} {raw : Option α} {o : α} {word : α → BitVec 32} {x : BitVec 32}
    (h : raw.filter (fun o => word o == x) = some o) : word o = x :=
  beq_iff_eq.1 (Option.filter_eq_some_iff.1 h).2

/- The bundle -/

/-- A bundle reads as the four operations its slots read as (R209). -/
theorem Bundle.ofBits_eq_some_iff {x : BitVec 128} {b : Bundle} : Bundle.ofBits x = some b ↔
    MatOp.ofWord (x.extractLsb' 0 32) = some b.mat ∧ VecOp.ofWord (x.extractLsb' 32 32) = some b.vec ∧
      MovOp.ofWord (x.extractLsb' 64 32) = some b.mov ∧ CtlOp.ofWord (x.extractLsb' 96 32) = some b.ctl := by
  obtain ⟨mat, vec, mov, ctl⟩ := b
  unfold Bundle.ofBits
  split
  · next hmat hvec hmov hctl => simp [hmat, hvec, hmov, hctl]
  · next hsome =>
    simp only [reduceCtorEq, false_iff]
    rintro ⟨hmat, hvec, hmov, hctl⟩
    exact hsome mat vec mov ctl hmat hvec hmov hctl

/-- The slots of a bundle's bits are its slot words (R209). -/
theorem Bundle.slots_toBits (b : Bundle) :
    b.toBits.extractLsb' 0 32 = b.mat.toWord ∧ b.toBits.extractLsb' 32 32 = b.vec.toWord ∧
      b.toBits.extractLsb' 64 32 = b.mov.toWord ∧ b.toBits.extractLsb' 96 32 = b.ctl.toWord := by
  have hvec : b.toBits.extractLsb' 32 32 = (b.ctl.toWord ++ b.mov.toWord ++ b.vec.toWord).extractLsb' 0 32 :=
    BitVec.extractLsb'_append_eq_of_le (w := 32) (by decide)
  have hmov : b.toBits.extractLsb' 64 32 = (b.ctl.toWord ++ b.mov.toWord).extractLsb' 0 32 :=
    (BitVec.extractLsb'_append_eq_of_le (w := 32) (by decide)).trans
      (BitVec.extractLsb'_append_eq_of_le (w := 32) (start := 32) (by decide))
  have hctl : b.toBits.extractLsb' 96 32 = (b.ctl.toWord ++ b.mov.toWord).extractLsb' 32 32 :=
    (BitVec.extractLsb'_append_eq_of_le (w := 32) (by decide)).trans
      (BitVec.extractLsb'_append_eq_of_le (w := 32) (start := 64) (by decide))
  exact ⟨BitVec.extractLsb'_append_eq_right, hvec.trans BitVec.extractLsb'_append_eq_right,
    hmov.trans BitVec.extractLsb'_append_eq_right, hctl.trans BitVec.extractLsb'_append_eq_left⟩

/-- A word of 128 bits is its four slots appended. -/
theorem append_slots (x : BitVec 128) :
    x.extractLsb' 96 32 ++ x.extractLsb' 64 32 ++ x.extractLsb' 32 32 ++ x.extractLsb' 0 32 = x := by
  rw [BitVec.extractLsb'_append_extractLsb'_eq_extractLsb' (by decide),
    BitVec.extractLsb'_append_extractLsb'_eq_extractLsb' (by decide),
    BitVec.extractLsb'_append_extractLsb'_eq_extractLsb' (by decide)]
  exact BitVec.extractLsb'_eq_self

/-- Settles O5: each slot of the bundle's bits is its operation's word, which reads back. -/
theorem bundleDecodeOfEncode : Obligations.BundleDecodeOfEncode := by
  unfold Obligations.BundleDecodeOfEncode
  intro b
  obtain ⟨hmat, hvec, hmov, hctl⟩ := b.slots_toBits
  rw [Bundle.ofBits_eq_some_iff, hmat, hvec, hmov, hctl]
  exact ⟨filter_raw_eq_some b.mat.raw_toWord rfl, filter_raw_eq_some b.vec.raw_toWord rfl,
    filter_raw_eq_some b.mov.raw_toWord rfl, filter_raw_eq_some b.ctl.raw_toWord rfl⟩

/-- Settles O6: each operation read packs to the slot it was read from, and the four slots make the word. -/
theorem bundleEncodeOfDecode : Obligations.BundleEncodeOfDecode := by
  unfold Obligations.BundleEncodeOfDecode
  intro x b h
  obtain ⟨hmat, hvec, hmov, hctl⟩ := Bundle.ofBits_eq_some_iff.1 h
  rw [Bundle.toBits, word_eq_of_filter_eq_some hmat, word_eq_of_filter_eq_some hvec, word_eq_of_filter_eq_some hmov,
    word_eq_of_filter_eq_some hctl]
  exact append_slots x

/-- Settles O7: MSPARSE, SPILL, VCVT, CNC, XADDI, BRNZ and SYNCADD are the readings of their own words; a reserved bit, and the
first opcode past each table, read as nothing. -/
theorem slotWordsReadAsTheTablesGiveThem : Obligations.SlotWordsReadAsTheTablesGiveThem := by
  unfold Obligations.SlotWordsReadAsTheTablesGiveThem
  decide

end Sys2Proof
end

section
/-!
PROOFS. The step: every command is one operation on the module that keeps its memory canonical and its queue as it is (log 1, log 3).
-/
namespace Sys2Proof.Machine

/-- Every command's meaning is an operation on the module alone, and that operation keeps memory canonical: the lemmas of Laws/Keep1
to Keep4, one for each operation. -/
theorem exec_eq_act (i : Instr) : ∃ f : Dev → Dev, (∀ s, exec i s = act s f) ∧ ∀ d : Dev, canon d.mem → canon (f d).mem := by
  cases i with
  | sentenceOrigin => exact ⟨fun d => reportDue (sentenceOrigin d), fun _ => rfl, fun d hd => by simp [hd]⟩
  | syncIncrement n => exact ⟨fun d => flushSync (syncIncrement n d), fun _ => rfl, fun d hd => by simp [hd]⟩
  | cqRecordWrite msgs => exact ⟨fun d => reportDue (cqRecordWrite msgs d), fun _ => rfl, fun d hd => by simp [hd]⟩
  | _ => exact ⟨_, fun _ => rfl, fun d hd => by simp [hd]⟩

/-- A step is such an operation on the state whose queue has lost its first command. -/
theorem step_eq_act (s : State) : ∃ f : Dev → Dev, step s = act { s with pending := s.pending.tail } f ∧
    ∀ d : Dev, canon d.mem → canon (f d).mem := by
  cases hp : s.pending with
  | nil => exact ⟨fun d => { d with now := d.now + 1 }, by simp [step, hp], fun _ hd => hd⟩
  | cons c rest =>
    obtain ⟨f, hexec, hkeep⟩ := exec_eq_act c
    exact ⟨f, by rw [Laws.step_cons c s rest hp, hexec]; rfl, hkeep⟩

/-- Settles O4. -/
theorem everyStepKeepsMemoryCanonical : Obligations.EveryStepKeepsMemoryCanonical := by
  unfold Obligations.EveryStepKeepsMemoryCanonical
  intro s t hwf hstep
  obtain ⟨f, hf, hkeep⟩ := step_eq_act s
  obtain rfl : (⟨f s.dev, s.pending.tail⟩ : State) = t := Host.Outcome.next.inj (hf.symm.trans hstep)
  exact hkeep s.dev hwf

/-- Settles O2: an operation on the module always answers a next state, and the queue is not part of the module. -/
theorem everyStepCompletesAndConsumesOneCommand : Obligations.EveryStepCompletesAndConsumesOneCommand := by
  unfold Obligations.EveryStepCompletesAndConsumesOneCommand
  refine ⟨fun i s => ?_, fun s => ?_⟩
  · obtain ⟨f, hf, -⟩ := exec_eq_act i
    exact ⟨_, hf s, rfl⟩
  · obtain ⟨f, hf, -⟩ := step_eq_act s
    exact ⟨_, hf, rfl⟩

/-- Settles O1. -/
theorem stepTakesTheFrontCommand : Obligations.StepTakesTheFrontCommand := by
  unfold Obligations.StepTakesTheFrontCommand
  exact fun c s rest => ⟨Laws.step_cons c _ rest rfl, rfl⟩

/-- Settles O3: each register read is an unlisted one, so it holds its table's reset value. -/
theorem resetRegistersAndMemory : Obligations.ResetRegistersAndMemory := by
  unfold Obligations.ResetRegistersAndMemory
  exact ⟨by decide, by decide, by decide, by decide, by decide, by decide, by decide, by decide, rfl, memWf_reset, rfl⟩

end Sys2Proof.Machine
end

section
/-!
PROOFS. The number formats (R75-R78, R85, R90): a code is its sign, exponent and fraction, and rounding the value of a code that is
not a NaN to its own format gives the code back.
-/
namespace Sys2Proof.Machine

/-- A code is its three fields (R75). -/
theorem fields_of_code {F : Fmt} {c : Nat} (hc : c < 2 ^ (F.mag + 1)) :
    b2n (bit c F.mag) <<< F.mag + (bits c F.fw F.ew <<< F.fw + bits c 0 F.fw) = c := by
  have hlt : c / 2 ^ F.mag < 2 := Nat.div_lt_of_lt_mul (by rwa [Nat.pow_succ] at hc)
  have hsign : b2n (bit c F.mag) = c / 2 ^ F.mag := by
    rcases Nat.le_one_iff_eq_zero_or_eq_one.1 (Nat.le_of_lt_succ hlt) with h | h <;>
      simp [bit, bits, b2n, Nat.shiftRight_eq_div_pow, h]
  have hmag : bits c F.fw F.ew <<< F.fw + bits c 0 F.fw = c % 2 ^ F.mag := by
    rw [Fmt.mag, Nat.add_comm F.ew, Nat.pow_add, Nat.mod_mul, bits, bits, Nat.shiftRight_eq_div_pow, Nat.shiftLeft_eq,
      Nat.shiftRight_zero, Nat.mul_comm, Nat.add_comm]
  rw [hsign, hmag, Nat.shiftLeft_eq, Nat.mul_comm, Nat.div_add_mod]

/-- The value of a code that is not a NaN, by its exponent: an infinity, a subnormal or a normal number (R76, R77). -/
theorem decodeNum_of_not_nan {F : Fmt} {c : Nat} (h : isNaN (decodeNum F c) = false) :
    (F.nf = true ∧ bits c F.fw F.ew = 2 ^ F.ew - 1 ∧ bits c 0 F.fw = 0 ∧ decodeNum F c = .inf (bit c F.mag)) ∨
    (bits c F.fw F.ew = 0 ∧ decodeNum F c = .fin (bit c F.mag) (bits c 0 F.fw) (1 - (F.bias : Int) - F.fw)) ∨
    (0 < bits c F.fw F.ew ∧ (F.nf = true → bits c F.fw F.ew < 2 ^ F.ew - 1) ∧
      decodeNum F c = .fin (bit c F.mag) (2 ^ F.fw + bits c 0 F.fw) ((bits c F.fw F.ew : Int) - F.bias - F.fw)) := by
  have hlt : bits c F.fw F.ew < 2 ^ F.ew := Nat.mod_lt _ (Nat.two_pow_pos _)
  by_cases hG : F.isG = true ∧ c % 256 = 0x80
  · simp [decodeNum, hG, isNaN] at h
  by_cases hexp : F.nf = true ∧ bits c F.fw F.ew = 2 ^ F.ew - 1
  · by_cases hf : bits c 0 F.fw = 0
    · exact .inl ⟨hexp.1, hexp.2, hf, by simp [decodeNum, hG, hexp, hf]⟩
    · simp [decodeNum, hG, hexp, hf, isNaN] at h
  by_cases he : bits c F.fw F.ew = 0
  · exact .inr (.inl ⟨he, by rw [he] at hexp; simp [decodeNum, hG, hexp, he]⟩)
  · exact .inr (.inr ⟨Nat.pos_of_ne_zero he, fun hnf => Nat.lt_of_le_of_ne (Nat.le_sub_one_of_lt hlt) (fun h => hexp ⟨hnf, h⟩),
      by simp [decodeNum, hG, hexp, he]⟩)

/-- A number below a power of two has its logarithm at most the exponent. -/
theorem log2_le_of_lt {n k : Nat} (h : n < 2 ^ k) : Nat.log2 n ≤ k := by
  rcases Nat.eq_zero_or_pos n with rfl | hn
  · simp
  · exact Nat.le_of_lt ((Nat.log2_lt (Nat.ne_of_gt hn)).2 h)

/-- A value whose last place is the grid's is rounded to itself. -/
theorem roundGrid_of_onGrid {r : Rnd} {fw m : Nat} {emin e : Int} (h : max (e + (Nat.log2 m : Int)) emin = e + fw) :
    roundGrid r fw emin m e = (m, e) := by
  simp [roundGrid, h]

/-- A value whose last place is the grid's, and whose magnitude fits, has that magnitude under its sign for its code. -/
theorem encodeNum_of_onGrid {F : Fmt} {r : Rnd} {s : Bool} {m k : Nat} {e : Int}
    (hgrid : max (e + (Nat.log2 m : Int)) (1 - (F.bias : Int)) = e + F.fw)
    (hmag : (if m = 0 then 0 else ((e + F.fw + F.bias).toNat <<< F.fw) + m - 2 ^ F.fw) = k)
    (hfit : if F.nf then k ≤ (2 ^ F.ew - 1) <<< F.fw else k ≤ 0x7F) (hzero : F.isG = true → k = 0 → s = false) :
    encodeNum F r (.fin s m e) = b2n s <<< F.mag + k := by
  have hmin : (if F.nf then min k ((2 ^ F.ew - 1) <<< F.fw) else min k 0x7F) = k := by
    split at hfit
    · next hnf => rw [if_pos hnf, Nat.min_eq_left hfit]
    · next hnf => rw [if_neg hnf, Nat.min_eq_left hfit]
  simp only [encodeNum, roundGrid_of_onGrid hgrid, hmag, hmin]
  split
  · next h =>
    obtain ⟨rfl, hG⟩ : k = 0 ∧ F.isG = true := by simpa using h
    simp [hzero hG rfl, b2n]
  · rfl

/-- R76, R85: rounding the value of a code that is not a NaN gives the code. An 8-bit format has no infinities, and in SDX8G the
code of -0 is its NaN. -/
theorem encodeNum_decodeNum {F : Fmt} {c : Nat} (hc : c < 2 ^ (F.mag + 1)) (hnan : isNaN (decodeNum F c) = false)
    
    (hew : F.nf = true → 1 < F.ew) (hbyte : F.nf = false → F.mag = 7) (hG : F.isG = true → F.mag = 7) : encodeNum F .rne (decodeNum F c) = c := by
  have hcode := fields_of_code hc
  have hfrac : bits c 0 F.fw < 2 ^ F.fw := Nat.mod_lt _ (Nat.two_pow_pos _)
  have hexp : bits c F.fw F.ew < 2 ^ F.ew := Nat.mod_lt _ (Nat.two_pow_pos _)
  have hfit : (F.nf = true → bits c F.fw F.ew < 2 ^ F.ew - 1) →
      if F.nf then bits c F.fw F.ew <<< F.fw + bits c 0 F.fw ≤ (2 ^ F.ew - 1) <<< F.fw
        else bits c F.fw F.ew <<< F.fw + bits c 0 F.fw ≤ 0x7F := by
    intro hfin
    simp only [Nat.shiftLeft_eq]
    split
    · next hnf =>
      calc _ ≤ (bits c F.fw F.ew + 1) * 2 ^ F.fw := by rw [Nat.succ_mul]; omega
        _ ≤ _ := Nat.mul_le_mul_right _ (hfin hnf)
    · next hnf =>
      have hle : (bits c F.fw F.ew + 1) * 2 ^ F.fw ≤ 2 ^ F.mag := by
        rw [Fmt.mag, Nat.pow_add]; exact Nat.mul_le_mul_right _ hexp
      rw [hbyte (by simpa using hnf), Nat.succ_mul] at hle
      omega
  have hsign : F.isG = true → bits c F.fw F.ew <<< F.fw + bits c 0 F.fw = 0 → bit c F.mag = false := by
    intro hisG hzero
    rw [hzero, hG hisG] at hcode
    rw [hG hisG]
    refine Bool.eq_false_iff.mpr fun hs => ?_
    obtain rfl : c = 0x80 := by simpa [hs, b2n] using hcode.symm
    simp [decodeNum_nanCode hisG, isNaN] at hnan
  rcases decodeNum_of_not_nan hnan with ⟨hnf, he, hf, h⟩ | ⟨he, h⟩ | ⟨hpos, hfin, h⟩
  · rw [h]
    simpa [encodeNum, hnf, he, hf] using hcode
  · rw [he] at hcode hfit hsign
    have hlog : (Nat.log2 (bits c 0 F.fw) : Int) ≤ F.fw := by
      exact_mod_cast log2_le_of_lt hfrac
    rw [h, encodeNum_of_onGrid (k := 0 <<< F.fw + bits c 0 F.fw) (by omega) ?_ (hfit fun hnf => ?_) hsign]
    · exact hcode
    · have hone : ((1 - (F.bias : Int) - F.fw) + F.fw + F.bias).toNat = 1 := by omega
      rw [hone, Nat.one_shiftLeft, Nat.add_sub_cancel_left, Nat.zero_shiftLeft, Nat.zero_add]
      split
      · next hz => exact hz.symm
      · rfl
    · have := Nat.one_lt_two_pow (n := F.ew) (by have := hew hnf; omega)
      omega
  · have hlog : Nat.log2 (2 ^ F.fw + bits c 0 F.fw) = F.fw := by
      rw [Nat.log2_eq_iff (by omega), Nat.pow_succ]; omega
    rw [h, encodeNum_of_onGrid (k := bits c F.fw F.ew <<< F.fw + bits c 0 F.fw) (by rw [hlog]; omega) ?_ (hfit hfin) hsign]
    · exact hcode
    · have hexp' : ((bits c F.fw F.ew : Int) - F.bias - F.fw + F.fw + F.bias).toNat = bits c F.fw F.ew := by omega
      rw [if_neg (by omega), hexp', Nat.add_left_comm, Nat.add_sub_cancel_left]

/-- Settles O9: the three wide formats have non-finite exponents; the two 8-bit formats have codes of 8 bits and no NaN but SDX8G's. -/
theorem formatsEncodeWhatTheyDecode : Obligations.FormatsEncodeWhatTheyDecode := by
  unfold Obligations.FormatsEncodeWhatTheyDecode
  refine ⟨fun F hF c hc hnan => ?_, fun c hc => ?_, fun c hc hne => ?_⟩
  · simp only [List.mem_cons, List.not_mem_nil, or_false] at hF
    rcases hF with rfl | rfl | rfl <;>
      exact encodeNum_decodeNum hc hnan (by decide) (by decide) (by decide)
  · have hfin := isNF_decodeNum_of_nf_false (F := fSdx8W) (c := c) rfl (fun hG => absurd hG (by decide))
    exact encodeNum_decodeNum hc (Bool.or_eq_false_iff.1 hfin).1 (by decide) (by decide) (by decide)
  · have hfin := isNF_decodeNum_of_nf_false (F := fSdx8G) (c := c) rfl (fun _ => by rwa [Nat.mod_eq_of_lt hc])
    exact encodeNum_decodeNum hc (Bool.or_eq_false_iff.1 hfin).1 (by decide) (by decide) (by decide)

end Sys2Proof.Machine
end

section
/-!
PROOFS. Handles (R150, R151): where the physical indices of a well-formed handle lie.
-/
namespace Sys2Proof.Machine

/-- What R151 asks of a valid entry's extent: whole banks and rows of the shelf and of its partition, and room for every logical row. -/
theorem extent_of_hWf {h lo hi : Nat} (hv : hValid h = true) (hwf : hWf h lo hi = true) :
    1 ≤ hBankCount h ∧ hBankBase h + hBankCount h ≤ 128 ∧ hLen h * hW h ≤ hBankCount h * hRowCount h ∧
      lo ≤ hRowBase h ∧ hRowBase h + hRowCount h ≤ hi := by
  simp only [hWf, hv, Bool.not_true, Bool.false_or, Bool.and_eq_true, decide_eq_true_eq] at hwf
  omega

/-- Index j of logical row q lies below the handle's physical rows. -/
theorem index_lt_extent {w q j len : Nat} (hq : q < len) (hj : j < w) : w * q + j < len * w := by
  calc w * q + j < w * (q + 1) := by rw [Nat.mul_succ]; omega
    _ ≤ w * len := Nat.mul_le_mul_left _ hq
    _ = len * w := Nat.mul_comm _ _

/-- An index within the extent of a handle inside the shelf needs no wrap (R150). -/
theorem hLoc_of_lt {h i : Nat} (hcount : 1 ≤ hBankCount h) (hbank : hBankBase h + hBankCount h ≤ 128)
    (hrow : hRowBase h + hRowCount h ≤ 32) (hi : i < hBankCount h * hRowCount h) :
    hLoc h i = (hBankBase h + i % hBankCount h, hRowBase h + i / hBankCount h) := by
  have hmod : i % hBankCount h < hBankCount h := Nat.mod_lt _ hcount
  have hdiv : i / hBankCount h < hRowCount h := Nat.div_lt_of_lt_mul hi
  simp only [hLoc, Nat.max_eq_left hcount]
  rw [Nat.mod_eq_of_lt (show hBankBase h + i % hBankCount h < 128 by omega),
    Nat.mod_eq_of_lt (show hRowBase h + i / hBankCount h < 32 by omega)]

/-- Settles O11. -/
theorem handleIndicesStayInTheirPartition : Obligations.HandleIndicesStayInTheirPartition := by
  unfold Obligations.HandleIndicesStayInTheirPartition
  intro h lo hi q j hv hwf h32 hq hj
  obtain ⟨hcount, hbank, hroom, hlo, hhi⟩ := extent_of_hWf hv hwf
  have hi' : hW h * q + j < hBankCount h * hRowCount h := Nat.lt_of_lt_of_le (index_lt_extent hq hj) hroom
  have hmod : (hW h * q + j) % hBankCount h < hBankCount h := Nat.mod_lt _ hcount
  have hdiv : (hW h * q + j) / hBankCount h < hRowCount h := Nat.div_lt_of_lt_mul hi'
  rw [hLoc_of_lt hcount hbank (by omega) hi']
  exact ⟨rfl, Nat.lt_of_lt_of_le (Nat.add_lt_add_left hmod _) hbank, Nat.le_add_right_of_le hlo,
    Nat.lt_of_lt_of_le (Nat.add_lt_add_left hdiv _) hhi⟩

end Sys2Proof.Machine
end

section
/-!
PROOFS. How a command's statement follows from the operation on the module that is its meaning.
-/
namespace Sys2Proof.Machine
open Safety

/-- A command whose operation gives d makes the module d. -/
theorem becomes_of_act {i : Instr} {s : State} {f : Dev → Dev} {d : Dev} (hexec : exec i s = act s f) (h : f s.dev = d) :
    becomes i s d := by
  rw [becomes, hexec, ← h]; rfl

/-- A command whose operation gives a module with property P answers such a module. -/
theorem answers_of_act {i : Instr} {s : State} {f : Dev → Dev} {P : Dev → Prop} (hexec : exec i s = act s f) (h : P (f s.dev)) :
    answers i s P :=
  ⟨_, hexec, rfl, h⟩

/-- A command whose operation does nothing leaves the whole state as it is. -/
theorem exec_eq_self_of_act {i : Instr} {s : State} {f : Dev → Dev} (hexec : exec i s = act s f) (h : f s.dev = s.dev) :
    exec i s = .next s := by
  rw [hexec, act, h]

/-- Two modules with the same memory read the same bytes. -/
theorem sameMem_of_mem_eq {d e : Dev} (h : e.mem = d.mem) : sameMem d e := readByte_congr h

end Sys2Proof.Machine
end

section
/-!
PROOFS. What an event's record leaves (R452): the registers read as before, and a step-scope event of no filler turns the step to RERUN.
-/
namespace Sys2Proof.Machine

theorem getR_report (d : Dev) (e : Ev) (a : Nat) : getR (report d e) a = getR d a := getR_congr (report_regs d e) a

theorem getF_report (d : Dev) (e : Ev) (a : Nat) (f : Fld) : getF (report d e) a f = getF d a f := by rw [getF, getF, getR_report]

theorem getB_report (d : Dev) (e : Ev) (a : Nat) (f : Fld) : getB (report d e) a f = getB d a f := by rw [getB, getB, getF_report]

/-- A step-scope event outside a filler is a RERUN cause of the step in progress. -/
theorem rerunStep_report {d : Dev} {e : Ev} (hfill : e.filler = false) (hscope : e.scope = .step) :
    (report d e).rerunStep = (d.rerunStep || d.inStep) := by
  unfold report
  dsimp only
  rw [hfill, if_neg Bool.false_ne_true, hscope]
  split <;> rfl

/-- An event takes back no RERUN cause. -/
theorem rerunStep_report_of {d : Dev} (e : Ev) (h : d.rerunStep = true) : (report d e).rerunStep = true := by
  have hraise : ∀ (x : Dev) s, x.rerunStep = true → (raiseRerun x s).rerunStep = true := by
    intro x s hx
    cases s with
    | none | update => exact hx
    | step => exact (congrArg (· || x.inStep) hx).trans (Bool.true_or _)
  unfold report
  dsimp only
  split
  · split <;> exact h
  · split <;> exact hraise _ _ h

end Sys2Proof.Machine
end

section
/-!
PROOFS. Register writes over BAR0 (R9-R11, R474): LOCK bits are only ever set, and a plain register takes its writable fields.
-/
namespace Sys2Proof.Machine
open Safety

/-- An access that BAR0 does not serve changes nothing (R474). -/
theorem registerWrite_of_refused {a size v : Nat} {d : Dev} (h : barOk d a size = false) : registerWrite a size v d = d := by
  simp [registerWrite, h]

/-- Setting the bit of one LOCK register keeps a set bit of any. -/
theorem lock_setB_lock {d : Dev} {a l : Nat} (h : getB d l MOD_LOCK_LOCK = true) :
    getB (setB d a MOD_LOCK_LOCK true) l MOD_LOCK_LOCK = true := by
  by_cases hl : l = a
  · subst hl; exact getB_setB_self d l _ true (by decide) (by decide)
  · rw [getB_setB_reg _ _ _ _ hl, h]

/-- A write of a LOCK register keeps a set bit (R11). -/
theorem lock_registerWrite {d : Dev} {l size v : Nat} (hl : isLock l = true) (h : getB d l MOD_LOCK_LOCK = true) :
    getB (registerWrite l size v d) l MOD_LOCK_LOCK = true := by
  unfold registerWrite regWrite
  rw [if_pos hl]
  split
  · split
    · exact lock_setB_lock h
    · exact h
  · exact h

/-- LOCK_WRITE keeps every set LOCK bit (R11). -/
theorem lock_lockWrite {d : Dev} {a v l : Nat} (h : getB d l MOD_LOCK_LOCK = true) : getB (lockWrite a v d) l MOD_LOCK_LOCK = true := by
  unfold lockWrite
  split
  · exact lock_setB_lock h
  · exact h

/-- Settles O17. -/
theorem lockBitsAreNeverClearedByAWrite : Obligations.LockBitsAreNeverClearedByAWrite := by
  unfold Obligations.LockBitsAreNeverClearedByAWrite
  intro s a size v l hl hset
  exact ⟨answers_of_act rfl ⟨lock_registerWrite hl hset, sameMem_of_mem_eq (registerWrite_mem _ _ _ _)⟩,
    answers_of_act rfl ⟨lock_lockWrite hset, sameMem_of_mem_eq (lockWrite_mem _ _ _)⟩⟩

/-- HIF_DBG_BASE is a register without an effect of its own: a write goes by its access codes alone. -/
theorem regWrite_dbgBase (v : Nat) (d : Dev) : regWrite HIF_DBG_BASE v d = plainWrite d HIF_DBG_BASE v := rfl

/-- R490: HIF_DBG_BASE has one field, BASE, which software writes. -/
theorem regRowAt_dbgBase : regRowAt HIF_DBG_BASE = some ⟨HIF_DBG_BASE, [], [(HIF_DBG_BASE_BASE, .rw)], 0⟩ := rfl

/-- A write of HIF_DBG_BASE replaces BASE. -/
theorem plainWrite_dbgBase (v : Nat) (d : Dev) :
    plainWrite d HIF_DBG_BASE v = setR d HIF_DBG_BASE (insBits (getR d HIF_DBG_BASE) 0 19 (bits v 0 19)) := by
  rw [plainWrite, regRowAt_dbgBase]
  rfl

/-- The lowest field of a number that has no bits above it is the whole number. -/
theorem insBits_low_of_lt {x w v : Nat} (hx : x < 2 ^ w) : insBits x 0 w v = v % 2 ^ w := by
  simp [insBits, Nat.shiftRight_eq_div_pow, Nat.div_eq_of_lt hx, Nat.mod_one]

/-- Settles O18. -/
theorem registerWritesFollowTheirAccessCodes : Obligations.RegisterWritesFollowTheirAccessCodes := by
  unfold Obligations.RegisterWritesFollowTheirAccessCodes
  intro s v hserved hclean
  have hwrite : registerWrite HIF_DBG_BASE 4 v s.dev = setR s.dev HIF_DBG_BASE (v % 2 ^ 19) := by
    rw [registerWrite, if_pos hserved, regWrite_dbgBase, plainWrite_dbgBase, insBits_low_of_lt hclean, bits, Nat.shiftRight_zero,
      Nat.mod_mod]
  refine ⟨⟨⟨registerWrite HIF_DBG_BASE 4 v s.dev, s.pending⟩, rfl, rfl, ?_⟩,
    fun a size hrefused => exec_eq_self_of_act rfl (registerWrite_of_refused hrefused)⟩
  dsimp only
  rw [hwrite]
  exact ⟨by rw [getR_setR_self]; omega, fun a ha => getR_setR_ne _ _ ha, sameMem_of_mem_eq (setR_mem _ _ _)⟩

end Sys2Proof.Machine
end

section
/-!
PROOFS. The completion ring (R483-R485, R490): a record written where there is room, and what writes of the ring's registers do.
-/
namespace Sys2Proof.Machine
open Safety

/-- Taking in a waiting record changes the record lists only. -/
theorem cqAdmit_frame (d : Dev) : (cqAdmit d).regs = d.regs ∧ (cqAdmit d).out = d.out ∧ (cqAdmit d).cqPhase = d.cqPhase ∧
    (cqAdmit d).doeHeld = d.doeHeld := by
  unfold cqAdmit
  repeat' split
  all_goals exact ⟨rfl, rfl, rfl, rfl⟩

/-- R483, R484: the oldest record goes out at TAIL with the phase of the lap, TAIL moves on, and the phase flips where it wraps. -/
theorem cqWrite_spec {d : Dev} {r : CqRec} {rest : List CqRec} (hq : d.cqQueue = r :: rest) :
    (cqWrite d).out = d.out ++ [.hostWrite (get64 d HIF_CQ_BASE_LO HIF_CQ_BASE_HI + 32 * getF d HIF_CQ_TAIL HIF_CQ_TAIL_TAIL) 32
        (cqBytes r d.cqPhase)] ∧
      getF (cqWrite d) HIF_CQ_TAIL HIF_CQ_TAIL_TAIL = (getF d HIF_CQ_TAIL HIF_CQ_TAIL_TAIL + 1) % cqSize d % 2 ^ 16 ∧
      (cqWrite d).cqPhase = (if (getF d HIF_CQ_TAIL HIF_CQ_TAIL_TAIL + 1) % cqSize d = 0 then 1 - d.cqPhase else d.cqPhase) ∧
      (cqWrite d).doeHeld = d.doeHeld := by
  unfold cqWrite
  split
  · next h => rw [hq] at h; cases h
  · next r' rest' h =>
    obtain ⟨rfl, rfl⟩ : r = r' ∧ rest = rest' := by simpa [hq] using h
    dsimp only
    refine ⟨(cqAdmit_frame _).2.1, ?_, (cqAdmit_frame _).2.2.1, (cqAdmit_frame _).2.2.2⟩
    rw [getF_setF_reg _ _ _ _ (by decide), getF_setF_self _ _ _ _ (by decide)]
    rfl

/-- A report that nothing waits for is not due. -/
theorem reportDue_of_none {d : Dev} (h : d.doeHeld = none) : reportDue d = d := by
  simp [reportDue, h]

/-- CQ_RECORD_WRITE with no message due writes a record where the ring has room. -/
theorem exec_cqRecordWrite_false (s : State) :
    exec (.cqRecordWrite false) s = act s (fun d => reportDue (if cqRoom d then cqWrite d else d)) := rfl

/-- R484, R490: setting EN of a disabled ring clears both indices and sets the phase. -/
theorem cqCtlWrite_enable {d : Dev} {v : Nat} (hen : getB d HIF_CQ_CTL HIF_CQ_CTL_EN = false) (hv : bit v 0 = true) :
    getB (cqCtlWrite v d) HIF_CQ_CTL HIF_CQ_CTL_EN = true ∧ getF (cqCtlWrite v d) HIF_CQ_HEAD HIF_CQ_HEAD_HEAD = 0 ∧
      getF (cqCtlWrite v d) HIF_CQ_TAIL HIF_CQ_TAIL_TAIL = 0 ∧ (cqCtlWrite v d).cqPhase = 1 := by
  have hwrite : ∃ d1 : Dev, cqCtlWrite v d =
      setF (setF { setB d1 HIF_CQ_CTL HIF_CQ_CTL_EN true with cqPhase := 1 } HIF_CQ_HEAD HIF_CQ_HEAD_HEAD 0) HIF_CQ_TAIL HIF_CQ_TAIL_TAIL 0 :=
    ⟨_, by simp only [cqCtlWrite, hen, hv]; rfl⟩
  obtain ⟨d1, h⟩ := hwrite
  rw [h]
  refine ⟨?_, ?_, ?_, rfl⟩
  · rw [getB, getF_setF_reg _ _ _ _ (by decide), getF_setF_reg _ _ _ _ (by decide)]
    exact getB_setB_self d1 HIF_CQ_CTL HIF_CQ_CTL_EN true (by decide) (by decide)
  · rw [getF_setF_reg _ _ _ _ (by decide), getF_setF_self _ _ _ _ (by decide)]; rfl
  · rw [getF_setF_self _ _ _ _ (by decide)]; rfl

/-- R484: while EN is 1 a write keeps SIZE_LOG2. -/
theorem size_cqCtlWrite_of_enabled {d : Dev} (v : Nat) (hen : getB d HIF_CQ_CTL HIF_CQ_CTL_EN = true) :
    getF (cqCtlWrite v d) HIF_CQ_CTL HIF_CQ_CTL_SIZE_LOG2 = getF d HIF_CQ_CTL HIF_CQ_CTL_SIZE_LOG2 := by
  have hwrite : cqCtlWrite v d = setB d HIF_CQ_CTL HIF_CQ_CTL_EN (bit v 0) := by simp [cqCtlWrite, hen]
  rw [hwrite, setB, getF_setF_apart _ _ _ _ _ (by decide) (by decide)]

/-- A served write of the ring's control register, and one of either half of its base (R484). -/
theorem regWrite_cqCtl (v : Nat) (d : Dev) : regWrite HIF_CQ_CTL v d = cqCtlWrite v d := rfl

theorem regWrite_cqBase_of_enabled {a : Nat} (v : Nat) {d : Dev} (ha : a = HIF_CQ_BASE_LO ∨ a = HIF_CQ_BASE_HI)
    (hen : getB d HIF_CQ_CTL HIF_CQ_CTL_EN = true) : regWrite a v d = d := by
  have hbase : regWrite a v d = if getB d HIF_CQ_CTL HIF_CQ_CTL_EN then d else plainWrite d a v := by
    rcases ha with rfl | rfl <;> rfl
  rw [hbase, if_pos hen]

theorem registerWrite_eq_self {a size v : Nat} {d : Dev} (h : regWrite a v d = d) : registerWrite a size v d = d := by
  rw [registerWrite, h, ite_self]

/-- Settles O20. -/
theorem completionRingRecordsAndRegisters : Obligations.CompletionRingRecordsAndRegisters := by
  unfold Obligations.CompletionRingRecordsAndRegisters
  refine ⟨fun s r rest hq hheld => ⟨fun hroom => ?written, fun hroom => ?full⟩,
    fun s v => ⟨fun hserved hen => ?enable, fun hserved => ?head, fun hen => ⟨?baseLo, ?baseHi, ?size⟩⟩⟩
  case written =>
    obtain ⟨hout, htail, hphase, hdoe⟩ := cqWrite_spec hq
    refine ⟨⟨cqWrite s.dev, s.pending⟩, ?_, rfl, hout, htail, hphase, sameMem_of_mem_eq (cqWrite_mem _)⟩
    rw [exec_cqRecordWrite_false, act, if_pos hroom, reportDue_of_none (hdoe.trans hheld)]
  case full =>
    exact exec_eq_self_of_act (exec_cqRecordWrite_false s) (by rw [if_neg (by simp [hroom]), reportDue_of_none hheld])
  case enable =>
    have hset : bit (insBits (getR s.dev HIF_CQ_CTL) 0 1 1) 0 = true := by simp [bit]
    refine ⟨⟨cqEnable s.dev, s.pending⟩, ?_, rfl, cqCtlWrite_enable hen hset⟩
    change act s (barWrite HIF_CQ_CTL cqEnable) = _
    rw [act, barWrite_of_barOk hserved]
  case head => exact becomes_of_act rfl (barWrite_of_barOk hserved)
  case baseLo => exact exec_eq_self_of_act rfl (registerWrite_eq_self (regWrite_cqBase_of_enabled v (.inl rfl) hen))
  case baseHi => exact exec_eq_self_of_act rfl (registerWrite_eq_self (regWrite_cqBase_of_enabled v (.inr rfl) hen))
  case size =>
    refine ⟨⟨registerWrite HIF_CQ_CTL 4 v s.dev, s.pending⟩, rfl, rfl, ?_⟩
    dsimp only
    rw [registerWrite, regWrite_cqCtl]
    split
    · exact size_cqCtlWrite_of_enabled v hen
    · rfl

end Sys2Proof.Machine
end

section
/-!
PROOFS. BAR2 and the PCIe function's events (R474-R478): the pantry and the windows, D3hot, and errors reported through AER.
-/
namespace Sys2Proof.Machine
open Safety

/-- A byte of a table of bytes just written. -/
theorem get_putBytes_in {m : Tbl Byte} {a n v x : Nat} (h : a ≤ x ∧ x < a + n) :
    Tbl.get (putBytes m a n v) x 0 = BitVec.ofNat 8 (v >>> (8 * (x - a))) :=
  readByte_writeMem_in { mem := m } v h

/-- A write of bytes leaves every other byte of the table alone. -/
theorem get_putBytes_out {m : Tbl Byte} {a n v x : Nat} (h : x < a ∨ a + n ≤ x) :
    Tbl.get (putBytes m a n v) x 0 = Tbl.get m x 0 :=
  readByte_writeMem_out { mem := m } v h

/-- R475: a write inside the pantry stores its bytes there. -/
theorem debugWrite_pantry {d : Dev} {a n v : Nat} (hready : isReady d = true) (hlink : linkOpen d = true) (hin : a + n ≤ 0x40000)
    (hn : 0 < n) : debugWrite a n v d = { d with pantry := putBytes d.pantry a n v } := by
  rw [debugWrite, if_neg (by simp [hready, hlink]), if_pos (by omega), Nat.min_eq_left (by omega)]

/-- R475: a read inside the pantry answers its bytes. -/
theorem debugRead_pantry {d : Dev} {a n : Nat} (hready : isReady d = true) (hlink : linkOpen d = true) (hin : a + n ≤ 0x40000)
    (hn : 0 < n) : debugRead a n d = answerRead d (bytesAt d.pantry a n) := by
  rw [debugRead, if_neg (by simp [hready, hlink]), if_pos (by omega), Nat.min_eq_left (by omega)]

/-- R454, R475: a read inside the log window answers its bytes. -/
theorem debugRead_log {d : Dev} {a n : Nat} (hready : isReady d = true) (hlink : linkOpen d = true) (hlo : 0x100000 ≤ a)
    (hin : a + n ≤ 0x180000) (hn : 0 < n) : debugRead a n d = answerRead d (logBytes d (a - 0x100000) n) := by
  rw [debugRead, if_neg (by simp [hready, hlink]), if_neg (by omega), if_pos (by omega), Nat.min_eq_left (by omega)]

/-- R474: between the log window and the debug window a read answers 0. -/
theorem debugRead_outside {d : Dev} {a n : Nat} (hready : isReady d = true) (hlink : linkOpen d = true) (hlo : 0x180000 ≤ a)
    (hhi : a < 0x20000000) : debugRead a n d = answerRead d 0 := by
  rw [debugRead, if_neg (by simp [hready, hlink]), if_neg (by omega), if_neg (by omega), if_neg (by omega)]

/-- Settles O21. -/
theorem debugWindowsAndPcieFunctionEvents : Obligations.DebugWindowsAndPcieFunctionEvents := by
  unfold Obligations.DebugWindowsAndPcieFunctionEvents
  refine ⟨fun s a n v x hready hlink => ⟨fun hin hn => ?write, fun hin hn => ?pantry, fun hlo hin hn => ?log, fun hlo hhi => ?outside⟩,
    fun s k => ⟨fun hready hlink => ?d3hot, fun hd3 hpins => ?d0, fun hk hon => ?error⟩⟩
  case write =>
    refine ⟨⟨debugWrite a n v s.dev, s.pending⟩, rfl, rfl, ?_⟩
    dsimp only
    rw [debugWrite_pantry hready hlink hin hn]
    exact ⟨fun _ => rfl, fun hlo hhi => get_putBytes_in ⟨hlo, hhi⟩, get_putBytes_out⟩
  case pantry => exact becomes_of_act rfl (debugRead_pantry hready hlink hin hn)
  case log => exact becomes_of_act rfl (debugRead_log hready hlink hlo hin hn)
  case outside => exact becomes_of_act rfl (debugRead_outside hready hlink hlo hhi)
  case d3hot => exact becomes_of_act rfl (by rw [d3hotEntry, hready, hlink]; rfl)
  case d0 => exact becomes_of_act rfl (by rw [d0Return, hd3, hpins]; rfl)
  case error => exact becomes_of_act rfl (by rw [pcieError, if_neg (by simp [hon]; omega)])

end Sys2Proof.Machine
end

section
/-!
PROOFS. SMBus (R487, R488; log 55): reads answer with their PEC, writes with a valid PEC take effect and others are ignored.
-/
namespace Sys2Proof.Machine
open Safety

@[simp] theorem length_bytesOf (n v : Nat) : (bytesOf n v).length = n := by simp [bytesOf]

/-- From stage 3 on a word read answers its two bytes. -/
theorem smWord_of_full {code v : Nat} {d : Dev} (h : smFull d = true) : smWord code v d = smAnswer d code (bytesOf 2 v) := by
  rw [smWord, if_pos h]

/-- From stage 3 on a block read answers its count and its bytes. -/
theorem smBlock_of_full {code n : Nat} {bs : List Nat} {d : Dev} (h : smFull d = true) (hn : bs.length = n) :
    smBlock code bs d = smAnswer d code (n :: bs) := by
  rw [smBlock, if_pos h, hn]

/-- The bytes of ID of a module whose fuse words pass their check (R488). -/
theorem smId_of_full {d : Dev} (h : smFull d = true) (hfuse : d.boot.fuseBad = false) :
    smId d = smAnswer d 0x40 (32 :: (bytesOf 8 Config.deviceId ++ (ascii "OZW2-128-A" ++ List.replicate 6 0) ++
      [getF d FAB_LEVEL FAB_LEVEL_LINK_LEVEL, getF d FAB_LEVEL FAB_LEVEL_NUM_LEVEL, getF d SEC_LC SEC_LC_LC_FUSE] ++
      List.replicate 5 0)) := by
  have hname : (ascii "OZW2-128-A").length = 10 := by decide
  simp [smId, h, hfuse, hname]

/-- Settles O12: each read's rule where the device answers in full. -/
theorem smbusReadsAnswer : Obligations.SmbusReadsAnswer := by
  unfold Obligations.SmbusReadsAnswer
  intro s h
  refine ⟨?status, ?vin, ?pin, ?pclass, ?tmax, ?ttile, ?tstack, ?cap, ?freq, ?alert, ?response, ?id, ?plog, ?undefined⟩
  case status => exact becomes_of_act rfl (by rw [smStatus, h]; rfl)
  case vin | pin | tmax | cap | freq => exact becomes_of_act rfl (smWord_of_full h)
  case pclass => exact becomes_of_act rfl (smBlock_of_full h (by simp))
  case ttile | tstack => exact becomes_of_act rfl (smBlock_of_full h (by simp))
  case plog => exact becomes_of_act rfl (smBlock_of_full h (by simp))
  case alert => exact becomes_of_act rfl (by simp only [smAlert, h, smWord_of_full h]; rfl)
  case response => exact fun hsmb => becomes_of_act rfl (by rw [smAlertResponse, h, hsmb]; rfl)
  case id => exact fun hfuse => becomes_of_act rfl (smId_of_full h hfuse)
  case undefined => exact becomes_of_act rfl (by rw [smUndefined, h]; rfl)

/-- A write without its PEC is ignored (R487; log 55). -/
theorem smWrite_of_badPec {code pec : Nat} {bs : List Nat} {f : Dev → Dev} {d : Dev} (h : smFull d = true)
    (hpec : pec ≠ crc8 ([smAddr d, code] ++ bs)) : smWrite code bs pec f d = d := by
  rw [smWrite, if_pos h, if_neg hpec]

/-- A new cap within 600 to 1,800 that changes P_cap is followed by its consequences (R432). -/
theorem smCapWrite_of_change {v : Nat} {d : Dev} (h : smFull d = true) (hlo : 600 ≤ v) (hhi : v ≤ 1800)
    (hchange : pCap (setF d PWR_CAP_BMC PWR_CAP_BMC_CAP v) ≠ pCap d) :
    smCapWrite v (crc8 ([smAddr d, 0x20] ++ bytesOf 2 v)) d = capChanged (setF d PWR_CAP_BMC PWR_CAP_BMC_CAP v) := by
  rw [smCapWrite, smWrite_of_validPec h, Nat.mod_eq_of_lt (by omega), capWrite_of_inRange ⟨hlo, hhi⟩, if_neg hchange]

/-- STATE_REQ on a ready module (R507). -/
theorem smStateReq_of_ready {target : Nat} {d : Dev} (h : smFull d = true) (hready : isReady d = true) :
    smStateReq target (crc8 [smAddr d, 0x30, target]) d = powerSmbus target d :=
  (smWrite_of_validPec (bs := [target]) h).trans (if_pos hready)

/-- RESET_REQ of a cold reset (R500). -/
theorem smResetReq_cold {d : Dev} (h : smFull d = true) (hfree : absorbed d 1 = false) :
    smResetReq 1 0xA5 (crc8 [smAddr d, 0x31, 1, 0xA5]) d = powerOff 8 d :=
  (smWrite_of_validPec (bs := [1, 0xA5]) h).trans (by simp [hfree])

/-- RESET_REQ of a module reset (R500, R501). -/
theorem smResetReq_module {d : Dev} (h : smFull d = true) (hfree : absorbed d 3 = false) :
    smResetReq 2 0xA5 (crc8 [smAddr d, 0x31, 2, 0xA5]) d = romStart (beginWipe 3 8 d) 3 :=
  (smWrite_of_validPec (bs := [2, 0xA5]) h).trans (by simp [moduleReset, hfree])

/-- Settles O13: with the PEC of the bytes written each write has its effect, with another none. -/
theorem smbusWritesTakeEffect : Obligations.SmbusWritesTakeEffect := by
  unfold Obligations.SmbusWritesTakeEffect
  intro s v key pec h
  refine ⟨?cap, ?state, ?cold, ?module, ?plogSel, ?_, ?_, ?_, ?_, ?_, ?_, ?_⟩
  case cap => exact fun hlo hhi hchange => becomes_of_act rfl (smCapWrite_of_change h hlo hhi hchange)
  case state =>
    exact fun hready => ⟨becomes_of_act rfl (smStateReq_of_ready h hready), becomes_of_act rfl (smStateReq_of_ready h hready),
      becomes_of_act rfl (smStateReq_of_ready h hready)⟩
  case cold => rintro rfl hfree; exact becomes_of_act rfl (smResetReq_cold h hfree)
  case module => rintro rfl hfree; exact becomes_of_act rfl (smResetReq_module h hfree)
  case plogSel => exact becomes_of_act rfl (smWrite_of_validPec h)
  all_goals exact fun hpec => exec_eq_self_of_act rfl (smWrite_of_badPec h hpec)

end Sys2Proof.Machine
end

section
/-!
PROOFS. JTAG (R489; log 46): which instruction comes into force, and what holds while it drives the pins.
-/
namespace Sys2Proof.Machine
open Safety

/-- An instruction that drives no pins comes into force where none drives them (R489). -/
theorem jtagLoad_of_inward {code c : Nat} {d : Dev} (hon : d.boot.off = false) (hsession : getB d SB_JTAG SB_JTAG_SESSION = true)
    (hpins : getB d SB_JTAG SB_JTAG_PINS = false) (hc : (if jtagAllows d code then code else 0xFF) = c)
    (hinward : c ≠ 0 ∧ c ≠ 3 ∧ c ≠ 4) :
    jtagLoad code d = setB { d with jtag := { d.jtag with ir := c } } SB_JTAG SB_JTAG_DEBUG (decide (0x40 ≤ c) && decide (c < 0x50)) := by
  simp [jtagLoad, hon, hsession, hc, hinward, pinsOff, hpins]

/-- EXTEST, HIGHZ and CLAMP come into force with the pins driven (R489). -/
theorem jtagLoad_of_driving {code : Nat} {d : Dev} (hon : d.boot.off = false) (hsession : getB d SB_JTAG SB_JTAG_SESSION = true)
    (hcode : code = 0 ∨ code = 3 ∨ code = 4) (hlc : lcState d ≠ 4) (hnone : noneResident d = true) :
    jtagLoad code d = setB { (pinsOn d) with jtag := { (pinsOn d).jtag with ir := code } } SB_JTAG SB_JTAG_DEBUG false := by
  rcases hcode with rfl | rfl | rfl <;> simp [jtagLoad, jtagAllows, hon, hsession, hlc, hnone]

/-- An internal debug instruction is honoured in Blank and Returned only (Table "JTAG scope"). -/
theorem jtagAllows_debug {n : Nat} (d : Dev) (hn : n < 16) : jtagAllows d (0x40 + n) = (lcState d == 0 || lcState d == 3) := by
  have hlo : 0x40 ≤ 0x40 + n := by omega
  have hhi : 0x40 + n < 0x50 := by omega
  rw [jtagAllows, if_neg (by omega), if_neg (by omega), if_neg (by omega), decide_eq_true hlo, decide_eq_true hhi]
  rfl

/-- Releasing the pins leaves none driven. -/
theorem pinsOff_pins (d : Dev) : getB (pinsOff d) SB_JTAG SB_JTAG_PINS = false := by
  unfold pinsOff
  split
  · rw [getB, getF_setF_reg _ _ _ _ (by decide)]
    exact getB_setB_self d _ _ false (by decide) (by decide)
  · next h => simpa using h

/-- Test-Logic-Reset ends the session, its debug access and any driving of the pins, and loads IDCODE (R489; log 46). -/
theorem tlrEntry_spec {d : Dev} (hon : d.boot.off = false) : getB (tlrEntry d) SB_JTAG SB_JTAG_SESSION = false ∧
    getB (tlrEntry d) SB_JTAG SB_JTAG_DEBUG = false ∧ getB (tlrEntry d) SB_JTAG SB_JTAG_PINS = false ∧ (tlrEntry d).jtag.ir = 0x01 := by
  rw [tlrEntry, if_neg (by simp [hon])]
  refine ⟨?_, getB_setB_self _ _ _ false (by decide) (by decide), ?_, rfl⟩
  · rw [getB_setB_apart _ _ _ _ _ (by decide) (by decide)]
    exact getB_setB_self _ _ _ false (by decide) (by decide)
  · rw [getB_setB_apart _ _ _ _ _ (by decide) (by decide), getB_setB_apart _ _ _ _ _ (by decide) (by decide)]
    exact pinsOff_pins d

/-- Settles O14. -/
theorem jtagInstructionsComeIntoForce : Obligations.JtagInstructionsComeIntoForce := by
  unfold Obligations.JtagInstructionsComeIntoForce
  intro s n hon
  refine ⟨becomes_of_act rfl (by rw [tlrExit, if_neg (by simp [hon])]), ⟨_, rfl, rfl, tlrEntry_spec hon⟩,
    ⟨_, rfl, rfl, tlrEntry_spec hon⟩, fun hsession hpins => ⟨?bypass, ?idcode, ?sample, ?driving, ?debug, ?closed⟩⟩
  case bypass => exact becomes_of_act rfl (jtagLoad_of_inward (c := 0xFF) hon hsession hpins (by simp) (by decide))
  case idcode =>
    have hload := jtagLoad_of_inward (code := 0x01) (c := 0x01) hon hsession hpins (by simp [jtagAllows]) (by decide)
    refine ⟨⟨jtagIdcode s.dev, s.pending⟩, rfl, rfl, ?_⟩
    dsimp only
    rw [jtagIdcode, if_neg (by simp [hon, hsession]), hload]
    exact ⟨rfl, rfl, getB_setB_self _ _ _ false (by decide) (by decide)⟩
  case sample =>
    intro hlc
    exact becomes_of_act rfl (jtagLoad_of_inward (c := 0x02) hon hsession hpins (by simp [jtagAllows, hlc]) (by decide))
  case driving =>
    intro hlc hnone
    exact ⟨becomes_of_act rfl (jtagLoad_of_driving hon hsession (by decide) hlc hnone),
      becomes_of_act rfl (jtagLoad_of_driving hon hsession (by decide) hlc hnone),
      becomes_of_act rfl (jtagLoad_of_driving hon hsession (by decide) hlc hnone)⟩
  case debug =>
    intro hn hlc
    have hcode : (if jtagAllows s.dev (0x40 + n % 16) then 0x40 + n % 16 else 0xFF) = 0x40 + n := by
      rw [Nat.mod_eq_of_lt hn, jtagAllows_debug s.dev hn, if_pos (by simpa using hlc)]
    have hdebug : (decide (0x40 ≤ 0x40 + n) && decide (0x40 + n < 0x50)) = true := by simp; omega
    have hload := jtagLoad_of_inward hon hsession hpins hcode (by omega)
    rw [hdebug] at hload
    exact becomes_of_act rfl hload
  case closed =>
    intro hlc
    have hcode : (if jtagAllows s.dev (0x40 + n % 16) then 0x40 + n % 16 else 0xFF) = 0xFF := by
      rw [jtagAllows_debug s.dev (Nat.mod_lt n (by decide)), if_neg (by rcases hlc with h | h <;> simp [h])]
    exact becomes_of_act rfl (jtagLoad_of_inward hon hsession hpins hcode (by decide))

end Sys2Proof.Machine
end

section
/-!
PROOFS. DOE (R400-R405, R415-R417): what the mailbox answers, when, and what a key release and a life-cycle change do.
-/
namespace Sys2Proof.Machine
open Safety

/-- A free mailbox of a ready module answers its request (R403). -/
theorem doeReq_of_on {d : Dev} {busy f : Dev → Dev} (h : doeOn d = true) : doeReq d busy f = f d := if_pos h

/-- A request for an object of the device's own vendor is answered with status 8 while the mailbox is not free (R403). -/
theorem doeOwn_of_busy {d : Dev} {type : Nat} {f : Dev → Dev} (hup : doeUp d = true) (hbusy : doeFree d = false) :
    doeOwn d type f = doeStatus d type 8 := by
  rw [doeOwn, doeReq, if_neg (by simp [doeOn, hbusy]), if_pos hup]

/-- GET_CERT of either certificate (R400). -/
theorem getCert_of_on {d : Dev} {k : Nat} (h : doeOn d = true) (hk : k ≤ 1) :
    getCert k d = if noIdentity d then doeStatus d 0x80 3 else doeSend d (doeObj 0x80 5432 (certOf d k)) := by
  rw [getCert, doeOwn, doeReq_of_on h, if_neg (by omega)]

/-- GET_REPORT of a context holds the report while a request has still to take effect, and sends it at once where none has (R401;
log 110). -/
theorem getReport_of_on {d : Dev} {n nonce : Nat} (h : doeOn d = true) (hn : n < 16384) :
    getReport n nonce d = if unapplied d = [] then sendReport n nonce d
      else { d with doeHeld := some { ctx := n, nonce := nonce, tags := unapplied d } } := by
  rw [getReport, doeOwn, doeReq_of_on h, if_neg (by omega)]

/-- The report sent is the object sent, and its digest is the context's latest report (R401). -/
theorem sendReport_spec {d : Dev} {n nonce : Nat} (hid : noIdentity d = false) (hctx : ctxBits d n 0 1 = 1) :
    (sendReport n nonce d).out = d.out ++ [.doe (doeObj 0x81 5184 (reportOf d n nonce))] ∧
      (keysOf (sendReport n nonce d) n).report = some (natOfBytes (sha384 (bytesOf 5184 (reportOf d n nonce)))) := by
  rw [sendReport, if_neg (by simp [hid]), if_neg (by simp [hctx])]
  exact ⟨rfl, congrArg CtxKeys.report (Tbl.get_put_self _ _ _ _)⟩

/-- DOE discovery (log 50): the protocol of an index and the next index. -/
theorem doeDiscovery_of_on {d : Dev} {index : Nat} (h : doeOn d = true) :
    doeDiscovery index d = discoverySend d (if index % 256 = 0 then fv 0 16 1 + fv 24 8 1
      else if index % 256 ≤ 4 then fv 0 16 0x1FA7 + fv 16 8 (0x7F + index % 256) + fv 24 8 (if index % 256 = 4 then 0 else index % 256 + 1)
      else 0xFFFF) := by
  rw [doeDiscovery, doeReq_of_on h]
  simp only [Nat.lt_succ_iff]

/-- Settles O15. -/
theorem doeObjectsAreAnswered : Obligations.DoeObjectsAreAnswered := by
  unfold Obligations.DoeObjectsAreAnswered
  intro s k n nonce type index v len
  refine ⟨fun hon => ⟨?unknown, ?discovery, ?cert, ?held, ?report, ?noCert, ?noReport⟩, fun hup hbusy => ?busy⟩
  case unknown => exact becomes_of_act rfl (by rw [doeUnknownType, doeOwn, doeReq_of_on hon]; rfl)
  case discovery => exact becomes_of_act rfl (doeDiscovery_of_on hon)
  case cert => exact fun hk hid => becomes_of_act rfl ((getCert_of_on hon hk).trans (if_neg (by simp [hid])))
  case held => exact fun hn hreq => becomes_of_act rfl ((getReport_of_on hon hn).trans (if_neg hreq))
  case report =>
    intro hn hid hctx hreq
    have hsend : getReport n nonce s.dev = sendReport n nonce s.dev := (getReport_of_on hon hn).trans (if_pos hreq)
    obtain ⟨hout, hlatest⟩ := sendReport_spec (nonce := nonce) hid hctx
    refine ⟨⟨sendReport n nonce s.dev, s.pending⟩, ?_, rfl, hout, hlatest, sameMem_of_mem_eq (sendReport_mem _ _ _)⟩
    change act s (getReport n nonce) = _
    rw [act, hsend]
  case noCert => exact fun hk hid => becomes_of_act rfl ((getCert_of_on hon hk).trans (if_pos hid))
  case noReport =>
    intro hn hid hreq
    exact becomes_of_act rfl ((getReport_of_on hon hn).trans ((if_pos hreq).trans (if_pos hid)))
  case busy =>
    exact ⟨becomes_of_act rfl (doeOwn_of_busy hup hbusy), becomes_of_act rfl (doeOwn_of_busy hup hbusy),
      becomes_of_act rfl (doeOwn_of_busy hup hbusy), becomes_of_act rfl (doeOwn_of_busy hup hbusy),
      becomes_of_act rfl (doeOwn_of_busy hup hbusy)⟩

/-- A well-formed release of a context in STATE 1, for its latest report and with its pair: what its sealed part opens to decides
(R404, R405). -/
theorem keyRelease_of_wellFormed {d : Dev} {v : Nat} {e : Nat × Nat} (hon : doeOn d = true) (hver : bits v 0 32 = 1)
    (hctx : bits v 32 32 < 16384) (hz1 : bits v 9409 7 = 0) (hz2 : bits v 9424 48 = 0) (hdef : ctxBits d (bits v 32 32) 0 1 = 1)
    (hst : ctxState d (bits v 32 32) = 1) (heph : (keysOf d (bits v 32 32)).eph = some e)
    (hrep : (keysOf d (bits v 32 32)).report = some (bits v 64 384)) :
    keyRelease v 1264 d =
      if x25519 e.1 (bits v 448 256) = 0 then releaseFail d (bits v 32 32)
      else (gcmOpen (releaseKek v (x25519 e.1 (bits v 448 256)) (mlkemDecaps e.2 (bits v 704 8704)) (x25519Public e.1))
          (List.replicate 12 0) (bytesOf 1184 v) (bytesOf 64 (v >>> 9472)) (bytesOf 16 (v >>> 9984))).elim
        (releaseFail d (bits v 32 32)) (fun keys =>
          if bits v 9416 8 = 0 ∨ getBitAt d (SEC_LKEYS 0) (bits v 9416 8) then doeStatus d 0x82 6
          else releaseKeys d (bits v 32 32) v (natOfBytes keys)) := by
  rw [keyRelease, doeOwn, doeReq_of_on hon, if_neg (by omega), if_neg (by omega)]
  simp only [heph, hrep, ne_eq, not_true_eq_false, if_false]
  generalize gcmOpen _ _ _ _ _ = opened
  cases opened <;> rfl

/-- A well-formed release of a context in another state is refused (R405). -/
theorem keyRelease_of_otherState {d : Dev} {v : Nat} (hon : doeOn d = true) (hver : bits v 0 32 = 1) (hctx : bits v 32 32 < 16384)
    (hz1 : bits v 9409 7 = 0) (hz2 : bits v 9424 48 = 0) (hst : ctxState d (bits v 32 32) ≠ 1) :
    keyRelease v 1264 d = doeStatus d 0x82 2 := by
  rw [keyRelease, doeOwn, doeReq_of_on hon, if_neg (by omega), if_pos (.inr hst)]

/-- LC_CHANGE without a token, by the transition of Table "Life-cycle transitions" (R415, R417). -/
theorem lcChange_of_noToken {d : Dev} {v : Nat} (hon : doeOn d = true) (htgt : bits v 0 32 ≤ 4) :
    (lcStep (getF d SEC_LC SEC_LC_LC_FUSE) (bits v 0 32) = none → lcChange v 4 d = doeStatus d 0x83 3) ∧
    ∀ b, lcStep (getF d SEC_LC SEC_LC_LC_FUSE) (bits v 0 32) = some (b, false) → lcChange v 4 d =
      moduleReset 32 { (blowLc (doeStatus d 0x83 0) b) with boot := { (blowLc (doeStatus d 0x83 0) b).boot with rekey := true } } := by
  rw [lcChange, doeOwn, doeReq_of_on hon, if_neg (by omega)]
  exact ⟨fun h => by simp [h], fun b h => by simp [h]⟩

/-- Settles O16. -/
theorem keyReleaseAndLifeCycleChange : Obligations.KeyReleaseAndLifeCycleChange := by
  unfold Obligations.KeyReleaseAndLifeCycleChange
  refine ⟨fun s v e hon hver hctx hz1 hz2 => ⟨fun hdef hst heph hrep => ?_, fun hst => ?_⟩,
    fun s v hon htgt => ⟨fun hstep => ?_, fun b hstep => ?_⟩⟩
  · refine becomes_of_act (f := keyRelease v 1264) rfl ?_
    rw [keyRelease_of_wellFormed hon hver hctx hz1 hz2 hdef hst heph hrep]
    generalize gcmOpen _ _ _ _ _ = opened
    cases opened <;> rfl
  · exact becomes_of_act rfl (keyRelease_of_otherState hon hver hctx hz1 hz2 hst)
  · exact becomes_of_act rfl ((lcChange_of_noToken hon htgt).1 hstep)
  · exact becomes_of_act rfl ((lcChange_of_noToken hon htgt).2 b hstep)

end Sys2Proof.Machine
end

section
/-!
PROOFS. The issue of a bundle (R209-R211): what an attempt leaves of a core, the slot a command issues, and the operation that a slot
puts into its pipe.
-/
namespace Sys2Proof.Machine
open Safety

/- The opcode of a slot word -/

theorem bits_opcode_packSlot {op : Nat} {fs : List (Nat × Nat)} (hop : op < 64) (h : ∀ f ∈ fs, 6 ≤ f.1) :
    bits (packSlot op fs).toNat 0 6 = op := by
  have hfld := opcode_packSlot hop h
  rwa [fld, BitVec.extractLsb'_toNat] at hfld

/- Each slot's command issues the operation whose key is that slot's -/

theorem exec_matCommand {o : MatOp} (ho : o ≠ .nop) (c : Nat) (s : State) :
    exec (matCommand o c) s = act s (issueOp (bits o.toWord.toNat 0 6) c) := by
  cases o with
  | nop => exact absurd rfl ho
  | _ => rw [MatOp.toWord, bits_opcode_packSlot (by decide) (by simp)]; rfl

theorem exec_vecCommand (fn : VecFn) (fmt : BitVec 1) (x y z : BitVec 6) (m : BitVec 7) (c : Nat) (s : State) :
    exec (vecCommand fn c) s = act s (issueOp (64 + bits (VecOp.op fn fmt x y z m).toWord.toNat 0 6) c) := by
  rw [VecOp.toWord, bits_opcode_packSlot fn.code_range.2 (by simp)]
  cases fn <;> rfl

theorem exec_movCommand {o : MovOp} (ho : o ≠ .nop) (c : Nat) (s : State) :
    exec (movCommand o c) s = act s (issueOp (128 + bits o.toWord.toNat 0 6) c) := by
  cases o with
  | nop => exact absurd rfl ho
  | _ => rw [MovOp.toWord, bits_opcode_packSlot (by decide) (by simp)]; rfl

theorem exec_ctlCommand {o : CtlOp} (ho : o ≠ .nop) (c : Nat) (s : State) :
    exec (ctlCommand o c) s = act s (issueOp (192 + bits o.toWord.toNat 0 6) c) := by
  cases o with
  | nop => exact absurd rfl ho
  | endc => rfl
  | _ => rw [CtlOp.toWord, bits_opcode_packSlot (by decide) (by simp)]; rfl

/- A held core issues nothing (R436, R445) -/

theorem issueOp_of_issueHeld {d : Dev} {c : Nat} (key : Nat) (h : issueHeld d c = true) : issueOp key c d = d := by
  rw [issueOp, h, Bool.or_true, if_pos rfl]

theorem issueNop_of_issueHeld {d : Dev} {c : Nat} (h : issueHeld d c = true) : issueNop c d = d := by
  rw [issueNop, h, Bool.or_true, if_pos rfl]

/-- Settles O27: every slot command is an issueOp or the issueNop of its core, which a held core's module passes unchanged. -/
theorem fastTripHoldsIssue : Obligations.FastTripHoldsIssue := by
  unfold Obligations.FastTripHoldsIssue
  intro s c _ hheld
  refine ⟨fun o ho => ?_, fun fn => ?_, fun o ho => ?_, fun o ho => ?_, ?_⟩
  · exact exec_eq_self_of_act (exec_matCommand ho c s) (issueOp_of_issueHeld _ hheld)
  · exact exec_eq_self_of_act (exec_vecCommand fn 0 0 0 0 0 c s) (issueOp_of_issueHeld _ hheld)
  · exact exec_eq_self_of_act (exec_movCommand ho c s) (issueOp_of_issueHeld _ hheld)
  · exact exec_eq_self_of_act (exec_ctlCommand ho c s) (issueOp_of_issueHeld _ hheld)
  · exact exec_eq_self_of_act (f := issueNop c) rfl (issueNop_of_issueHeld hheld)

/- What an attempt leaves of its core -/

/-- Core c is in e what it is in d, but for its running clause, whose slot count stands. -/
def OnlyRun (c : Nat) (d e : Dev) : Prop :=
  ∃ x : Option RunSt, x.map (·.slot) = (core d c).run.map (·.slot) ∧ core e c = { core d c with run := x }

theorem OnlyRun.of_cores_eq {c : Nat} {d e : Dev} (h : e.cores = d.cores) : OnlyRun c d e :=
  ⟨(core d c).run, rfl, core_congr h c⟩

theorem OnlyRun.trans {c : Nat} {d e f : Dev} (hde : OnlyRun c d e) (hef : OnlyRun c e f) : OnlyRun c d f := by
  obtain ⟨x, hx, he⟩ := hde
  obtain ⟨y, hy, hf⟩ := hef
  exact ⟨y, by rw [hy, he, ← hx], by rw [hf, he]⟩

theorem OnlyRun.of_modRun (c : Nat) (d : Dev) {f : RunSt → RunSt} (hf : ∀ r, (f r).slot = r.slot) : OnlyRun c d (modRun d c f) := by
  refine ⟨(core d c).run.map f, ?_, core_modCore_self d c _⟩
  cases (core d c).run with
  | none => rfl
  | some r => exact congrArg some (hf r)

theorem OnlyRun.of_addWaiter (c : Nat) (d : Dev) (o who : Nat) : OnlyRun c d (addWaiter d o who) := by
  refine .of_cores_eq ?_
  rw [addWaiter, apply_ite Dev.cores]
  exact ite_self _

/-- The wait that an attempt of bundle b enters (R172, R322). -/
def enterWait (d : Dev) (c : Nat) (r : RunSt) (b : Bundle) : Dev :=
  match b.ctl with
  | .stra ch xn _ =>
    if r.await.isNone then modRun d c (fun r => { r with await := some (awaitNow d c ch.toNat (xreg d c xn.toNat)) }) else d
  | .syncwait o _ =>
    if r.waitObj.isNone && !objReached d o.toNat then
      addWaiter (modRun d c (fun r => { r with waitObj := some o.toNat })) o.toNat c
    else d
  | _ => d

theorem onlyRun_enterWait (d : Dev) (c : Nat) (r : RunSt) (b : Bundle) : OnlyRun c d (enterWait d c r b) := by
  have hrefl : OnlyRun c d d := .of_cores_eq rfl
  unfold enterWait
  split
  · split
    · exact .of_modRun c d fun _ => rfl
    · exact hrefl
  · split
    · refine .trans ?_ (.of_addWaiter c _ _ _)
      exact .of_modRun c d fun _ => rfl
    · exact hrefl
  · exact hrefl

/-- CL_WAIT after an attempt of bundle b; the bundle's cycle where its wait is over (R210). -/
def showWait (d : Dev) (c : Nat) (b : Bundle) : Dev :=
  match (core d c).run with
  | some r =>
    let done := bundleWait d c r b == 0 && decide (3 ≤ getF d (CL_WAIT c) CL_WAIT_WAIT) && decide (getF d (CL_WAIT c) CL_WAIT_WAIT ≤ 4)
    setF (if done then modRun d c (fun r => { r with cyc := max r.cyc (clockCycle d) }) else d) (CL_WAIT c) CL_WAIT_WAIT
      (bundleWait d c r b)
  | none => d

theorem onlyRun_showWait (d : Dev) (c : Nat) (b : Bundle) : OnlyRun c d (showWait d c b) := by
  unfold showWait
  split
  · refine .trans (e := ite _ _ _) ?_ (.of_cores_eq rfl)
    split
    · exact .of_modRun c d fun _ => rfl
    · exact .of_cores_eq rfl
  · exact .of_cores_eq rfl

theorem attempt_cases (d : Dev) (c : Nat) : attempt d c = d ∨ ∃ r b, attempt d c = showWait (enterWait d c r b) c b := by
  unfold attempt
  split
  · exact .inl rfl
  · split
    · exact .inl rfl
    · split
      · exact .inl rfl
      · split
        · exact .inl rfl
        · exact .inr ⟨_, _, rfl⟩

theorem onlyRun_attempt (d : Dev) (c : Nat) : OnlyRun c d (attempt d c) := by
  obtain h | ⟨r, b, h⟩ := attempt_cases d c
  · exact .of_cores_eq (by rw [h])
  · rw [h]
    exact (onlyRun_enterWait d c r b).trans (onlyRun_showWait _ c b)

/-- A bundle that may issue is that of the running clause. -/
theorem run_of_view_go {d : Dev} {c : Nat} {r : RunSt} {b : Bundle} (h : view d c = .go r b) : (core d c).run = some r := by
  unfold view at h
  split at h
  · cases h
  · rename_i r' hrun
    rw [hrun]
    dsimp only at h
    repeat' split at h
    all_goals simp only [View.go.injEq, reduceCtorEq] at h
    all_goals rw [h.1]

/-- Only the first slot of a bundle attempts anything. -/
theorem attempt_eq_self {d : Dev} {c : Nat} {r : RunSt} {b : Bundle} (h : view (attempt d c) c = .go r b) (hslot : r.slot ≠ 0) :
    attempt d c = d := by
  obtain ⟨x, hx, hcore⟩ := onlyRun_attempt d c
  have hrun := run_of_view_go h
  rw [hcore] at hrun
  obtain ⟨r', hr', hs⟩ : ∃ r', (core d c).run = some r' ∧ r'.slot = r.slot := by
    subst hrun
    cases hr : (core d c).run with
    | none => rw [hr] at hx; cases hx
    | some r' => exact ⟨r', rfl, by rw [hr] at hx; exact (Option.some.inj hx).symm⟩
  unfold attempt
  rw [hr']
  exact if_pos (.inr (hs ▸ hslot))

/- The slot a command issues -/

theorem discardFiller_eq_self {d : Dev} {c : Nat} (t : Nat) (h : (core d c).fillBad = false) : discardFiller d c t = d := by
  rw [discardFiller, h, Bool.false_and, if_neg Bool.false_ne_true]

section
variable {d : Dev} {c : Nat} {r : RunSt} {b : Bundle} (hc : c < 320) (hheld : issueHeld d c = false)
  (hfill : (core d c).fillBad = false) (hview : view (attempt d c) c = .go r b)
include hc hheld hfill hview

theorem issueOp_of_go {key : Nat} (hkey : slotKey r b = key) : issueOp key c d = issueSlot (attempt d c) c r b := by
  rw [issueOp, hheld, Bool.or_false, if_neg (by simpa using hc), discardFiller_eq_self _ hfill]
  dsimp only
  rw [hview]
  exact if_pos hkey

theorem issueNop_of_go (hkey : slotKey r b % 64 = 0) : issueNop c d = issueSlot (attempt d c) c r b := by
  rw [issueNop, hheld, Bool.or_false, if_neg (by simpa using hc), discardFiller_eq_self _ hfill]
  dsimp only
  rw [hview]
  exact if_pos hkey

end

/- The operation a slot puts into its pipe -/

/-- The operation that issues from bundle r of core c. -/
def newOp (d : Dev) (c : Nat) (r : RunSt) (op : SlotOp) (xs hs : List Nat) (seq total : Nat) : POp :=
  { op := op, no := (core d c).opCnt, bundle := r.pc, iss := r.cyc, xs := xs, hs := hs, seq := seq, total := total }

theorem core_pushOp_vec (d : Dev) (c : Nat) (r : RunSt) (o : VecOp) (xs hs : List Nat) (seq total : Nat) :
    core (pushOp d c r (.vec o) xs hs seq total) c = { core d c with
      opCnt := (core d c).opCnt + 1, vec := (core d c).vec ++ [newOp d c r (.vec o) xs hs seq total] } :=
  core_modCore_self d c _

theorem core_pushOp_mov (d : Dev) (c : Nat) (r : RunSt) (o : MovOp) (xs hs : List Nat) (seq total : Nat) :
    core (pushOp d c r (.mov o) xs hs seq total) c = { core d c with
      opCnt := (core d c).opCnt + 1, mov := (core d c).mov ++ [newOp d c r (.mov o) xs hs seq total] } :=
  core_modCore_self d c _

/-- The matrix pipe of a core with operation p of instruction o issued. -/
def matOpsWith (k : CoreSt) (o : MatOp) (p : POp) : List POp :=
  match o with
  | .spill h _ _ _ _ _ | .accld h _ _ _ | .accclr h _ _ => if h = 0
    then k.group ++ (k.half0 ++ [p]) ++ k.half1
    else k.group ++ k.half0 ++ (k.half1 ++ [p])
  | _ => (k.group ++ [p]) ++ k.half0 ++ k.half1

theorem matOps_pushOp (d : Dev) (c : Nat) (r : RunSt) (o : MatOp) (xs hs : List Nat) (seq total : Nat) :
    matOps (core (pushOp d c r (.mat o) xs hs seq total) c) = matOpsWith (core d c) o (newOp d c r (.mat o) xs hs seq total) := by
  rw [pushOp, core_modCore_self]
  cases o with
  | spill h _ _ _ _ _ | accld h _ _ _ | accclr h _ _ => dsimp only [matOpsWith]; split <;> rfl
  | _ => rfl

theorem issueMat_eq_pushOp (d : Dev) (c : Nat) (r : RunSt) {o : MatOp} (ho : o ≠ .nop) : ∃ e xs hs seq total, e.cores = d.cores ∧
    issueMat d c r o = pushOp e c r (.mat o) xs hs seq total := by
  cases o with
  | nop => exact absurd rfl ho
  | spill _ _ _ _ _ _ => exact ⟨setR d _ _, _, _, _, _, rfl, rfl⟩
  | _ => exact ⟨d, _, _, _, _, rfl, rfl⟩

theorem issueVec_eq_pushOp (d : Dev) (c : Nat) (r : RunSt) {o : VecOp} (ho : o ≠ .nop) : ∃ e xs hs seq total, e.cores = d.cores ∧
    issueVec d c r o = pushOp e c r (.vec o) xs hs seq total := by
  cases o with
  | nop => exact absurd rfl ho
  | op fn fmt a b dd m => exact ⟨ite _ (setR d _ _) d, _, _, _, _, by rw [apply_ite Dev.cores]; exact ite_self _, rfl⟩

theorem issueMov_eq_pushOp (d : Dev) (c : Nat) (r : RunSt) {o : MovOp} (ho : o ≠ .nop) (hsw : ∀ g, o ≠ .sleep g ∧ o ≠ .wake g) :
    ∃ xs hs, issueMov d c r o = pushOp d c r (.mov o) xs hs 0 0 := by
  cases o with
  | nop => exact absurd rfl ho
  | sleep g => exact absurd rfl (hsw g).1
  | wake g => exact absurd rfl (hsw g).2
  | _ => exact ⟨_, _, rfl⟩

theorem core_modRun (d : Dev) (c : Nat) (f : RunSt → RunSt) : core (modRun d c f) c = { core d c with run := (core d c).run.map f } :=
  core_modCore_self d c _

section
variable {s : State} {c : Nat} {r : RunSt} {b : Bundle} (hc : c < 320) (hheld : issueHeld s.dev c = false)
  (hfill : (core s.dev c).fillBad = false) (hview : view (attempt s.dev c) c = .go r b)
include hc hheld hfill hview

/-- The command of the matrix slot's operation issues that slot. -/
theorem matCommand_becomes (hslot : r.slot = 0) (hop : b.mat ≠ .nop) : becomes (matCommand b.mat c) s
    (modRun (issueMat (setF (attempt s.dev c) (CL_WAIT c) CL_WAIT_WAIT 0) c r b.mat) c (fun r => { r with slot := 1 })) := by
  refine becomes_of_act (exec_matCommand hop c s) ?_
  rw [issueOp_of_go hc hheld hfill hview (by simp only [slotKey, hslot])]
  simp only [issueSlot, hslot]

theorem vecCommand_becomes {fn : VecFn} {fmt : BitVec 1} {x y z : BitVec 6} {m : BitVec 7} (hslot : r.slot = 1)
    (hop : b.vec = .op fn fmt x y z m) : becomes (vecCommand fn c) s
    (modRun (issueVec (attempt s.dev c) c r b.vec) c (fun r => { r with slot := 2 })) := by
  refine becomes_of_act (exec_vecCommand fn fmt x y z m c s) ?_
  rw [issueOp_of_go hc hheld hfill hview (by simp only [slotKey, hslot, hop])]
  simp only [issueSlot, hslot]

theorem movCommand_becomes (hslot : r.slot = 2) (hop : b.mov ≠ .nop) : becomes (movCommand b.mov c) s
    (modRun (issueMov (attempt s.dev c) c r b.mov) c (fun r => { r with slot := 3 })) := by
  refine becomes_of_act (exec_movCommand hop c s) ?_
  rw [issueOp_of_go hc hheld hfill hview (by simp only [slotKey, hslot])]
  simp only [issueSlot, hslot]

theorem ctlCommand_becomes (hslot : r.slot = 3) (hop : b.ctl ≠ .nop) :
    becomes (ctlCommand b.ctl c) s (issueCtl (attempt s.dev c) c r b) := by
  refine becomes_of_act (exec_ctlCommand hop c s) ?_
  rw [issueOp_of_go hc hheld hfill hview (by simp only [slotKey, hslot])]
  simp only [issueSlot, hslot]

theorem nop_becomes (hslot : r.slot = 0) (hop : b.mat = .nop) : becomes (.nop c) s
    (modRun (setF (attempt s.dev c) (CL_WAIT c) CL_WAIT_WAIT 0) c (fun r => { r with slot := 1 })) := by
  refine becomes_of_act (f := issueNop c) rfl ?_
  rw [issueNop_of_go hc hheld hfill hview (by simp only [slotKey, hslot, hop]; rfl)]
  simp only [issueSlot, hslot, hop]
  rfl

end

/-- Settles O25: the slot at which issue stands is the one the command names. -/
theorem controlOperationsIssue : Obligations.ControlOperationsIssue := by
  unfold Obligations.ControlOperationsIssue
  intro s c r b hc hheld hfill hview
  exact ⟨ctlCommand_becomes hc hheld hfill hview, nop_becomes hc hheld hfill hview⟩

/-- Settles O22: the attempt and the slot count change only the running clause, so the pipe is the old one with the operation put into
it. -/
theorem matrixOperationsIssue : Obligations.MatrixOperationsIssue := by
  unfold Obligations.MatrixOperationsIssue
  intro s c r b hc hheld hfill hview hslot hop
  have hbecomes := matCommand_becomes hc hheld hfill hview hslot hop
  refine ⟨hbecomes, ?_⟩
  obtain ⟨e, xs, hs, seq, total, hcores, hpush⟩ :=
    issueMat_eq_pushOp (setF (attempt s.dev c) (CL_WAIT c) CL_WAIT_WAIT 0) c r hop
  refine ⟨_, newOp e c r (.mat b.mat) xs hs seq total, hbecomes, rfl, sameMem_of_mem_eq (by simp), rfl, rfl, rfl, ?_⟩
  obtain ⟨x, -, hcore⟩ := onlyRun_attempt s.dev c
  have hpipe : matOpsWith (core e c) b.mat = matOpsWith (core s.dev c) b.mat := by
    rw [core_congr hcores, core_congr (setF_cores _ _ _ _), hcore]
    rfl
  rw [core_modRun, hpush]
  exact (matOps_pushOp e c r b.mat xs hs seq total).trans (congrFun hpipe _)

/-- Settles O23: past the first slot nothing is attempted, and the operation enters the vector pipe only. -/
theorem vectorOperationsIssue : Obligations.VectorOperationsIssue := by
  unfold Obligations.VectorOperationsIssue
  intro s c r b fn fmt x y z m hc hheld hfill hview hslot hop
  have hbecomes := vecCommand_becomes hc hheld hfill hview hslot hop
  refine ⟨hbecomes, ?_⟩
  have hself := attempt_eq_self hview (by omega)
  obtain ⟨e, xs, hs, seq, total, hcores, hpush⟩ := issueVec_eq_pushOp (attempt s.dev c) c r (o := b.vec) (by rw [hop]; nofun)
  rw [hself] at hcores
  have hcore := core_congr hcores c
  refine ⟨_, newOp e c r (.vec b.vec) xs hs seq total, hbecomes, rfl, sameMem_of_mem_eq (by simp), ?_⟩
  rw [core_modRun, hpush, core_pushOp_vec, hcore]
  exact ⟨rfl, rfl, rfl, rfl, rfl, rfl, rfl⟩

/-- A fault of a foreground's core sets its bit (R136). -/
theorem getB_coreFault_self {d : Dev} {c a : Nat} {f : Fld} {e : Ev} (he : e.filler = false) (hf : f.lo + f.w ≤ 32) (hw : 0 < f.w) :
    getB (coreFault d c a f e) a f = true := by
  have hregs : (coreFault d c a f e).regs = (setB d a f true).regs := by
    rw [coreFault, report_regs, he, if_neg Bool.false_ne_true]
  rw [getB, getF, getR_congr hregs]
  exact getB_setB_self d a f true hf hw

theorem getR_coreFault_ne {d : Dev} {c a b : Nat} {f : Fld} {e : Ev} (h : b ≠ a) : getR (coreFault d c a f e) b = getR d b := by
  rw [coreFault, getR_congr (report_regs _ _)]
  split
  · rfl
  · exact getR_setR_ne d _ h

theorem core_coreFault (d : Dev) (c a : Nat) (f : Fld) (e : Ev) (k : Nat) : core (coreFault d c a f e) k = core d k := by
  rw [coreFault, core_congr (report_cores _ _)]
  split <;> rfl

/-- A foreground's SLEEP is a fault of its core while a filler partition exists (R159). -/
theorem issueSleep_refused {d : Dev} {c : Nat} {r : RunSt} {o : MovOp} (g : BitVec 16) (hfg : r.fill = false)
    (hrows : getF d (SHF_PART c) SHF_PART_FG_ROWS < 32) :
    ∃ e : Ev, e.filler = false ∧ issueSleep d c r o g = coreFault d c (SHF_FAULT c) SHF_FAULT_SLEEP_REFUSED e := by
  refine ⟨shfEv { c := c, fill := r.fill, ctx := r.ctx, port := 1, oper := operOf r.pc 2 o.toWord.toNat } 0 0 0x52 false .none, hfg, ?_⟩
  rw [issueSleep, hfg, if_neg Bool.false_ne_true, if_pos hrows]

/-- Settles O24: as in the vector slot nothing is attempted, an operation enters the move pipe only, and a refused SLEEP is a fault of
its core. -/
theorem moveOperationsIssue : Obligations.MoveOperationsIssue := by
  unfold Obligations.MoveOperationsIssue
  intro s c r b hc hheld hfill hview hslot hop
  have hbecomes := movCommand_becomes hc hheld hfill hview hslot hop
  have hself := attempt_eq_self hview (by omega)
  refine ⟨hbecomes, fun hsw => ?_, fun g hsleep hfg hrows => ?_⟩
  · obtain ⟨xs, hs, hpush⟩ := issueMov_eq_pushOp s.dev c r hop hsw
    rw [hself, hpush] at hbecomes
    refine ⟨_, newOp s.dev c r (.mov b.mov) xs hs 0 0, hbecomes, rfl, sameMem_of_mem_eq (by simp), ?_⟩
    rw [core_modRun, core_pushOp_mov]
    exact ⟨rfl, rfl, rfl, rfl, rfl, rfl⟩
  · rw [hself] at hbecomes hrows
    obtain ⟨e, he, hissue⟩ := issueSleep_refused (o := b.mov) g hfg hrows
    rw [show issueMov s.dev c r b.mov = issueSleep s.dev c r b.mov g by rw [hsleep]; rfl] at hbecomes
    rw [hissue] at hbecomes
    refine ⟨_, hbecomes, rfl, getR_coreFault_ne ?_, getR_coreFault_ne ?_, getB_coreFault_self he (by decide) (by decide), ?_⟩
    · rw [SHF_AWAKE, SHF_FAULT]; omega
    · rw [SHF_ACCEPT, SHF_FAULT]; omega
    · rw [core_modRun, core_coreFault]

end Sys2Proof.Machine
end

section
/-!
PROOFS. The control slot without a handle write beside it (R210, R224): the module after it is the operation's own effect, with issue moved on.
-/
namespace Sys2Proof.Machine
open Safety

/-- The bundle that issue goes to after the control slot of bundle b (R210). -/
def nextPc (d : Dev) (c : Nat) (r : RunSt) (b : Bundle) : Nat := (takenBranch d c r b.ctl).elim (r.pc + 1) (·.toNat)

/-- The running clause of core c after the control slot of bundle b. -/
def afterCtl (d : Dev) (c : Nat) (r : RunSt) (b : Bundle) (x : RunSt) : RunSt :=
  issued x (nextPc d c r b) (if (takenBranch d c r b.ctl).isSome then 2 else 1)

/-- With no HSET beside it, the control slot is its operation's effect, issue moved on, and CL_WAIT shown. -/
theorem issueCtl_eq (d : Dev) (c : Nat) (r : RunSt) {b : Bundle} (hh : ∀ h xl xh, b.mov ≠ .hset h xl xh) :
    issueCtl d c r b = setF (setF (modRun (ctlEffect d c r b.ctl) c (afterCtl d c r b)) (CL_WAIT c) CL_WAIT_PC (nextPc d c r b))
      (CL_WAIT c) CL_WAIT_WAIT (if b.ctl == .endc then 7 else 0) := by
  rw [issueCtl]
  unfold afterCtl nextPc issued
  cases hb : b.mov with
  | hset h xl xh => exact absurd hb (hh h xl xh)
  | _ => cases takenBranch d c r b.ctl <;> rfl

theorem core_issueCtl (d : Dev) (c : Nat) (r : RunSt) {b : Bundle} (hh : ∀ h xl xh, b.mov ≠ .hset h xl xh) :
    core (issueCtl d c r b) c = { core (ctlEffect d c r b.ctl) c with
      run := (core (ctlEffect d c r b.ctl) c).run.map (afterCtl d c r b) } := by
  rw [issueCtl_eq d c r hh]
  exact core_modRun _ c _

section
variable {s : State} {c : Nat} {r : RunSt} {b : Bundle} (hc : c < 320) (hheld : issueHeld s.dev c = false)
  (hfill : (core s.dev c).fillBad = false) (hview : view (attempt s.dev c) c = .go r b) (hslot : r.slot = 3)
include hc hheld hfill hview hslot

omit hc hheld hfill in
theorem run_of_go : (core s.dev c).run = some r := by
  have h := run_of_view_go hview
  rwa [attempt_eq_self hview (by omega)] at h

variable {o : CtlOp} (hb : b.ctl = o) (hop : o ≠ .nop)
include hb hop

/-- The control slot's command: nothing is attempted any more. -/
theorem ctlCommand_issues : becomes (ctlCommand o c) s (issueCtl s.dev c r b) := by
  subst hb
  have h := ctlCommand_becomes hc hheld hfill hview hslot hop
  rwa [attempt_eq_self hview (by omega)] at h

variable (hh : ∀ h xl xh, b.mov ≠ .hset h xl xh)
include hh

/-- An operation whose effect is one index register writes that register and nothing else of the core's data. -/
theorem ctl_setX {n v w : Nat} (hn : n < 64) (heff : ctlEffect s.dev c r o = setX s.dev c n v) (hv : v % 2 ^ 32 = w)
    {i : Nat} (hi : i < 64) :
    ∃ t, exec (ctlCommand o c) s = .next t ∧ t.pending = s.pending ∧ keepsData c s.dev t.dev ∧
      xreg t.dev c i = if i = n then w else xreg s.dev c i := by
  have hissue := issueCtl_eq s.dev c r hh
  have hcore := core_issueCtl s.dev c r hh
  rw [hb, heff] at hcore hissue
  refine ⟨_, ctlCommand_issues hc hheld hfill hview hslot hb hop, rfl, ⟨sameMem_of_mem_eq ?_, ?_, ?_, ?_⟩, ?_⟩
  · dsimp only
    rw [hissue]
    simp
  · dsimp only
    rw [hissue]
    rfl
  · rw [hcore, setX, core_modCore_self]
  · rw [hcore, setX, core_modCore_self]
  · have hx : xreg (issueCtl s.dev c r b) c i = xreg (setX s.dev c n v) c i := by rw [xreg, xreg, hcore]
    refine hx.trans ?_
    split
    · rename_i h
      rw [h, xreg_setX_self, hv]
    · exact xreg_setX_ne _ _ (by omega)

/-- The running clause after the control slot is what the operation leaves of it, with issue moved on. -/
theorem ctl_run {x y : RunSt} (heff : (core (ctlEffect s.dev c r o) c).run = some x) (hy : afterCtl s.dev c r b x = y) :
    answers (ctlCommand o c) s fun d => (core d c).run = some y := by
  refine ⟨_, ctlCommand_issues hc hheld hfill hview hslot hb hop, rfl, ?_⟩
  dsimp only
  rw [core_issueCtl s.dev c r hh, hb, heff, ← hy]
  rfl

end

theorem xreg_lt (d : Dev) (c i : Nat) : xreg d c i < 2 ^ 32 := BitVec.isLt _

/-- A register less 1 is 0 where it was 1 (LOOP). -/
theorem lessOne_eq_zero_iff {v : Nat} (hv : v < 2 ^ 32) : (v + 0xFFFFFFFF) % 2 ^ 32 = 0 ↔ v = 1 := by omega

theorem withUpper_mod (v : Nat) (i : BitVec 16) : withUpper v i % 2 ^ 32 = v % 2 ^ 16 + i.toNat * 2 ^ 16 := by
  have hi := i.isLt
  rw [withUpper, Nat.shiftLeft_eq]
  omega

theorem plusImm_mod (v : Nat) (i : BitVec 14) : ((plusImm v i % 2 ^ 32 : Nat) : Int) = ((v : Int) + i.toInt) % (4294967296 : Int) := by
  rw [plusImm]
  omega

/-- Settles O26: each operation's effect is one index register. -/
theorem indexRegisterArithmetic : Obligations.IndexRegisterArithmetic := by
  unfold Obligations.IndexRegisterArithmetic
  intro s c r b i hc hheld hfill hview hslot hh hi
  have hset : ∀ {o : CtlOp}, b.ctl = o → o ≠ .nop → ∀ {n v w : Nat}, n < 64 → ctlEffect s.dev c r o = setX s.dev c n v → v % 2 ^ 32 = w → _ :=
    fun hb hop _ _ _ hn heff hv => ctl_setX hc hheld hfill hview hslot hb hop hh hn heff hv hi
  cases hb : b.ctl with
  | xli xd k => exact hset hb nofun xd.isLt rfl (Nat.mod_eq_of_lt (by omega))
  | xlih xd k => exact hset hb nofun xd.isLt rfl (withUpper_mod _ k)
  | xaddi xd xa k =>
    obtain ⟨t, hexec, hq, hkeep, hx⟩ := hset hb nofun xd.isLt rfl rfl
    exact ⟨t, hexec, hq, hkeep, by rw [hx, apply_ite Nat.cast, plusImm_mod]⟩
  | xadd xd xa xb => exact hset hb nofun xd.isLt rfl rfl
  | xmuli xd xa k => exact hset hb nofun xd.isLt rfl rfl
  | loop xc o => exact hset hb nofun xc.isLt rfl (Nat.mod_mod _ _)
  | _ => trivial

/-- Settles O28: issue goes where takenBranch says; of these only ENDC touches the running clause, and ends it. -/
theorem branchesGoToTheirTargets : Obligations.BranchesGoToTheirTargets := by
  unfold Obligations.BranchesGoToTheirTargets
  intro s c r b hc hheld hfill hview hslot hh
  have hrun := run_of_go hview hslot
  have hgo : ∀ {o : CtlOp}, b.ctl = o → o ≠ .nop → ∀ {x y : RunSt}, (core (ctlEffect s.dev c r o) c).run = some x →
      afterCtl s.dev c r b x = y → _ := fun hb hop _ _ heff hy => ctl_run hc hheld hfill hview hslot hb hop hh heff hy
  cases hb : b.ctl with
  | brnz xc o =>
    refine hgo hb nofun hrun ?_
    rw [afterCtl, nextPc, hb, takenBranch]
    split <;> rfl
  | loop xc o =>
    refine hgo hb nofun (x := r) ?_ ?_
    · rw [ctlEffect, setX, core_modCore_self]
      exact hrun
    · rw [afterCtl, nextPc, hb, takenBranch]
      simp only [lessOne_eq_zero_iff (xreg_lt _ _ _)]
      split <;> rfl
  | br o => exact hgo hb nofun hrun (by rw [afterCtl, nextPc, hb]; rfl)
  | fence m v mv k => exact hgo hb nofun hrun (by rw [afterCtl, nextPc, hb]; rfl)
  | endc =>
    refine hgo hb nofun (x := { r with ended := true }) ?_ (by rw [afterCtl, nextPc, hb]; rfl)
    rw [ctlEffect, endClause]
    have hmod : (core (modRun s.dev c fun r => { r with ended := true }) c).run = some { r with ended := true } := by
      rw [modRun_run, hrun]
      rfl
    split
    · exact hmod
    · exact hmod
  | _ => trivial

end Sys2Proof.Machine
end

section
/-!
PROOFS. A clause's start and end (R54, R57, R207, R214): what the activity level leaves of a core, and the constants a start loads.
-/
namespace Sys2Proof.Machine
open Safety

/- The activity level and ballast (R230) -/

theorem core_endBallast (d : Dev) (c m : Nat) : ∃ f, core (endBallast d c m) c = { core d c with fall := f } := by
  rw [endBallast]
  split
  · exact ⟨none, core_modCore_self _ c _⟩
  · exact ⟨_, rfl⟩

theorem core_coast (d : Dev) (c t : Nat) : ∃ f, core (coast d c t) c = { core d c with fall := f } := by
  rw [coast]
  split
  · exact ⟨_, core_modCore_self _ c _⟩
  · exact ⟨_, rfl⟩

theorem regs_coast (d : Dev) (c t : Nat) : (coast d c t).regs = d.regs := by
  rw [coast]
  split <;> rfl

/-- The activity level changes its own fields of its core. -/
theorem core_setActivity (d : Dev) (c t : Nat) :
    ∃ l a f, core (setActivity d c t) c = { core d c with level := l, actCyc := a, fall := f } := by
  rw [setActivity]
  generalize hd1 : modCore (setF d (CL_NOTE c) CL_NOTE_LEVEL _) c _ = d1
  have hcore : core d1 c = { core d c with level := activity (core d c) (max t (core d c).actCyc), actCyc := max t (core d c).actCyc } := by
    rw [← hd1, core_modCore_self]
    rfl
  split
  · obtain ⟨f, hf⟩ := core_endBallast d1 c (cycleAt d (max t (core d c).actCyc))
    exact ⟨_, _, f, by rw [hf, hcore]⟩
  · split
    · exact ⟨_, _, _, by rw [core_modCore_self, hcore]⟩
    · exact ⟨_, _, _, hcore⟩

/-- The activity level shows in CL_NOTE, its ballast in CL_BALLAST. -/
theorem getR_setActivity (d : Dev) (c t : Nat) {a : Nat} (hnote : a ≠ CL_NOTE c) (hballast : a ≠ CL_BALLAST c) :
    getR (setActivity d c t) a = getR d a := by
  rw [setActivity]
  generalize hd1 : modCore (setF d (CL_NOTE c) CL_NOTE_LEVEL _) c _ = d1
  have hmod : ∀ (e : Dev) (f : CoreSt → CoreSt), getR (modCore e c f) a = getR e a := fun _ _ => getR_congr rfl a
  have hreg : getR d1 a = getR d a := by rw [← hd1, hmod, setF, getR_setR_ne _ _ hnote]
  split
  · rw [endBallast]
    split
    · rw [hmod, addF, setF, getR_setR_ne _ _ hballast, hreg]
    · exact hreg
  · split
    · rw [hmod, hreg]
    · exact hreg

/- The constants of a clause (R207) -/

/-- Constant bundle k loaded into X(4k) onward. -/
def loadConst (d : Dev) (c : Nat) (r : RunSt) (k : Nat) : Dev :=
  (List.range 4).foldl (fun e j => setX e c (4 * k + j) (bits (storeBundle d c r.fill (r.start + 1 + k)).toNat (32 * j) 32)) d

theorem loadConsts_eq (d : Dev) (c : Nat) (r : RunSt) : loadConsts d c r = (List.range r.nconst).foldl (fun e k => loadConst e c r k) d := rfl

theorem setX_store (d : Dev) (c i v : Nat) : (setX d c i v).clauseStore = d.clauseStore := rfl

theorem setX_regs (d : Dev) (c i v : Nat) : (setX d c i v).regs = d.regs := rfl

theorem setX_run (d : Dev) (c i v : Nat) : (core (setX d c i v) c).run = (core d c).run := by rw [setX, core_modCore_self]

theorem loadConst_keep {α : Type} (p : Dev → α) (c : Nat) (h : ∀ d i v, p (setX d c i v) = p d) (d : Dev) (r : RunSt) (k : Nat) :
    p (loadConst d c r k) = p d := foldl_keep p _ (fun _ _ => h _ _ _) _ d

theorem loadConsts_keep {α : Type} (p : Dev → α) (c : Nat) (h : ∀ d i v, p (setX d c i v) = p d) (d : Dev) (r : RunSt) :
    p (loadConsts d c r) = p d := foldl_keep p _ (fun _ _ => loadConst_keep p c h _ _ _) _ d

/-- A fold over a range whose steps but the k-th keep p, which the k-th sets. -/
theorem foldl_range_set {α : Type} {p : Dev → α} {Q : Dev → Prop} {f : Dev → Nat → Dev} {n k : Nat} {v : α} (hQ : ∀ e j, Q e → Q (f e j))
    (hself : ∀ e, Q e → p (f e k) = v) (hne : ∀ e j, j < n → j ≠ k → p (f e j) = p e) (hk : k < n) {d : Dev} (hd : Q d) :
    p ((List.range n).foldl f d) = v := by
  induction n with
  | zero => omega
  | succ n ih =>
    have hfold : Q ((List.range n).foldl f d) := List.foldlRecOn (List.range n) f hd fun e he j _ => hQ e j he
    rw [List.range_succ, List.foldl_append, List.foldl_cons, List.foldl_nil]
    by_cases h : n = k
    · subst h
      exact hself _ hfold
    · rw [hne _ n (by omega) h]
      exact ih (fun e j hj => hne e j (by omega)) (by omega)

theorem bits_mod_self (x lo w : Nat) : bits x lo w % 2 ^ w = bits x lo w := Nat.mod_mod _ _

theorem xreg_loadConst_self (d : Dev) (c : Nat) (r : RunSt) (i : Nat) :
    xreg (loadConst d c r (i / 4)) c i = bits (storeBundle d c r.fill (r.start + 1 + i / 4)).toNat (32 * (i % 4)) 32 := by
  refine foldl_range_set (p := fun e => xreg e c i) (Q := fun _ => True) (k := i % 4) (fun _ _ _ => trivial) (fun e _ => ?_)
    (fun e j hj hne => xreg_setX_ne e _ (by omega)) (by omega) trivial
  rw [Nat.div_add_mod, xreg_setX_self, bits_mod_self]

theorem xreg_loadConst_ne (d : Dev) (c : Nat) (r : RunSt) {i k : Nat} (hi : i < 64) (hk : k < 16) (h : k ≠ i / 4) :
    xreg (loadConst d c r k) c i = xreg d c i := by
  have hkeep : ∀ j ∈ List.range 4, ∀ e v, xreg (setX e c (4 * k + j) v) c i = xreg e c i := fun j hj e v =>
    xreg_setX_ne e v (by have := List.mem_range.1 hj; omega)
  exact List.foldlRecOn (motive := fun e => xreg e c i = xreg d c i) (List.range 4) _ rfl fun e he j hj => (hkeep j hj e _).trans he

theorem xreg_loadConsts (d : Dev) (c : Nat) (r : RunSt) {i : Nat} (hi : i / 4 < r.nconst) (hn : r.nconst ≤ 16) :
    xreg (loadConsts d c r) c i = bits (storeBundle d c r.fill (r.start + 1 + i / 4)).toNat (32 * (i % 4)) 32 := by
  refine foldl_range_set (p := fun e => xreg e c i) (Q := fun e => e.clauseStore = d.clauseStore) (f := fun e k => loadConst e c r k)
    (fun e j he => (loadConst_keep Dev.clauseStore c (fun _ _ _ => rfl) e r j).trans he) (fun e he => ?_)
    (fun e j hj hne => xreg_loadConst_ne e c r (by omega) (by omega) hne) hi rfl
  rw [xreg_loadConst_self, storeBundle, storeBundle, he]

/- Starting, finishing and ending a clause -/

/-- A clause that starts at its header (R205, R207). -/
def startedRun (d : Dev) (c : Nat) (fill : Bool) (start rep : Nat) : RunSt :=
  { fill := fill, ctx := (residentOf d c fill).getD 0, start := start,
    len := bits (storeBundle d c fill start).toNat 0 13, nconst := bits (storeBundle d c fill start).toNat 16 4,
    last := bit (storeBundle d c fill start).toNat 13, rep := rep, no := (core d c).clauseCnt + 1,
    pc := start + 1 + bits (storeBundle d c fill start).toNat 16 4, cyc := bits (storeBundle d c fill start).toNat 16 4 }

/-- A core whose clause r starts. -/
def startedCore (r : RunSt) (k : CoreSt) : CoreSt :=
  { k with run := some r, startPos := none, clauseCnt := k.clauseCnt + 1, lastCtx := some r.ctx, gfFree := 0, vecFree := 0, movFree := 0,
           portFree0 := 0, portFree1 := 0, grpRet0 := 0, grpRet1 := 0, actCyc := 0, opCnt := 0 }

/-- The registers that a clause's start resets or shows. -/
def startRegs (d : Dev) (c : Nat) (fill : Bool) (pc : Nat) : Dev :=
  let d := setR (setR (setR d (SC_STALL_CYC c) 0) (SC_MERGED c) 0) (SC_EMPTY c) 0
  let d := setF d (SC_STATUS c) SC_STATUS_RUNNING (if fill then 2 else 1)
  let d := if fill then d else setB (setB d (CL_STATUS c) CL_STATUS_ENDED false) (CL_STATUS c) CL_STATUS_YIELDED false
  setF (setF d (CL_WAIT c) CL_WAIT_PC pc) (CL_WAIT c) CL_WAIT_WAIT 0

theorem startRegs_cores (d : Dev) (c : Nat) (fill : Bool) (pc : Nat) : (startRegs d c fill pc).cores = d.cores := by
  simp [startRegs, apply_ite Dev.cores]

theorem getF_running_startRegs (d : Dev) (c : Nat) (fill : Bool) (pc : Nat) :
    getF (startRegs d c fill pc) (SC_STATUS c) SC_STATUS_RUNNING = if fill then 2 else 1 := by
  have hwait : SC_STATUS c ≠ CL_WAIT c := by rw [SC_STATUS, CL_WAIT]; omega
  have hstatus : SC_STATUS c ≠ CL_STATUS c := by rw [SC_STATUS, CL_STATUS]; omega
  rw [startRegs, getF_setF_reg _ _ _ _ hwait, getF_setF_reg _ _ _ _ hwait]
  cases fill with
  | true =>
    rw [if_pos rfl, getF_setF_self _ _ _ _ (by decide)]
    rfl
  | false =>
    rw [if_neg Bool.false_ne_true, setB, setB, getF_setF_reg _ _ _ _ hstatus, getF_setF_reg _ _ _ _ hstatus,
      getF_setF_self _ _ _ _ (by decide)]
    rfl

theorem clauseStart_eq {d : Dev} {c start rep : Nat} {fill : Bool} (hc : c < 320) (hrun : (core d c).run = none)
    (hsel : (core d c).sel = some fill) (hpos : (core d c).startPos = some (start, rep)) :
    clauseStart c d = setActivity (startRegs (loadConsts (modCore d c (startedCore (startedRun d c fill start rep))) c
      (startedRun d c fill start rep)) c fill (startedRun d c fill start rep).pc) c 0 := by
  rw [clauseStart, if_neg (by omega)]
  dsimp only
  rw [hrun, hsel, hpos]
  rfl

theorem getF_setActivity (d : Dev) (c t : Nat) {a : Nat} (f : Fld) (hnote : a ≠ CL_NOTE c) (hballast : a ≠ CL_BALLAST c) :
    getF (setActivity d c t) a f = getF d a f := by rw [getF, getR_setActivity d c t hnote hballast, getF]

theorem clauseStart_spec {s : State} {c start rep : Nat} {fill : Bool} (hc : c < 320) (hrun : (core s.dev c).run = none)
    (hsel : (core s.dev c).sel = some fill) (hpos : (core s.dev c).startPos = some (start, rep)) :
    answers (.clauseStart c) s fun d => (core d c).run = some (startedRun s.dev c fill start rep) ∧
      getF d (SC_STATUS c) SC_STATUS_RUNNING = (if fill then 2 else 1) ∧ sameMem s.dev d ∧
      ∀ i, i < 60 → i / 4 < bits (storeBundle s.dev c fill start).toNat 16 4 →
        xreg d c i = bits (storeBundle s.dev c fill (start + 1 + i / 4)).toNat (32 * (i % 4)) 32 := by
  refine answers_of_act (f := clauseStart c) rfl ⟨?_, ?_, sameMem_of_mem_eq (clauseStart_mem c s.dev), fun i _ hi => ?_⟩
  all_goals rw [clauseStart_eq hc hrun hsel hpos]
  · obtain ⟨l, a, f, hcore⟩ := core_setActivity (startRegs (loadConsts (modCore s.dev c (startedCore (startedRun s.dev c fill start rep))) c
      (startedRun s.dev c fill start rep)) c fill (startedRun s.dev c fill start rep).pc) c 0
    rw [hcore, core_congr (startRegs_cores _ _ _ _)]
    refine (loadConsts_keep (fun d => (core d c).run) c (fun d i v => setX_run d c i v) _ _).trans ?_
    rw [core_modCore_self]
    rfl
  · rw [getF_setActivity _ _ _ _ (by rw [SC_STATUS, CL_NOTE]; omega) (by rw [SC_STATUS, CL_BALLAST]; omega), getF_running_startRegs]
  · obtain ⟨l, a, f, hcore⟩ := core_setActivity (startRegs (loadConsts (modCore s.dev c (startedCore (startedRun s.dev c fill start rep))) c
      (startedRun s.dev c fill start rep)) c fill (startedRun s.dev c fill start rep).pc) c 0
    rw [xreg, hcore, core_congr (startRegs_cores _ _ _ _)]
    have hn : bits (storeBundle s.dev c fill start).toNat 16 4 < 16 := Nat.mod_lt _ (by decide)
    exact xreg_loadConsts (modCore s.dev c (startedCore (startedRun s.dev c fill start rep))) c (startedRun s.dev c fill start rep) hi (Nat.le_of_lt hn)

/-- The core after its clause is over: nothing runs. -/
def finishedCore (r : RunSt) (k : CoreSt) : CoreSt := { k with run := none, drained := if r.last then some r.fill else k.drained }

/-- The end of clause r after cyc cycles: its core and the registers that show it. -/
def finishRegs (d : Dev) (c : Nat) (r : RunSt) (cyc : Nat) : Dev :=
  let d := modCore (coast d c cyc) c (finishedCore r)
  let d := setF (setF d (SC_STATUS c) SC_STATUS_RUNNING 0) (CL_WAIT c) CL_WAIT_WAIT 0
  if r.fill then d else setB d (CL_STATUS c) CL_STATUS_YIELDED false

theorem finishRegs_run (d : Dev) (c : Nat) (r : RunSt) (cyc : Nat) : (core (finishRegs d c r cyc) c).run = none := by
  have hcores : (finishRegs d c r cyc).cores = (modCore (coast d c cyc) c (finishedCore r)).cores := by
    simp only [finishRegs, apply_ite Dev.cores, setB_cores, setF_cores, ite_self]
  rw [core_congr hcores, core_modCore_self, finishedCore]

theorem getR_modCore (d : Dev) (c : Nat) (f : CoreSt → CoreSt) (a : Nat) : getR (modCore d c f) a = getR d a := getR_congr rfl a

theorem getR_finishRegs (d : Dev) (c : Nat) (r : RunSt) (cyc : Nat) {a : Nat} (hsc : a ≠ SC_STATUS c) (hwait : a ≠ CL_WAIT c)
    (hcl : a ≠ CL_STATUS c) : getR (finishRegs d c r cyc) a = getR d a := by
  rw [finishRegs]
  split <;> simp only [setB, setF, getR_setR_ne _ _ hsc, getR_setR_ne _ _ hwait, getR_setR_ne _ _ hcl, getR_modCore,
    getR_congr (regs_coast d c cyc)]

theorem getF_running_finishRegs (d : Dev) (c : Nat) (r : RunSt) (cyc : Nat) :
    getF (finishRegs d c r cyc) (SC_STATUS c) SC_STATUS_RUNNING = 0 := by
  have hwait : SC_STATUS c ≠ CL_WAIT c := by rw [SC_STATUS, CL_WAIT]; omega
  have hcl : SC_STATUS c ≠ CL_STATUS c := by rw [SC_STATUS, CL_STATUS]; omega
  have hself : ∀ e : Dev, getF (setF e (SC_STATUS c) SC_STATUS_RUNNING 0) (SC_STATUS c) SC_STATUS_RUNNING = 0 :=
    fun e => getF_setF_self e _ _ 0 (by decide)
  rw [finishRegs]
  split <;> simp only [setB, getF_setF_reg _ _ _ _ hcl, getF_setF_reg _ _ _ _ hwait, hself]

/-- An ended clause with nothing outstanding and no drain to wait for finishes. -/
theorem clauseFinish_eq {d : Dev} {c : Nat} (t : Nat) {r : RunSt} (hc : c < 320) (hrun : (core d c).run = some r) (hended : r.ended = true)
    (hlast : r.last = false) (hmat : matOps (core d c) = []) (hvec : (core d c).vec = []) (hmov : (core d c).mov = []) : ∃ m,
    clauseFinish c t d = setActivity (finishRegs (setR (setR d (SC_CLAUSE_CYC c) (max (r.lastRet + 1) r.cyc)) (SC_MARGIN_MIN c) m) c r
      (max (r.lastRet + 1) r.cyc)) c (max (r.lastRet + 1) r.cyc) := by
  have hwaits : ¬(!r.ended || !(matOps (core d c)).isEmpty || !(core d c).vec.isEmpty || !(core d c).mov.isEmpty ||
      (r.last && !drainDone d c r)) = true := by simp [hended, hmat, hvec, hmov, hlast]
  rw [clauseFinish, if_neg (by omega)]
  dsimp only
  rw [hrun]
  dsimp only
  rw [if_neg hwaits, if_neg (show ¬r.last = true by rw [hlast]; decide)]
  exact ⟨_, rfl⟩

theorem clauseFinish_spec {s : State} {c t : Nat} {r : RunSt} (hc : c < 320) (hrun : (core s.dev c).run = some r) (hended : r.ended = true)
    (hlast : r.last = false) (hmat : matOps (core s.dev c) = []) (hvec : (core s.dev c).vec = []) (hmov : (core s.dev c).mov = []) :
    answers (.clauseFinish c t) s fun d => (core d c).run = none ∧
        getR d (SC_CLAUSE_CYC c) = max (r.lastRet + 1) r.cyc % 2 ^ 32 ∧ getF d (SC_STATUS c) SC_STATUS_RUNNING = 0 ∧ sameMem s.dev d := by
  obtain ⟨m, heq⟩ := clauseFinish_eq t hc hrun hended hlast hmat hvec hmov
  refine answers_of_act (f := clauseFinish c t) rfl ⟨?_, ?_, ?_, sameMem_of_mem_eq (clauseFinish_mem c t s.dev)⟩
  all_goals rw [heq]
  · obtain ⟨l, a, f, hcore⟩ := core_setActivity (finishRegs (setR (setR s.dev (SC_CLAUSE_CYC c) (max (r.lastRet + 1) r.cyc))
      (SC_MARGIN_MIN c) m) c r (max (r.lastRet + 1) r.cyc)) c (max (r.lastRet + 1) r.cyc)
    rw [hcore]
    exact finishRegs_run _ c r _
  · rw [getR_setActivity _ _ _ (by rw [SC_CLAUSE_CYC, CL_NOTE]; omega) (by rw [SC_CLAUSE_CYC, CL_BALLAST]; omega),
      getR_finishRegs _ _ _ _ (by rw [SC_CLAUSE_CYC, SC_STATUS]; omega) (by rw [SC_CLAUSE_CYC, CL_WAIT]; omega)
        (by rw [SC_CLAUSE_CYC, CL_STATUS]; omega), getR_setR_ne _ _ (by rw [SC_CLAUSE_CYC, SC_MARGIN_MIN]; omega), getR_setR_self]
  · rw [getF_setActivity _ _ _ _ (by rw [SC_STATUS, CL_NOTE]; omega) (by rw [SC_STATUS, CL_BALLAST]; omega), getF_running_finishRegs]

/-- An abandoned clause leaves its core with nothing running and nothing in its pipes. -/
theorem core_abandon (d : Dev) (c t : Nat) (poison : Bool) : (core (abandon d c t poison) c).run = none ∧
    matOps (core (abandon d c t poison) c) = [] ∧ (core (abandon d c t poison) c).vec = [] ∧ (core (abandon d c t poison) c).mov = [] := by
  rw [abandon]
  generalize hg : (fun k : CoreSt => { k with run := none, group := [], half0 := [], half1 := [], vec := [], mov := [], gpend := [] }) = g
  generalize hmod : modCore _ c g = d1
  generalize he : setF (setF (setF d1 _ _ _) _ _ _) _ _ _ = e
  obtain ⟨l, a, f, hcore⟩ := core_setActivity e c t
  obtain ⟨k, hk⟩ : ∃ k, core e c = g k := ⟨_, by
    rw [core_congr (show e.cores = d1.cores by rw [← he]; rfl), ← hmod]
    exact core_modCore_self _ c g⟩
  rw [hcore, hk, ← hg]
  exact ⟨rfl, rfl, rfl, rfl⟩

/-- A clause fault ends its clause. -/
theorem illegalBundle_eq {d : Dev} {c : Nat} (t : Nat) {r : RunSt} {f : Fld} (hc : c < 320) (hheld : issueHeld d c = false)
    (hrun : (core d c).run = some r) (hview : view d c = .fault f) :
    illegalBundle c t d = abandon (coreFault d c (CL_FAULT c) f (clauseEv c r)) c t true := by
  rw [illegalBundle, hheld, Bool.or_false, if_neg (by simpa using hc), hview, hrun]

/-- Settles O29: a start, a finish and a fault of a clause. -/
theorem clausesStartRunAndEnd : Obligations.ClausesStartRunAndEnd := by
  unfold Obligations.ClausesStartRunAndEnd
  intro s c t fill start rep r f hc
  refine ⟨clauseStart_spec hc, clauseFinish_spec hc, fun hheld hrun hview => ?_⟩
  refine answers_of_act (f := illegalBundle c t) rfl ?_
  rw [illegalBundle_eq t hc hheld hrun hview]
  exact ⟨rfl, core_abandon _ c t true⟩

end Sys2Proof.Machine
end

section
/-!
PROOFS. Sync objects (R320): an object's entry after a write, and an increment that does not reach its target.
-/
namespace Sys2Proof.Machine
open Safety

/-- A field inside the low n bits. -/
theorem bits_mod_two_pow {x lo w n : Nat} (h : lo + w ≤ n) : bits (x % 2 ^ n) lo w = bits x lo w := by
  apply Nat.eq_of_testBit_eq
  intro i
  rw [testBit_bits, testBit_bits, Nat.testBit_mod_two_pow]
  by_cases hi : i < w
  · rw [decide_eq_true (show lo + i < n by omega), Bool.true_and]
  · rw [decide_eq_false hi, Bool.false_and, Bool.false_and]

/-- Four words written from an address read back as one 128-bit number. -/
theorem getWords_setWords_four (d : Dev) (a v : Nat) : getWords (setWords d a 4 v) a 4 = v % 2 ^ 128 := by
  have hne : ∀ {i j : Nat}, i ≠ j → a + 4 * i ≠ a + 4 * j := by omega
  simp only [getWords, setWords, List.range, List.range.loop, List.foldl]
  simp only [getR_setR_self, getR_setR_ne _ _ (hne (show 0 ≠ 1 by decide)), getR_setR_ne _ _ (hne (show 0 ≠ 2 by decide)),
    getR_setR_ne _ _ (hne (show 0 ≠ 3 by decide)), getR_setR_ne _ _ (hne (show 1 ≠ 2 by decide)),
    getR_setR_ne _ _ (hne (show 1 ≠ 3 by decide)), getR_setR_ne _ _ (hne (show 2 ≠ 3 by decide)),
    Nat.shiftLeft_eq, Nat.shiftRight_eq_div_pow]
  omega

theorem objEntry_setObj (d : Dev) (o v : Nat) : objEntry (setObj d o v) o = v % 2 ^ 128 := getWords_setWords_four d _ v

/-- The count of an object written: its count field takes the value, its target stands. -/
theorem oCount_setCount (d : Dev) (o e n : Nat) : oCount (objEntry (setObj d o (insBits e 0 32 n)) o) = n % 2 ^ 32 := by
  rw [objEntry_setObj, oCount, bits_mod_two_pow (by decide), bits_insBits_self]

theorem oTarget_setCount (d : Dev) (o e n : Nat) : oTarget (objEntry (setObj d o (insBits e 0 32 n)) o) = oTarget e := by
  rw [objEntry_setObj, oTarget, bits_mod_two_pow (by decide), bits_insBits_apart _ _ _ _ _ _ (by decide), oTarget]

/-- With no sync message waiting, none leaves. -/
theorem flushSync_eq_self {d : Dev} (h : d.syncOut = []) : flushSync d = d := by
  have hsame : { d with syncOut := [] } = d := by rw [← h]
  rw [flushSync, h, List.foldl_nil, hsame, ite_self]

/-- The oldest increment of its source to its object arrives. -/
theorem syncIncrement_of_first {d : Dev} {n : Nat} {i : SyncInc} (hn : d.syncFlight[n]? = some i)
    (hfirst : (d.syncFlight.take n).any (fun j => j.src == i.src && j.obj == i.obj) = false) :
    syncIncrement n d = applyInc { d with syncFlight := d.syncFlight.eraseIdx n } i := by
  rw [syncIncrement, hn]
  dsimp only
  rw [hfirst, if_neg Bool.false_ne_true]

/-- An increment of its object's context that stays below the target adds to the count and does no more. -/
theorem applyInc_below_target {d : Dev} {i : SyncInc} (hobj : i.obj < 16384) (hlive : baseLost d (i.obj / 256) = false)
    (hctx : i.ctx = oCtx (objEntry d i.obj)) (hlt : oCount (objEntry d i.obj) + i.amt < oTarget (objEntry d i.obj)) :
    applyInc d i = setObj d i.obj (insBits (objEntry d i.obj) 0 32 (oCount (objEntry d i.obj) + i.amt)) := by
  have htarget : oTarget (objEntry d i.obj) < 2 ^ 32 := Nat.mod_lt _ (by decide)
  have hreach : objReached (setObj d i.obj (insBits (objEntry d i.obj) 0 32 (oCount (objEntry d i.obj) + i.amt))) i.obj = false := by
    rw [objReached, oCount_setCount, oTarget_setCount, Nat.mod_eq_of_lt (by omega), decide_eq_false (by omega), Bool.and_false]
  rw [applyInc, if_neg (by rw [hlive, nObjs]; simpa using hobj)]
  dsimp only
  rw [if_neg (by simp [hctx]), Nat.min_eq_left (by omega), if_neg (show ¬0xFFFFFFFF < oCount (objEntry d i.obj) + i.amt by omega), hreach, Bool.false_and, if_neg Bool.false_ne_true]

/-- An increment of another context is a fault of the object. -/
theorem applyInc_other_ctx {d : Dev} {i : SyncInc} (hobj : i.obj < 16384) (hlive : baseLost d (i.obj / 256) = false)
    (hremote : i.remote = false) (hctx : i.ctx ≠ oCtx (objEntry d i.obj)) (hfrom : i.fromObj = none) :
    applyInc d i = syncFault d i.obj SYNC_FAULT_CTX 93 i.ctx i.fill := by
  rw [applyInc, if_neg (by rw [hlive, nObjs]; simpa using hobj)]
  dsimp only
  rw [if_pos (by simp [hremote, hctx]), hfrom]

theorem setObj_syncOut (d : Dev) (o v : Nat) : (setObj d o v).syncOut = d.syncOut := setWords_syncOut d _ 4 v

theorem syncFault_syncOut (d : Dev) (o : Nat) (f : Fld) (b ctx : Nat) (fill : Bool) : (syncFault d o f b ctx fill).syncOut = d.syncOut := by
  rw [syncFault, report_syncOut, apply_ite Dev.syncOut, setB_syncOut, ite_self]
  exact setObj_syncOut d _ _

/-- The oldest increment of its source to its object arrives; no sync message waits to leave. -/
theorem syncIncrement_becomes {s : State} {n : Nat} {i : SyncInc} {e : Dev} (hn : s.dev.syncFlight[n]? = some i)
    (hfirst : (s.dev.syncFlight.take n).any (fun j => j.src == i.src && j.obj == i.obj) = false)
    (harrive : applyInc { s.dev with syncFlight := s.dev.syncFlight.eraseIdx n } i = e) (hout : e.syncOut = []) :
    becomes (.syncIncrement n) s e := by
  refine becomes_of_act (f := fun d => flushSync (syncIncrement n d)) rfl ?_
  rw [syncIncrement_of_first hn hfirst, harrive, flushSync_eq_self hout]

/-- Settles O34: an increment that arrives adds to the count, or is a fault of its object. -/
theorem syncIncrementsAddToTheirObject : Obligations.SyncIncrementsAddToTheirObject := by
  unfold Obligations.SyncIncrementsAddToTheirObject
  intro s n i hn hout hfirst hobj hlive
  refine ⟨fun hctx hlt => ?_, fun hremote hctx hfrom => ?_⟩
  · exact syncIncrement_becomes hn hfirst (applyInc_below_target hobj hlive hctx hlt) ((setObj_syncOut _ _ _).trans hout)
  · exact syncIncrement_becomes hn hfirst (applyInc_other_ctx hobj hlive hremote hctx hfrom)
      ((syncFault_syncOut _ _ _ _ _ _).trans hout)

end Sys2Proof.Machine
end

section
/-!
PROOFS. The end of a step (R275, R276, R290): what writes the step registers and what leaves them.
-/
namespace Sys2Proof.Machine
open Safety

/- A 64-bit register pair -/

theorem get64_eq_add (d : Dev) (lo hi : Nat) : get64 d lo hi = getR d lo + getR d hi <<< 32 := by
  delta get64
  rfl

theorem get64_congr {d e : Dev} {lo hi : Nat} (hlo : getR e lo = getR d lo) (hhi : getR e hi = getR d hi) :
    get64 e lo hi = get64 d lo hi := by
  rw [get64_eq_add, get64_eq_add, hlo, hhi]

theorem set64_eq_setR (d : Dev) (lo hi v : Nat) : set64 d lo hi v = setR (setR d lo v) hi (v >>> 32) := by
  delta set64
  rfl

theorem get64_set64 (d : Dev) {lo hi : Nat} (v : Nat) (h : lo ≠ hi) : get64 (set64 d lo hi v) lo hi = v % 2 ^ 64 := by
  simp only [get64_eq_add, set64_eq_setR, getR_setR_self, getR_setR_ne _ _ h, Nat.shiftLeft_eq, Nat.shiftRight_eq_div_pow]
  omega

theorem getR_set64_ne (d : Dev) {lo hi a : Nat} (v : Nat) (hlo : a ≠ lo) (hhi : a ≠ hi) : getR (set64 d lo hi v) a = getR d a := by
  rw [set64_eq_setR, getR_setR_ne _ _ hhi, getR_setR_ne _ _ hlo]

/- The registers of the step -/

/-- Each step register up to STEP_LAST reads in e as it does in d. -/
def SameStep (d e : Dev) : Prop := ∀ a, 0x40000 ≤ a → a < 0x4001C → getR e a = getR d a

namespace SameStep

theorem refl (d : Dev) : SameStep d d := fun _ _ _ => rfl

theorem trans {d e f : Dev} (h : SameStep d e) (g : SameStep e f) : SameStep d f := fun a hl hh => (g a hl hh).trans (h a hl hh)

theorem of_regs_eq {d e : Dev} (h : e.regs = d.regs) : SameStep d e := fun a _ _ => getR_congr h a

theorem setR (d : Dev) {b : Nat} (v : Nat) (hb : b < 0x40000 ∨ 0x4001C ≤ b) : SameStep d (setR d b v) :=
  fun a hl hh => getR_setR_ne d v (by omega)

theorem setF (d : Dev) {b : Nat} (f : Fld) (v : Nat) (hb : b < 0x40000 ∨ 0x4001C ≤ b) : SameStep d (setF d b f v) := setR d _ hb

theorem setB (d : Dev) {b : Nat} (f : Fld) (v : Bool) (hb : b < 0x40000 ∨ 0x4001C ≤ b) : SameStep d (setB d b f v) := setR d _ hb

theorem foldl {β : Type} {g : Dev → β → Dev} (h : ∀ d x, SameStep d (g d x)) (l : List β) (d : Dev) : SameStep d (l.foldl g d) :=
  List.foldlRecOn l g (refl d) fun e he x _ => he.trans (h e x)

theorem get64_eq {d e : Dev} (h : SameStep d e) {lo hi : Nat} (hlo : 0x40000 ≤ lo ∧ lo < 0x4001C) (hhi : 0x40000 ≤ hi ∧ hi < 0x4001C) :
    get64 e lo hi = get64 d lo hi := by
  exact get64_congr (h lo hlo.1 hlo.2) (h hi hhi.1 hhi.2)

theorem stepNo_eq {d e : Dev} (h : SameStep d e) : stepNo e = stepNo d :=
  h.get64_eq (lo := STEP_COUNT_LO) (hi := STEP_COUNT_HI) ⟨by unfold STEP_COUNT_LO; omega, by unfold STEP_COUNT_LO; omega⟩
    ⟨by unfold STEP_COUNT_HI; omega, by unfold STEP_COUNT_HI; omega⟩

theorem epoch_eq {d e : Dev} (h : SameStep d e) : get64 e STEP_EPOCH_LO STEP_EPOCH_HI = get64 d STEP_EPOCH_LO STEP_EPOCH_HI :=
  h.get64_eq ⟨by unfold STEP_EPOCH_LO; omega, by unfold STEP_EPOCH_LO; omega⟩
    ⟨by unfold STEP_EPOCH_HI; omega, by unfold STEP_EPOCH_HI; omega⟩

theorem last_eq {d e : Dev} (h : SameStep d e) (f : Fld) : getF e STEP_LAST f = getF d STEP_LAST f := by
  rw [getF, getF, h STEP_LAST (by unfold STEP_LAST; omega) (by unfold STEP_LAST; omega)]

/- What the end of a step does besides -/

theorem setObj (d : Dev) (o v : Nat) : SameStep d (setObj d o v) := by
  refine foldl (fun d i => setR d _ (.inr ?_)) _ d
  rw [objAddr, SYNC_OBJ]
  omega

theorem stepResetObjs (d : Dev) (ctx : Nat) : SameStep d (stepResetObjs d ctx) :=
  foldl (fun d o => by
    dsimp only
    split
    · exact setObj d o _
    · exact refl d) _ d

theorem queueAt (d : Dev) {status : Nat} (qlen : Nat) (st cur len : Fld) (n : Nat) (h : 0x4001C ≤ status) :
    SameStep d (queueAt d status qlen st cur len n) := by
  rw [Machine.queueAt]
  split
  · exact setF d _ _ (.inr h)
  · exact (setF d _ _ (.inr h)).trans (setF _ _ _ (.inr h))

theorem modEng (d : Dev) (k e : Nat) (f : Eng → Eng) : SameStep d (modEng d k e f) := of_regs_eq (modEdge_regs d k _)

theorem rdxAt (d : Dev) (k n : Nat) : SameStep d (rdxAt d k n) :=
  (modEng d k 0 _).trans (queueAt _ _ _ _ _ _ (by rw [RDX_STATUS]; omega))

theorem xferAt (d : Dev) (k n : Nat) : SameStep d (xferAt d k n) :=
  (modEng d k 2 _).trans (queueAt _ _ _ _ _ _ (by rw [XFER_STATUS]; omega))

theorem xchAt (d : Dev) (k n : Nat) : SameStep d (xchAt d k n) :=
  (modEng d k 3 _).trans (queueAt _ _ _ _ _ _ (by rw [XCH_STATUS]; omega))

theorem orphan (d : Dev) : SameStep d (orphan d) :=
  trans (e := { d with fab := { d.fab with outst := d.fab.outst.map (fun o => { o with eng := 8 + o.eng % 8 }) } }) (of_regs_eq rfl)
    (foldl (fun d k => of_regs_eq (modEdge_regs d k _)) _ _)

theorem restartQueues (d : Dev) : SameStep d (restartQueues d) :=
  (orphan d).trans (foldl (fun d k => by
    dsimp only
    split
    · exact ((rdxAt d k 0).trans (xferAt _ k 0)).trans (xchAt _ k 0)
    · exact (rdxAt d k 0).trans (xferAt _ k 0)) _ _)

theorem dropWaiter (d : Dev) (o who : Nat) : SameStep d (dropWaiter d o who) := by
  have hsync : ∀ e : Dev, SameStep e (syncWaiters e o) := fun e => setF e _ _ (.inr (by unfold SYNC_WAITERS; omega))
  exact trans (e := { d with waits := d.waits.filter (fun w => w != (o, who)) }) (of_regs_eq rfl) (hsync _)

theorem ueUnwait (d : Dev) (t : Nat) : SameStep d (ueUnwait d t) := by
  rw [Machine.ueUnwait]
  refine foldl (fun e w => ?_) _ d
  exact dropWaiter e w.1 w.2

theorem uesIdle (d : Dev) : SameStep d (uesIdle d) :=
  foldl (fun d t => by
    have hstatus : 0x4001C ≤ UE_STATUS t := by unfold UE_STATUS; omega
    split
    · exact refl d
    · exact (((ueUnwait d t).trans (of_regs_eq rfl)).trans (setF _ _ _ (.inr hstatus))).trans (setB _ _ _ (.inr hstatus))) _ d

theorem verdictOver (d : Dev) : SameStep d (verdictOver d) := (of_regs_eq rfl).trans (setF (setVerd d _) _ _ (.inr (by decide)))

theorem postCq (d : Dev) (kind status tag value detail vec : Nat) : SameStep d (postCq d kind status tag value detail vec) := by
  have hactive : SameStep d (if kind = 1 then Machine.setF d HIF_PAN_ACTIVE HIF_PAN_ACTIVE_COUNT
      (getF d HIF_PAN_ACTIVE HIF_PAN_ACTIVE_COUNT - 1) else d) := by
    split
    · exact setF d _ _ (.inl (by decide))
    · exact refl d
  refine hactive.trans ?_
  rw [Machine.postCq]
  generalize (if kind = 1 then Machine.setF d HIF_PAN_ACTIVE HIF_PAN_ACTIVE_COUNT (getF d HIF_PAN_ACTIVE HIF_PAN_ACTIVE_COUNT - 1)
    else d) = e
  split
  · exact trans (e := { e with cqQueue := _ }) (of_regs_eq rfl) (setF _ _ _ (.inl (by decide)))
  · split
    · exact setR e _ (.inl (by decide))
    · exact of_regs_eq rfl

theorem nextOfRequest (d : Dev) : SameStep d (nextOfRequest d) := by
  rw [Machine.nextOfRequest]
  split
  · exact refl d
  · split
    · exact of_regs_eq rfl
    · exact (of_regs_eq rfl).trans (postCq _ _ _ _ _ _ _)

theorem advanceBias (d : Dev) : SameStep d (advanceBias d) :=
  foldl (fun d n => by
    dsimp only
    split
    · exact refl d
    · exact of_regs_eq rfl) _ d

theorem stopHold (d : Dev) : SameStep d (stopHold d) := (of_regs_eq rfl).trans (setB (setMem d _) _ _ (.inr (by decide)))

end SameStep

/- The step's end -/

/-- A step's count leaves the step number, the last verdict and the attempt. -/
theorem getR_countStep (d : Dev) (commit : Bool) {a : Nat} (ha : 0x40008 ≤ a ∧ a < 0x4001C) (hlo : a ≠ STEP_APPLIED_LO)
    (hhi : a ≠ STEP_APPLIED_HI) : getR (countStep d commit) a = getR d a := by
  cases commit with
  | false => exact SameStep.setR d _ (.inr (by decide)) a (by omega) ha.2
  | true =>
    rw [countStep, if_pos rfl]
    refine (SameStep.advanceBias _ a (by omega) ha.2).trans ?_
    rw [getR_set64_ne _ _ hlo hhi, getR_set64_ne _ _ (by unfold STEP_EPOCH_LO; omega) (by unfold STEP_EPOCH_HI; omega)]

theorem stepNo_countStep (d : Dev) (commit : Bool) : stepNo (countStep d commit) = stepNo d := by
  exact get64_congr (getR_countStep d commit (by decide) (by decide) (by decide))
    (getR_countStep d commit (by decide) (by decide) (by decide))

/-- The committed-step epoch counts the steps that commit. -/
theorem epoch_countStep (d : Dev) (commit : Bool) (h : get64 d STEP_EPOCH_LO STEP_EPOCH_HI + 1 < 2 ^ 64) :
    get64 (countStep d commit) STEP_EPOCH_LO STEP_EPOCH_HI = get64 d STEP_EPOCH_LO STEP_EPOCH_HI + if commit then 1 else 0 := by
  cases commit with
  | false =>
    rw [countStep, if_neg Bool.false_ne_true, if_neg Bool.false_ne_true]
    have hskip : SameStep d (setR d STEP_SKIPS (getR d STEP_SKIPS + 1)) := SameStep.setR d _ (.inr (by decide))
    exact hskip.epoch_eq.trans (Nat.add_zero _).symm
  | true =>
    rw [countStep, if_pos rfl, if_pos rfl, (SameStep.advanceBias _).epoch_eq]
    refine (get64_congr (getR_set64_ne _ _ (by decide) (by decide)) (getR_set64_ne _ _ (by decide) (by decide))).trans ?_
    rw [get64_set64 _ _ (by decide)]
    exact Nat.mod_eq_of_lt h

/-- The end of a step counts it, and sets the attempt to 0. -/
theorem closeStep_spec (d : Dev) (ctx : Nat) (h : stepNo d + 1 < 2 ^ 64) :
    stepNo (closeStep d ctx) = stepNo d + 1 ∧ (closeStep d ctx).inStep = false ∧ getF (closeStep d ctx) STEP_LAST STEP_LAST_ATTEMPT = 0 ∧
      get64 (closeStep d ctx) STEP_EPOCH_LO STEP_EPOCH_HI = get64 d STEP_EPOCH_LO STEP_EPOCH_HI := by
  have hbefore : SameStep d (restartQueues (stepResetObjs d ctx)) := (SameStep.stepResetObjs d ctx).trans (SameStep.restartQueues _)
  generalize hd3 : restartQueues (stepResetObjs d ctx) = d3 at hbefore
  have hafter : SameStep (setF (set64 d3 STEP_COUNT_LO STEP_COUNT_HI (stepNo d3 + 1)) STEP_LAST STEP_LAST_ATTEMPT 0) (closeStep d ctx) := by
    rw [closeStep, hd3]
    exact ((SameStep.verdictOver _).trans (SameStep.uesIdle _)).trans (SameStep.of_regs_eq rfl)
  refine ⟨?_, rfl, ?_, ?_⟩
  · rw [hafter.stepNo_eq]
    refine (get64_congr (getR_setR_ne _ _ (by decide)) (getR_setR_ne _ _ (by decide))).trans ?_
    rw [get64_set64 _ _ (by decide), hbefore.stepNo_eq]
    exact Nat.mod_eq_of_lt h
  · rw [hafter.last_eq, getF_setF_self _ _ _ _ (by decide), Nat.zero_mod]
  · rw [hafter.epoch_eq]
    refine (get64_congr (getR_setR_ne _ _ (by decide)) (getR_setR_ne _ _ (by decide))).trans ?_
    exact (get64_congr (getR_set64_ne _ _ (by decide) (by decide)) (getR_set64_ne _ _ (by decide) (by decide))).trans hbefore.epoch_eq

theorem nextOfRequest_inStep (d : Dev) : (nextOfRequest d).inStep = d.inStep := by
  rw [nextOfRequest]
  split
  · rfl
  · split
    · rfl
    · exact postCq_inStep _ _ _ _ _ _ _

/-- A step that commits or is skipped. -/
theorem endStep_spec (d : Dev) (code attempt : Nat) (hno : stepNo d + 1 < 2 ^ 64) (hepoch : get64 d STEP_EPOCH_LO STEP_EPOCH_HI + 1 < 2 ^ 64) :
    stepNo (endStep d code attempt) = stepNo d + 1 ∧ (endStep d code attempt).inStep = false ∧
      getF (endStep d code attempt) STEP_LAST STEP_LAST_ATTEMPT = 0 ∧
      get64 (endStep d code attempt) STEP_EPOCH_LO STEP_EPOCH_HI = get64 d STEP_EPOCH_LO STEP_EPOCH_HI + if code = 1 then 1 else 0 := by
  have hrecord : SameStep (countStep d (code == 1)) (stepRecord (countStep d (code == 1)) (code == 1) code attempt) := SameStep.postCq _ _ _ _ _ _ _
  have hcount : stepNo (stepRecord (countStep d (code == 1)) (code == 1) code attempt) = stepNo d := by
    rw [hrecord.stepNo_eq, stepNo_countStep]
  obtain ⟨hno', hin, hattempt, hepoch'⟩ :=
    closeStep_spec (stepRecord (countStep d (code == 1)) (code == 1) code attempt) (d.res.fg.getD 0) (hcount.symm ▸ hno)
  have hnext := SameStep.nextOfRequest (closeStep (stepRecord (countStep d (code == 1)) (code == 1) code attempt) (d.res.fg.getD 0))
  rw [endStep]
  refine ⟨?_, ?_, ?_, ?_⟩
  · rw [hnext.stepNo_eq, hno', hcount]
  · rw [nextOfRequest_inStep, hin]
  · rw [hnext.last_eq, hattempt]
  · rw [hnext.epoch_eq, hepoch', hrecord.epoch_eq, epoch_countStep d _ hepoch]
    simp only [beq_iff_eq]

/-- Showing a verdict leaves the step number and the epoch. -/
theorem showVerdict_keeps (d : Dev) (v : Nat) (w : Bool) :
    stepNo (setB (setF (stopHold d) STEP_LAST STEP_LAST_VERDICT v) STEP_LAST STEP_LAST_SCOPE w) = stepNo d ∧
      get64 (setB (setF (stopHold d) STEP_LAST STEP_LAST_VERDICT v) STEP_LAST STEP_LAST_SCOPE w) STEP_EPOCH_LO STEP_EPOCH_HI =
        get64 d STEP_EPOCH_LO STEP_EPOCH_HI := by
  have hlast : ∀ {a}, a ≠ STEP_LAST → getR (setB (setF (stopHold d) STEP_LAST STEP_LAST_VERDICT v) STEP_LAST STEP_LAST_SCOPE w) a =
      getR (stopHold d) a := fun h => (getR_setR_ne _ _ h).trans (getR_setR_ne _ _ h)
  exact ⟨(get64_congr (hlast (by decide)) (hlast (by decide))).trans (SameStep.stopHold d).stepNo_eq,
    (get64_congr (hlast (by decide)) (hlast (by decide))).trans (SameStep.stopHold d).epoch_eq⟩

/-- Settles O60: the verdict is shown, and the step ends. -/
theorem stepNumberAdvancesAtCommitAndSkip : Obligations.StepNumberAdvancesAtCommitAndSkip := by
  unfold Obligations.StepNumberAdvancesAtCommitAndSkip
  intro d r hended hno hepoch hcode
  rw [applyVerdict, hended, if_neg Bool.false_ne_true]
  dsimp only
  rw [if_pos hcode]
  obtain ⟨hno', hepoch'⟩ := showVerdict_keeps d (vrVerdict r) (vrVerdict r == 4 && !bit r 3)
  have hend := endStep_spec (setB (setF (stopHold d) STEP_LAST STEP_LAST_VERDICT (vrVerdict r)) STEP_LAST STEP_LAST_SCOPE
    (vrVerdict r == 4 && !bit r 3)) (vrVerdict r) (getF d STEP_LAST STEP_LAST_ATTEMPT) (hno'.symm ▸ hno) (hepoch'.symm ▸ hepoch)
  rwa [hno', hepoch'] at hend

end Sys2Proof.Machine
end

section
/-!
PROOFS. A Cellar row stored and read back (R237, R242, R243): plaintext rows of an unmapped chunk of a working stack.
-/
namespace Sys2Proof.Machine
open Safety

theorem ccCrypt_tag_zero (d : Dev) (decrypt : Bool) (addr v : Nat) : ccCrypt d decrypt 0 addr v = v := rfl

/-- An unmapped chunk is where its rows say. -/
theorem chunk_ofs (ofs : Nat) : ofs / chunkSize * chunkSize + ofs % chunkSize = ofs := Nat.div_add_mod' ofs chunkSize

/- A row written -/

theorem cellarWrite_eq {d : Dev} {n ofs : Nat} (row : FRow) (hn : n < 128) (hofs : ofs < stackSize)
    (hchunk : ccChunk d n ofs { tag := 0 } true = some (ofs / chunkSize)) (hlost : stackLost d n = false)
    (htag : chunkTag d n (ofs / chunkSize) = 0) :
    cellarWrite n ofs 0 false row d = ccStore d (cellarAddr n ofs) row.data.toNat row.poison := by
  have hwrite : (ccWrite d n ofs row { tag := 0 }).2 = ccStore d (cellarAddr n ofs) row.data.toNat row.poison := by
    rw [ccWrite, hchunk]
    dsimp only
    rw [hlost, htag, if_neg Bool.false_ne_true]
    simp only [Bool.and_false, if_neg Bool.false_ne_true, ccCrypt_tag_zero, chunk_ofs]
  rw [cellarWrite, if_neg (by omega)]
  exact hwrite

theorem ccStore_mem (d : Dev) (phys v : Nat) (poison : Bool) : (ccStore d phys v poison).mem = (writeMem d phys 128 v).mem := rfl

theorem rowMetaAt_ccStore (d : Dev) (phys v : Nat) (poison : Bool) :
    (rowMetaAt (ccStore d phys v poison) phys).chk = BitVec.ofNat 128 (rowCheck v poison) := by
  have h : rowMetaAt (ccStore d phys v poison) phys = { (rowMetaAt d phys) with chk := BitVec.ofNat 128 (rowCheck v poison) } :=
    Tbl.get_put_self _ _ _ _
  rw [h]

/- A clean row read -/

theorem upsetRow_zero (d : Dev) (phys : Nat) : upsetRow d phys 0 = d := if_pos rfl

/-- A row of clean codewords is delivered as it stands. -/
theorem ccFetch_clean {d : Dev} {phys : Nat} (n : Nat) (src : Src) (scrub : Bool)
    (h : (rowClasses (readMem d phys 128) (rowMetaAt d phys).chk.toNat).all (· == .clean) = true) :
    ccFetch d n phys src scrub = ((readMem d phys 128, false), d) := by
  rw [ccFetch]
  dsimp only
  generalize rowClasses (readMem d phys 128) (rowMetaAt d phys).chk.toNat = cls at h
  have hclean : ∀ x ∈ cls, x = .clean := fun x hx => beq_iff_eq.1 (List.all_eq_true.1 h x hx)
  have hany : cls.any isUncorr = false := List.any_eq_false.2 fun x hx => by rw [hclean x hx]; decide
  have hpoison : cls.contains .poison = false := by
    rw [List.contains_eq_any_beq]
    exact List.any_eq_false.2 fun x hx => by rw [hclean x hx]; decide
  have hsyms : (cls.zip (List.range 4)).filter (fun c => (symOf c.1).isSome) = [] :=
    List.filter_eq_nil_iff.2 fun c hc => by rw [hclean c.1 (List.of_mem_zip hc).1]; decide
  rw [hany, hpoison, hsyms]
  rfl

theorem cellarRead_clean {d : Dev} {n ofs : Nat} (hn : n < 128) (hofs : ofs < stackSize)
    (hchunk : ccChunk d n ofs { tag := 0 } false = some (ofs / chunkSize)) (hlost : stackLost d n = false)
    (htag : chunkTag d n (ofs / chunkSize) = 0)
    (h : (rowClasses (readMem d (cellarAddr n ofs) 128) (rowMetaAt d (cellarAddr n ofs)).chk.toNat).all (· == .clean) = true) :
    cellarRead n ofs 0 0 d = { d with ccLast := d.ccLast.put n { data := BitVec.ofNat 1024 (readMem d (cellarAddr n ofs) 128), poison := false } {} } := by
  have hread : ccRead d n ofs { tag := 0 } = (some { data := BitVec.ofNat 1024 (readMem d (cellarAddr n ofs) 128), poison := false }, d) := by
    rw [ccRead, hchunk]
    dsimp only
    rw [hlost, htag, chunk_ofs, ccFetch_clean n _ _ h]
    rfl
  rw [cellarRead, if_neg (by omega)]
  dsimp only
  rw [hchunk]
  dsimp only
  rw [upsetRow_zero, hread]

/-- Settles O37: a row is stored as it is given, and a clean row read as it stands. -/
theorem cellarRowsAreStoredAndReadBack : Obligations.CellarRowsAreStoredAndReadBack := by
  unfold Obligations.CellarRowsAreStoredAndReadBack
  intro s n ofs a row hn hofs _ hwrite hread hlost htag
  refine ⟨answers_of_act (f := cellarWrite n ofs 0 false row) rfl ?_, fun hclean => answers_of_act (f := cellarRead n ofs 0 0) rfl ?_⟩
  · rw [cellarWrite_eq row hn hofs hwrite hlost htag]
    have hmem := readByte_congr (ccStore_mem s.dev (cellarAddr n ofs) row.data.toNat row.poison) a
    exact ⟨fun hlo hhi => hmem.trans (readByte_writeMem_in s.dev _ ⟨hlo, hhi⟩),
      fun hout => hmem.trans (readByte_writeMem_out s.dev _ hout), rowMetaAt_ccStore _ _ _ _⟩
  · rw [cellarRead_clean hn hofs hread hlost htag hclean]
    exact ⟨sameMem_of_mem_eq rfl, Tbl.get_put_self _ _ _ _⟩

end Sys2Proof.Machine
end

section
/-!
PROOFS. The Update Engine's shards (R266, R267, R272, R273).
-/
namespace Sys2Proof.Machine
open Safety

theorem ueSt_modUe_self (d : Dev) (t : Nat) (f : UeSt → UeSt) : ueSt (modUe d t f) t = f (ueSt d t) := Tbl.get_put_self _ _ _ _

/-- What a row write of array a answers: it did not write, or the array counts one row more. -/
def CountsRow (d : Dev) (t a : Nat) (r : Bool × Dev) : Prop :=
  r.1 = false ∨ (ueSt r.2 t).rows.get a 0 = (ueSt d t).rows.get a 0 + 1

theorem loftWrite_countsRow (d : Dev) (t a : Nat) : CountsRow d t a (loftWrite d t a) := by
  rw [loftWrite]
  refine iteInduction (motive := CountsRow d t a) (fun _ => .inl rfl) fun _ => ?_
  refine iteInduction (motive := CountsRow d t a) (fun h => .inl (by simpa using h)) fun _ => ?_
  refine iteInduction (motive := CountsRow d t a) (fun _ => .inl rfl) fun _ => .inr ?_
  rw [ueSt_modUe_self]
  exact Tbl.get_put_self _ _ _ _

theorem rows_loftWrite {d : Dev} {t a : Nat} (h : (loftWrite d t a).1 = true) :
    (ueSt (loftWrite d t a).2 t).rows.get a 0 = (ueSt d t).rows.get a 0 + 1 :=
  (loftWrite_countsRow d t a).resolve_left (by rw [h]; decide)

theorem ueLoftWrite_eq {d : Dev} {t : Nat} (a n : Nat) (ht : t < 64) (hlive : baseLost d t = false) : ueLoftWrite t a n d = loftWrites t a n d :=
  if_neg (by simp [hlive, ht])

theorem loftWrites_one {d : Dev} {t a : Nat} (h : (loftWrite d t a).1 = true) : loftWrites t a 1 d = (loftWrite d t a).2 := if_pos h

/-- The fault of an interrupted shard set, and the retry counted. -/
def retried (d : Dev) (t : Nat) (f : Fld) : Dev :=
  setF (setB d (UE_FAULT t) f true) (UE_RETRY t) UE_RETRY_COUNT (satInc 16 (getF (setB d (UE_FAULT t) f true) (UE_RETRY t) UE_RETRY_COUNT))

/-- A first or second interruption redoes the shard. -/
theorem ueInterrupt_redo {d : Dev} {t : Nat} (f : Fld) (htries : (ueSt d t).tries < 2) :
    ueInterrupt d t (some f) = modUe (report (retried d t f) (ueEv (retried d t f) t .none)) t
      (fun u => { u with tries := (ueSt d t).tries + 1, rows := [], norm := 0, dig := 0 }) :=
  if_pos (show (ueSt d t).tries + 1 < 3 by omega)

theorem getB_modUe (d : Dev) (t : Nat) (f : UeSt → UeSt) (a : Nat) (g : Fld) : getB (modUe d t f) a g = getB d a g := rfl

theorem getB_retried (d : Dev) (t : Nat) {f : Fld} (hf : f.lo + f.w ≤ 32) (hw : 0 < f.w) : getB (retried d t f) (UE_FAULT t) f = true := by
  have hne : UE_FAULT t ≠ UE_RETRY t := by
    rw [UE_FAULT, UE_RETRY]
    omega
  rw [getB, retried, getF_setF_reg _ _ _ _ hne]
  exact getB_setB_self d _ f true hf hw

theorem ueSt_report_retried (d : Dev) (t : Nat) (f : Fld) (e : Ev) (k : Nat) : ueSt (report (retried d t f) e) k = ueSt d k := by
  rw [ueSt, report_upd]
  rfl

/-- Settles O39: each command of a shard whose condition stands. -/
theorem updateEngineShards : Obligations.UpdateEngineShards := by
  unfold Obligations.UpdateEngineShards
  intro s t a n ht
  refine ⟨fun hready hwait => ?_, fun hlive => ?_, fun hlive hrow => ?_, fun hbusy hrows => ?_, fun hbusy => ?_⟩
  · refine becomes_of_act (f := ueShardStart t) rfl ?_
    rw [ueShardStart, hready]
    exact if_pos (by rcases hwait with h | h <;> simp [h])
  · exact becomes_of_act (f := ueLoftWrite t a n) rfl (ueLoftWrite_eq a n ht hlive)
  · have heq : ueLoftWrite t a 1 s.dev = (loftWrite s.dev t a).2 := (ueLoftWrite_eq a 1 ht hlive).trans (loftWrites_one hrow)
    refine ⟨becomes_of_act (f := ueLoftWrite t a 1) rfl heq, answers_of_act (f := ueLoftWrite t a 1) rfl ?_⟩
    rw [heq]
    exact rows_loftWrite hrow
  · refine becomes_of_act (f := ueShardDone t) rfl ?_
    refine if_neg ?_
    have hany : ((List.range 7).any fun a => (ueSt s.dev t).rows.get a 0 !=
        arrayRows (curShard s.dev t) (ruleEntry s.dev t (sdRule (curShard s.dev t))) a (shardPanels s.dev (curShard s.dev t))) = false := by
      simpa only [List.all_eq_not_any_not, Bool.not_eq_true', bne] using hrows
    rw [hbusy, hany]
    simpa using ht
  · have heq : ueShardInterrupt t s.dev = ueInterrupt s.dev t (some UE_FAULT_PARITY) := if_pos ⟨ht, hbusy⟩
    refine ⟨becomes_of_act (f := ueShardInterrupt t) rfl heq, fun htries => answers_of_act (f := ueShardInterrupt t) rfl ?_⟩
    rw [heq]
    refine ⟨?_, ?_, ?_, ?_, sameMem_of_mem_eq (ueInterrupt_mem _ _ _)⟩
    all_goals rw [ueInterrupt_redo _ htries]
    · rw [getB_modUe, getB_report, getB_retried _ _ (by decide) (by decide)]
    all_goals rw [ueSt_modUe_self, ueSt_report_retried]
    exact hbusy

end Sys2Proof.Machine
end

section
/-!
PROOFS. Ticks, flits and the pantry timer (R46, R48, R65, R66, R376, R479, R548).
-/
namespace Sys2Proof.Machine
open Safety

/-- What a fold establishes at one element and every step keeps. -/
theorem foldl_mem_establishes {α β : Type} {P Q : α → Prop} {g : α → β → α} {x : β} (hP : ∀ d y, P d → P (g d y)) (hQ : ∀ d y, Q d → Q (g d y))
    (hx : ∀ d, P d → Q (g d x)) {l : List β} (hmem : x ∈ l) {d : α} (hd : P d) : Q (l.foldl g d) := by
  induction l generalizing d with
  | nil => cases hmem
  | cons y l ih =>
    rcases List.mem_cons.1 hmem with rfl | h
    · exact List.foldlRecOn l g (hx d hd) fun e he z _ => hQ e z he
    · exact ih h (hP d y hd)

/- A schedule fault (R66, R69) -/

theorem slotFault_flits (d : Dev) (t port : Nat) (f : Fld) (fill : Bool) : (slotFault d t port f fill).flits = d.flits := by
  rw [slotFault, report_flits, setB_flits]

theorem slotFault_inStep (d : Dev) (t port : Nat) (f : Fld) (fill : Bool) : (slotFault d t port f fill).inStep = d.inStep := by
  rw [slotFault, report_inStep, setB_inStep]

theorem getR_slotFault_ne (d : Dev) {t port a : Nat} (f : Fld) (fill : Bool) (h : a ≠ SLOT_STATUS t) :
    getR (slotFault d t port f fill) a = getR d a := by
  rw [slotFault, getR_report, setB, setF, getR_setR_ne _ _ h]

/-- A drop is shown, and turns the step to RERUN outside a filler. -/
def DropShown (step : Bool) (t : Nat) (d : Dev) : Prop := getB d (SLOT_STATUS t) SLOT_STATUS_DROP = true ∧ (step = true → d.rerunStep = true)

theorem dropShown_slotFault_self {step : Bool} {d : Dev} (t port : Nat) (h : d.inStep = step) :
    DropShown step t (slotFault d t port SLOT_STATUS_DROP false) := by
  rw [slotFault]
  refine ⟨?_, fun hstep => ?_⟩
  · rw [getB_report, getB_setB_self _ _ _ _ (by decide) (by decide)]
  · rw [rerunStep_report rfl rfl, setB_inStep, h, hstep, Bool.or_true]

theorem dropShown_slotFault {step : Bool} {d : Dev} {t : Nat} (k port : Nat) (fill : Bool) (h : DropShown step t d) :
    DropShown step t (slotFault d k port SLOT_STATUS_DROP fill) := by
  obtain ⟨hdrop, hrerun⟩ := h
  rw [slotFault]
  refine ⟨?_, fun hstep => rerunStep_report_of _ (hrerun hstep)⟩
  rw [getB_report]
  by_cases hk : k = t
  · rw [hk, getB_setB_self _ _ _ _ (by decide) (by decide)]
  · rw [getB_setB_reg _ _ _ _ (by rw [SLOT_STATUS, SLOT_STATUS]; omega), hdrop]

/-- The drain span ends with no flit in any router. -/
theorem drainSpanEnd_flits (d : Dev) : (drainSpanEnd d).flits = [] :=
  foldl_keep Dev.flits _ (fun d _ => slotFault_flits d _ _ _ _) _ _

theorem drainSpanEnd_drops (d : Dev) {f : Flit} (hf : f ∈ d.flits) (hfill : f.fill = false) : DropShown d.inStep f.tile (drainSpanEnd d) := by
  refine foldl_mem_establishes (P := fun e => e.inStep = d.inStep) (Q := DropShown d.inStep f.tile)
    (fun e g he => (slotFault_inStep e _ _ _ _).trans he) (fun e g he => dropShown_slotFault _ _ _ he) (fun e he => ?_) hf rfl
  rw [hfill]
  exact dropShown_slotFault_self f.tile f.port he

/- A node without its tick (R48) -/

/-- Node u marked to be lost at the next stop tick. -/
def tickLost (d : Dev) (u : Nat) : Dev := { d with losePend := if d.losePend.contains u then d.losePend else d.losePend ++ [u] }

theorem mem_tickLost (d : Dev) (u : Nat) : u ∈ (tickLost d u).losePend := by
  rw [tickLost]
  dsimp only
  split
  · rename_i h
    exact List.contains_iff_mem.1 h
  · exact List.mem_append_right _ (List.mem_singleton_self u)

theorem tickFault_of_tile {u : Nat} (d : Dev) (hu : u < 64) : tickFault u d =
    report (setB (tickLost d u) (SLOT_STATUS u) SLOT_STATUS_TICK_FAULT true) { cls := 0x20, kind := 2, unit := u, scope := .step } := by
  rw [tickFault, if_neg (by omega)]
  exact if_pos hu

theorem tickFault_of_edge {u : Nat} (d : Dev) (hlo : 64 ≤ u) (hhi : u < 80) : tickFault u d =
    report (tickLost d u) { cls := 0x20, kind := 5, unit := u - 64, scope := .step } := by
  rw [tickFault, if_neg (by omega)]
  exact if_neg (by omega)

theorem tickFault_spec {d : Dev} {u : Nat} (hu : u < 80) : u ∈ (tickFault u d).losePend ∧
    (u < 64 → getB (tickFault u d) (SLOT_STATUS u) SLOT_STATUS_TICK_FAULT = true) ∧ (d.inStep = true → (tickFault u d).rerunStep = true) := by
  by_cases htile : u < 64
  · rw [tickFault_of_tile d htile]
    refine ⟨?_, fun _ => ?_, fun hstep => ?_⟩
    · rw [report_losePend]
      exact mem_tickLost d u
    · rw [getB_report, getB_setB_self _ _ _ _ (by decide) (by decide)]
    · rw [rerunStep_report rfl rfl]
      exact (congrArg (_ || ·) hstep).trans (Bool.or_true _)
  · rw [tickFault_of_edge d (by omega) hu]
    refine ⟨?_, fun h => absurd h htile, fun hstep => ?_⟩
    · rw [report_losePend]
      exact mem_tickLost d u
    · rw [rerunStep_report rfl rfl]
      exact (congrArg (_ || ·) hstep).trans (Bool.or_true _)

/- A router without an entry (R67) -/

theorem unselected_flits (d : Dev) (t : Nat) (here : Flit → Bool) (used : List Nat) :
    (unselected d t here used).flits = d.flits.filter (fun f => !here f) :=
  foldl_keep Dev.flits _ (fun d _ => slotFault_flits d _ _ _ _) _ _

theorem getR_unselected_ne (d : Dev) {t a : Nat} (here : Flit → Bool) (used : List Nat) (h : a ≠ SLOT_STATUS t) :
    getR (unselected d t here used) a = getR d a :=
  foldl_keep (fun d => getR d a) _ (fun d _ => getR_slotFault_ne d _ _ h) _ _

theorem spareServes_unselected (d : Dev) (t p : Nat) (here : Flit → Bool) (used : List Nat) :
    spareServes (unselected d t here used) t p = spareServes d t p := by
  have hstate := getR_unselected_ne d here used (t := t) (a := TILE_STATE t) (by rw [TILE_STATE, SLOT_STATUS]; omega)
  have hfuse := getR_unselected_ne d here used (t := t) (a := TILE_FUSE t) (by rw [TILE_FUSE, SLOT_STATUS]; omega)
  have hmap := getR_unselected_ne d here used (t := t) (a := TILE_CORE_MAP t) (by rw [TILE_CORE_MAP, SLOT_STATUS]; omega)
  simp only [spareServes, slotCoreNo, getB, getF, hstate, hfuse, hmap]

/-- A router none of whose slots a spare serves reads nothing ahead (R70). -/
theorem earlyReads_eq_self {d : Dev} {t : Nat} (c : Nat) (h : ∀ p, spareServes d t p = false) : earlyReads d t c = d := by
  have hnone : ∀ l : List Nat, l.filter (spareServes d t) = [] := fun l =>
    List.filter_eq_nil_iff.2 fun p _ => by rw [h p]; decide
  rw [earlyReads]
  split
  · rfl
  · rw [hnone, List.foldl_nil]

theorem flitHop_no_entry {d : Dev} {t c : Nat} (ht : t < 64) (hentry : entryIndex d t c = none) (hspare : ∀ p, spareServes d t p = false) :
    flitHop t c d = unselected d t (fun f => f.tile == t && f.cyc == c && (decide (f.port < 6) || f.port == 15)) [] := by
  rw [flitHop, if_neg (by omega)]
  dsimp only
  rw [hentry]
  exact earlyReads_eq_self _ fun p => (spareServes_unselected d t p _ _).trans (hspare p)

theorem flitHop_entry {d : Dev} {t c i : Nat} (ht : t < 64) (hentry : entryIndex d t c = some i) (hc : c < windowCycles d + 256) :
    flitHop t c d = earlyReads (applyEntry d t c i (fun f => f.tile == t && f.cyc == c && (decide (f.port < 6) || f.port == 15))) t (c + 1) := by
  rw [flitHop, if_neg (by omega)]
  dsimp only
  rw [hentry]
  dsimp only
  rw [if_neg (by omega)]

/- A delivery (R548) -/

section
variable {d d1 : Dev} {n u : Nat} {v : Delivery} (hv : d.deliveries[n]? = some v)
  (hfirst : (d.deliveries.take n).any (fun x => x.tile == v.tile && x.port == v.port) = false)
  (hd1 : d1 = { d with deliveries := d.deliveries.eraseIdx n })
include hv hfirst hd1

theorem flitDeliver_no_unit (h : portUnit d1 v.tile v.port = none) :
    flitDeliver n d = report d1 { cls := 0x54, kind := 2, unit := v.tile, sub := v.port, filler := v.flit.fill, scope := .step } := by
  rw [flitDeliver, hv]
  dsimp only
  rw [hfirst, if_neg Bool.false_ne_true, ← hd1, h]

/-- At a unit's enabled entry, a flit goes to the core's channel, or to the agent the entry names. -/
theorem flitDeliver_unit (h : portUnit d1 v.tile v.port = some u) (hen : bit (portEntry d1 u v.idx) 6 = true) :
    flitDeliver n d = if u < 320 then
        if 16 ≤ bits (portEntry d1 u v.idx) 0 6 then strayCore d1 u (bits (portEntry d1 u v.idx) 0 6 % 16)
        else chanRows d1 u (bits (portEntry d1 u v.idx) 0 6) v.flit.rows none
      else if v.flit.addrs = [] then agentRows d1 u (bits (portEntry d1 u v.idx) 0 6) v.port v.flit.fill v.flit.rows true
      else addrRows d1 u (bits (portEntry d1 u v.idx) 0 6) v.port v.flit := by
  rw [flitDeliver, hv]
  dsimp only
  rw [hfirst, if_neg Bool.false_ne_true, ← hd1, h]
  dsimp only
  rw [hen]
  cases v.flit.addrs <;> simp

end

/-- Settles O35: each of these events does what its condition leaves of it. -/
theorem ticksFlitsAndThePantryTimer : Obligations.TicksFlitsAndThePantryTimer := by
  unfold Obligations.TicksFlitsAndThePantryTimer
  intro s u t c n w pk
  refine ⟨fun hu hout => ?_, fun ht => ?_, ?_, fun v d1 e hv hfirst hd1 => ⟨fun hunit => ?_, fun hunit he hen => ⟨fun hu hch => ?_, fun hu haddrs => ?_, fun hu haddrs => ?_⟩⟩,
    fun ht hentry hspare => ?_, fun i ht hentry hc => ?_, fun hrun => ?_, fun hw hsrc => ?_, fun hw hsrc hpk => ?_⟩
  · exact becomes_of_act (f := tickArrival u) rfl (if_neg (by simp [hout]; omega))
  · obtain ⟨hlost, hstatus, hrerun⟩ := tickFault_spec (d := s.dev) ht
    exact answers_of_act (f := tickFault t) rfl ⟨hlost, hstatus, hrerun, sameMem_of_mem_eq (tickFault_mem t s.dev)⟩
  · exact answers_of_act (f := drainSpanEnd) rfl ⟨drainSpanEnd_flits _, sameMem_of_mem_eq (drainSpanEnd_mem _),
      fun f hf hfill => drainSpanEnd_drops s.dev hf hfill⟩
  · exact becomes_of_act (f := flitDeliver n) rfl (flitDeliver_no_unit hv hfirst hd1 (by rw [hd1]; exact hunit))
  · subst hd1 he
    refine becomes_of_act (f := flitDeliver n) rfl ((flitDeliver_unit hv hfirst rfl hunit hen).trans ?_)
    exact (if_pos hu).trans (if_neg (Nat.not_le.2 hch))
  · subst hd1 he
    refine becomes_of_act (f := flitDeliver n) rfl ((flitDeliver_unit hv hfirst rfl hunit hen).trans ?_)
    exact (if_neg (Nat.not_lt.2 hu)).trans (if_pos haddrs)
  · subst hd1 he
    refine becomes_of_act (f := flitDeliver n) rfl ((flitDeliver_unit hv hfirst rfl hunit hen).trans ?_)
    exact (if_neg (Nat.not_lt.2 hu)).trans (if_neg haddrs)
  · refine answers_of_act (f := flitHop t c) rfl ?_
    rw [flitHop_no_entry ht hentry hspare]
    refine ⟨fun f hf ⟨htile, hcyc, hport⟩ => ?_, sameMem_of_mem_eq (unselected_mem _ _ _ _)⟩
    rw [unselected_flits] at hf
    simpa [htile, hcyc, hport] using (List.mem_filter.1 hf).2
  · exact becomes_of_act (f := flitHop t c) rfl (flitHop_entry ht hentry hc)
  · exact becomes_of_act (f := pantryPoll) rfl (if_neg (by rw [hrun]; decide))
  · refine becomes_of_act (f := degradedLoadDone) rfl ?_
    rw [degradedLoadDone, hw]
    exact if_pos hsrc
  · refine becomes_of_act (f := degradedLoadDone) rfl ?_
    rw [degradedLoadDone, hw]
    dsimp only
    rw [if_neg (not_not_intro hsrc), hpk]

end Sys2Proof.Machine
end

section
/-!
PROOFS. Power measurement and control (R228, R426, R428, R430, R431, R434).
-/
namespace Sys2Proof.Machine
open Safety

/- A staging core (R426) -/

theorem headerStage_next {d : Dev} {c : Nat} (settled : Bool) (hc : c < 320) (hstaging : hdrState d c = 1) (hstage : d.pwr.stages.get c 0 < 8) :
    headerStage c settled d = { d with pwr := { d.pwr with stages := d.pwr.stages.put c (d.pwr.stages.get c 0 + 1) 0 } } := by
  rw [headerStage, if_neg (by omega)]
  exact if_pos hstage

theorem headerStage_last {d : Dev} {c : Nat} (settled : Bool) (hc : c < 320) (hstaging : hdrState d c = 1) (hstage : d.pwr.stages.get c 0 = 8) :
    headerStage c settled d = if settled then
        stageNext { (setHdr d c 2) with pwr := { (setHdr d c 2).pwr with stages := (setHdr d c 2).pwr.stages.put c 0 0 } } (c / 5)
      else stageNext (report (openHdr d c) { cls := 0x04, kind := 1, unit := c, scope := .step }) (c / 5) := by
  rw [headerStage, if_neg (by omega)]
  exact if_neg (by omega)

/- A coverage that changes (R228, R428) -/

theorem getF_coverTo (d : Dev) (c lv act m : Nat) : getF (coverTo d c lv act m) (CL_NOTE c) CL_NOTE_COVER = lv % 2 ^ CL_NOTE_COVER.w := by
  have hcover : getF (setF d (CL_NOTE c) CL_NOTE_COVER lv) (CL_NOTE c) CL_NOTE_COVER = lv % 2 ^ CL_NOTE_COVER.w :=
    getF_setF_self d _ _ lv (by decide)
  have hballast : ∀ e : Dev, getR (endBallast e c m) (CL_NOTE c) = getR e (CL_NOTE c) := by
    intro e
    rw [endBallast]
    split
    · rw [getR_modCore, addF, setF, getR_setR_ne _ _ (by rw [CL_NOTE, CL_BALLAST]; omega)]
    · rfl
  rw [coverTo]
  split
  · rw [getF, hballast]
    exact hcover
  · exact hcover

theorem core_coverTo (d : Dev) (c lv act m : Nat) : ∃ f, core (coverTo d c lv act m) c = { core d c with fall := f } := by
  rw [coverTo]
  split
  · exact core_endBallast (setF d (CL_NOTE c) CL_NOTE_COVER lv) c m
  · exact ⟨_, rfl⟩

theorem getF_setCoverage (d : Dev) (c lv : Nat) : getF (setCoverage d c lv) (CL_NOTE c) CL_NOTE_COVER = lv % 2 ^ CL_NOTE_COVER.w :=
  getF_coverTo _ c lv _ _

theorem note_setCoverage (d : Dev) (c lv : Nat) : (core (setCoverage d c lv) c).note = (core d c).note := by
  rw [setCoverage]
  generalize (if (core d c).run.isSome then max (clockCycle d) (core d c).actCyc else 0) = t
  obtain ⟨f, hf⟩ := core_coverTo (coast d c t) c lv (activity (core (coast d c t) c) t)
    (if (core d c).run.isSome then max (1000 * d.now) (cycleAt d t) else 1000 * d.now)
  obtain ⟨g, hg⟩ := core_coast d c t
  rw [hf, hg]

theorem noteGrant_cores (d : Dev) (c lv : Nat) : (noteGrant d c lv).cores = d.cores := by
  rw [noteGrant]
  split <;> rfl

theorem coverageChange_eq {d : Dev} {c lv : Nat} (hc : c < 320) (hnote : (core d c).note = some lv) :
    coverageChange c d = setCoverage (noteGrant (modCore d c (fun k => { k with note := none })) c lv) c lv := by
  rw [coverageChange, if_neg (by omega), hnote]

/- The cap ceiling (R434) -/

/-- The ceiling after a sample, with its count of low samples and whether the cap is unmet. -/
def capNext (d : Dev) (c u : Nat) (unmet : Bool) : Dev :=
  let d1 := setB { d with pwr := { d.pwr with capCeil := c, under := u } } PWR_STATUS PWR_STATUS_CAP_UNMET unmet
  newCeiling (if unmet && !getB d PWR_STATUS PWR_STATUS_CAP_UNMET then raiseAlert d1 3 else d1)

theorem capNext_met (d : Dev) (c u : Nat) : capNext d c u false =
    newCeiling (setB { d with pwr := { d.pwr with capCeil := c, under := u } } PWR_STATUS PWR_STATUS_CAP_UNMET false) := rfl

theorem capControlTick_above {d : Dev} {p : Nat} (h : pCap d < p) : capControlTick p d =
    capNext d (d.pwr.capCeil - max 1 (100 * (p - pCap d) / pCap d)) 0 (d.pwr.capCeil - max 1 (100 * (p - pCap d) / pCap d) == 0) := by
  rw [capControlTick]
  dsimp only
  rw [if_pos h, decide_eq_true h, Bool.and_true]
  rfl

theorem capControlTick_tenth_low {d : Dev} {p : Nat} (h : 100 * p < 97 * pCap d) (hunder : d.pwr.under = 9) :
    capControlTick p d = capNext d (min 80 (d.pwr.capCeil + 1)) 0 false := by
  have hnot : ¬pCap d < p := by omega
  rw [capControlTick]
  dsimp only
  rw [if_neg hnot, if_pos h, if_pos (show d.pwr.under + 1 = 10 by omega), decide_eq_false hnot, Bool.and_false]
  rfl

theorem capControlTick_between {d : Dev} {p : Nat} (hlo : p ≤ pCap d) (hhi : 97 * pCap d ≤ 100 * p) :
    capControlTick p d = capNext d d.pwr.capCeil 0 false := by
  have hnot : ¬pCap d < p := by omega
  rw [capControlTick]
  dsimp only
  rw [if_neg hnot, if_neg (show ¬100 * p < 97 * pCap d by omega), decide_eq_false hnot, Bool.and_false]
  rfl

/- The sample (R431) -/

theorem vcmPowerSample_shows (ps cls : List Nat) (vin : Nat) (d : Dev) :
    getF (vcmPowerSample ps cls vin d) PWR_IN_P PWR_IN_P_W = min 0xFFFF ps.sum % 2 ^ PWR_IN_P_W.w ∧
      getF (vcmPowerSample ps cls vin d) PWR_IN_V PWR_IN_V_V = vin % 2 ^ PWR_IN_V_V.w := by
  rw [vcmPowerSample]
  constructor
  · rw [getF_setF_reg _ _ _ _ (by decide), getF_setF_reg _ _ _ _ (by decide), getF_setF_reg _ _ _ _ (by decide), getF_setF_reg _ _ _ _ (by decide),
      getF_setF_reg _ _ _ _ (by decide), getF_setF_self _ _ _ _ (by decide)]
  · rw [getF_setF_reg _ _ _ _ (by decide), getF_setF_reg _ _ _ _ (by decide), getF_setF_reg _ _ _ _ (by decide), getF_setF_reg _ _ _ _ (by decide),
      getF_setF_self _ _ _ _ (by decide)]

/-- Settles O53: each command where its condition stands. -/
theorem powerMeasurementAndControl : Obligations.PowerMeasurementAndControl := by
  unfold Obligations.PowerMeasurementAndControl
  intro s c k p vin lv acts ps cls
  refine ⟨fun hc hstaging hstage => ?_, fun hc hstaging hstage => ⟨?_, ?_⟩, fun hc hnote => ?_, fun hk hlive => ?_, ?_, fun hcap hmet => ?_,
    fun hcap hunmet hwas => ?_, fun hlow hunder => ?_, fun hlo hhi => ?_⟩
  · exact becomes_of_act (f := headerStage c true) rfl (headerStage_next true hc hstaging hstage)
  · exact becomes_of_act (f := headerStage c true) rfl (headerStage_last true hc hstaging hstage)
  · exact becomes_of_act (f := headerStage c false) rfl (headerStage_last false hc hstaging hstage)
  · refine answers_of_act (f := coverageChange c) rfl ⟨?_, ?_, sameMem_of_mem_eq (coverageChange_mem c s.dev)⟩
    · rw [coverageChange_eq hc hnote, note_setCoverage, core_congr (noteGrant_cores _ _ _), core_modCore_self]
    · rw [coverageChange_eq hc hnote, getF_setCoverage]
  · exact becomes_of_act (f := pweEstimate k acts) rfl (if_neg (by rw [hlive]; simpa using hk))
  · obtain ⟨hp, hv⟩ := vcmPowerSample_shows ps cls vin s.dev
    exact answers_of_act (f := vcmPowerSample ps cls vin) rfl ⟨hp, hv, sameMem_of_mem_eq (vcmPowerSample_mem ps cls vin s.dev)⟩
  · refine becomes_of_act (f := capControlTick p) rfl ?_
    rw [capControlTick_above hcap, show (_ == 0) = false from beq_eq_false_iff_ne.2 (by omega), capNext_met]
  · refine becomes_of_act (f := capControlTick p) rfl ?_
    rw [capControlTick_above hcap, Nat.sub_eq_zero_of_le hunmet, capNext, hwas]
    rfl
  · exact becomes_of_act (f := capControlTick p) rfl ((capControlTick_tenth_low hlow hunder).trans (capNext_met _ _ _))
  · exact becomes_of_act (f := capControlTick p) rfl ((capControlTick_between hlo hhi).trans (capNext_met _ _ _))

end Sys2Proof.Machine
end

section
/-!
PROOFS. Stack temperatures, losses of supply cells and modules, and the thermal ceilings (R236, R245, R246, R421, R424, R425, R446-R448).
-/
namespace Sys2Proof.Machine
open Safety

/- A stack's temperature -/

/-- The stack's temperature shown. -/
def showTemp (d : Dev) (n temp : Nat) : Dev :=
  setB (setF d (CC_TEMP (n / 2) (n % 2)) CC_TEMP_TEMP_C (min 255 temp)) (CC_STATUS (n / 2) (n % 2)) CC_STATUS_HOT (decide (85 < temp))

/-- The readings in a row of 105 or more. -/
def countHot (d : Dev) (n k : Nat) : Dev := { d with heat := { d.heat with stackHot := d.heat.stackHot.put n k 0 } }

theorem ccTemp_ne_ccStatus (t s : Nat) : CC_TEMP t s ≠ CC_STATUS t s := by
  rw [CC_TEMP, CC_STATUS]
  omega

theorem getF_showTemp (d : Dev) (n : Nat) {temp : Nat} (h : temp < 256) :
    getF (showTemp d n temp) (CC_TEMP (n / 2) (n % 2)) CC_TEMP_TEMP_C = temp := by
  rw [showTemp, setB, getF_setF_reg _ _ _ _ (ccTemp_ne_ccStatus _ _), getF_setF_self _ _ _ _ (by decide), Nat.min_eq_right (by omega)]
  exact Nat.mod_eq_of_lt h

theorem getB_hot_showTemp (d : Dev) (n temp : Nat) :
    getB (showTemp d n temp) (CC_STATUS (n / 2) (n % 2)) CC_STATUS_HOT = decide (85 < temp) :=
  getB_setB_self _ _ _ _ (by decide) (by decide)

theorem stackLost_showTemp (d : Dev) (n temp : Nat) : stackLost (showTemp d n temp) n = stackLost d n := by
  rw [stackLost, showTemp, getB_setB_apart _ _ _ _ _ (by decide) (by decide), getB, getF_setF_reg _ _ _ _ (ccTemp_ne_ccStatus _ _).symm]
  rfl

theorem stackTempRead_cool {d : Dev} {n temp : Nat} (hn : n < 128) (hlive : baseLost d (n / 2) = false) (htemp : temp < 105) :
    stackTempRead n temp d = countHot (showTemp d n temp) n 0 := by
  rw [stackTempRead, if_neg (by simpa [hlive] using hn), if_neg (Nat.not_le.2 htemp)]
  exact if_neg (by omega)

theorem stackTempRead_tenth_hot {d : Dev} {n temp : Nat} (hn : n < 128) (hlive : baseLost d (n / 2) = false) (htemp : 105 ≤ temp)
    (hcount : d.heat.stackHot.get n 0 = 9) (hlost : stackLost d n = false) : stackTempRead n temp d =
    loseStack (report (countHot (showTemp d n temp) n 10) { cls := 0x12, kind := 3, unit := n, scope := .step }) n := by
  have hin : stackLost (countHot (showTemp d n temp) n 10) n = false := (stackLost_showTemp d n temp).trans hlost
  rw [stackTempRead, if_neg (by simpa [hlive] using hn), if_pos htemp, hcount]
  exact if_pos ⟨by decide, congrArg not hin⟩

/-- A stack declared lost is lost. -/
theorem stackLost_loseStack (d : Dev) (n : Nat) : stackLost (loseStack d n) n = true := by
  rw [loseStack]
  split
  · assumption
  · exact getB_setB_self d (CC_STATUS (n / 2) (n % 2)) CC_STATUS_STACK_LOST true (by decide) (by decide)

/- Supply modules and regulator cells -/

theorem vcmFault_eq {d : Dev} {n : Nat} (hn : n < 72) (hon : d.pwr.vcmOff.contains n = false) {d2 : Dev}
    (hd2 : d2 = report (raiseAlert { d with pwr := { d.pwr with vcmOff := d.pwr.vcmOff ++ [n] } } 2) { cls := 0x24, kind := 8, unit := n, scope := .step }) :
    vcmFault n d = if n < 64 then loseBase d2 n else loseEdge (loseEdge d2 (2 * (n - 64))) (2 * (n - 64) + 1) := by
  subst hd2
  rw [vcmFault, if_neg (by rw [hon]; simpa using hn)]

theorem ivrCellFail_eq {d : Dev} {t i : Nat} (ht : t < 64) (hi : i < 48) (hlive : baseLost d t = false)
    (hgood : getBitAt d (IVR_FAILED_LO t) i = false) {second : Bool}
    (hsecond : (List.range 4).any (fun j => getBitAt d (IVR_FAILED_LO t) (4 * (i / 4) + j)) = second) {d1 : Dev}
    (hd1 : d1 = report (setBitAt d (IVR_FAILED_LO t) i true)
      { cls := 0x22, kind := 2, unit := t, sub := i, oper := i / 4, scope := if second then .step else .none }) :
    ivrCellFail t i d = if second then (if i / 4 < 10 then loseCompute d1 t else loseBase d1 t)
      else newCeiling (setF d1 (TILE_CEIL t) TILE_CEIL_DERATE
        (min (getF d FREQ_STATUS FREQ_STATUS_F_JOB) (getF d (TILE_CEIL t) TILE_CEIL_DERATE) - 2)) := by
  subst hd1
  rw [ivrCellFail, if_neg (by rw [hlive, hgood]; simp; omega)]
  dsimp only
  rw [hsecond]
  cases second <;> rfl

/-- Settles O54: each event where its condition stands. -/
theorem lossesAndTemperatures : Obligations.LossesAndTemperatures := by
  unfold Obligations.LossesAndTemperatures
  intro s n t i temp
  refine ⟨fun hn hlive htemp => ?_, fun hn hlive htemp hcount hlost => ?_, fun hn hon => ?_, fun hlo hhi hon => ?_,
    fun ht hi hlive hgood => ⟨fun hfirst d1 hd1 => ?_, fun hsecond d1 hd1 => ?_⟩, ?_, fun ht hcool => ?_, fun hshed hcool => ?_⟩
  · refine answers_of_act (f := stackTempRead n temp) rfl ⟨?_, ?_, sameMem_of_mem_eq (stackTempRead_mem n temp s.dev)⟩
    · rw [stackTempRead_cool hn hlive htemp]
      exact getF_showTemp s.dev n (by omega)
    · rw [stackTempRead_cool hn hlive htemp]
      exact getB_hot_showTemp s.dev n temp
  · refine answers_of_act (f := stackTempRead n temp) rfl ⟨_, stackTempRead_tenth_hot hn hlive htemp hcount hlost, ?_⟩
    rw [stackTempRead_tenth_hot hn hlive htemp hcount hlost, stackLost_loseStack]
  · exact becomes_of_act (f := vcmFault n) rfl ((vcmFault_eq (by omega) hon rfl).trans (if_pos hn))
  · exact becomes_of_act (f := vcmFault n) rfl ((vcmFault_eq hhi hon rfl).trans (if_neg (Nat.not_lt.2 hlo)))
  · exact becomes_of_act (f := ivrCellFail t i) rfl ((ivrCellFail_eq ht hi hlive hgood hfirst hd1).trans (if_neg Bool.false_ne_true))
  · exact becomes_of_act (f := ivrCellFail t i) rfl ((ivrCellFail_eq ht hi hlive hgood hsecond hd1).trans (if_pos rfl))
  · exact becomes_of_act (f := thermalEvaluation) rfl (by rw [thermalEvaluation])
  · exact becomes_of_act (f := thermalCeilingRaise t) rfl (if_neg (by omega))
  · exact becomes_of_act (f := shedReturn t) rfl (if_neg (by rw [hshed]; simpa using hcool))

end Sys2Proof.Machine
end

section
/-!
PROOFS. The stop tick, the sentence origin and guard start (R46, R48, R50-R53, R57, R60-R62).
-/
namespace Sys2Proof.Machine
open Safety

/- The stop tick -/

theorem stopTick_eq {d : Dev} (hrun : getB d TG_CTL TG_CTL_RUN = true) (hout : d.tickOut = false) (hguard : d.guarded = true)
    (hidle : noClause d = true) : stopTick d = samplePantry 16 (endD0Wait (sendTick d (get64 d TG_TICK_LO TG_TICK_HI))) := by
  rw [stopTick, hrun, hout, hguard, hidle]
  exact if_neg (by decide)

/-- Core maps change no register of the tick generator. -/
theorem getR_applyMaps (d : Dev) {a : Nat} (hlo : 0x30000 ≤ a) (hhi : a < 0x40000) : getR (applyMaps d) a = getR d a := by
  have htake : ∀ (e : Dev) k, getR (endTakeover e k) a = getR e a := by
    intro e k
    rw [endTakeover]
    split
    · rfl
    · simp only [setB, setF]
      rw [getR_setR_ne _ _ (by unfold MOD_CORES; omega), getR_setR_ne _ _ (by rw [TILE_STATE]; omega), getR_setR_ne _ _ (by rw [TILE_STATE]; omega)]
      exact getR_congr rfl a
  have hmaps : ∀ (e : Dev) (l : List (Nat × Nat)), getR (l.foldl (fun d x => setR d (TILE_CORE_MAP x.1) x.2) e) a = getR e a := fun e l =>
    foldl_keep (fun d => getR d a) _ (fun d x => getR_setR_ne d _ (by rw [TILE_CORE_MAP]; omega)) l e
  have htakes : ∀ l : List Takeover, getR (l.foldl endTakeover d) a = getR d a := fun l =>
    foldl_keep (fun d => getR d a) _ htake l d
  rw [applyMaps, setB, setF, getR_setR_ne _ _ (by rw [FLT_STATUS]; omega)]
  exact (getR_congr rfl a).trans ((hmaps _ _).trans (htakes _))

/-- The registers of the tick generator after tick n + 1 is sent, where no node is lost by it. -/
theorem getR_sendTick (d : Dev) (n : Nat) (hlose : d.losePend = []) {a : Nat} (hlo : 0x30000 ≤ a) (hhi : a < 0x40000) :
    getR (sendTick d n) a = getR (set64 (setF d TG_SENT_LEN TG_SENT_LEN_CUR_LEN (10 * sentenceLen d)) TG_TICK_LO TG_TICK_HI (n + 1)) a := by
  rw [sendTick, hlose, List.foldl_nil]
  exact (getR_congr rfl a).trans ((getR_applyMaps _ hlo hhi).trans (getR_congr rfl a))

theorem sendTick_mem_of_none {d : Dev} (n : Nat) (hlose : d.losePend = []) : (sendTick d n).mem = d.mem := by
  rw [sendTick, hlose, List.foldl_nil]
  dsimp only
  rw [applyMaps_mem, set64_eq_setR]
  rfl

theorem get64_sendTick {d : Dev} {n : Nat} (hlose : d.losePend = []) (hn : n + 1 < 2 ^ 64) :
    get64 (sendTick d n) TG_TICK_LO TG_TICK_HI = n + 1 := by
  refine (get64_congr (getR_sendTick d n hlose (by decide) (by decide)) (getR_sendTick d n hlose (by decide) (by decide))).trans ?_
  rw [get64_set64 _ _ (by decide)]
  exact Nat.mod_eq_of_lt hn

theorem getF_len_sendTick {d : Dev} (n : Nat) (hlose : d.losePend = []) :
    getF (sendTick d n) TG_SENT_LEN TG_SENT_LEN_CUR_LEN = 10 * sentenceLen d % 2 ^ TG_SENT_LEN_CUR_LEN.w := by
  rw [getF, getR_sendTick d n hlose (by decide) (by decide), getR_set64_ne _ _ (by decide) (by decide)]
  exact getF_setF_self d _ _ _ (by decide)

/- The sentence origin -/

theorem sentenceOrigin_eq {d : Dev} (hout : d.tickOut = true) (hticks : (liveNodes d).all (fun u => d.tickAt.get u 0 != 0) = true)
    (hidle : noClause d = true) : ∃ d1 : Dev, d1.now = ((liveNodes d).map (fun u => d.tickAt.get u 0 - 1)).foldl max d.now ∧
      d1.originAt = d1.now ∧ d1.tickOut = false ∧ d1.guarded = false ∧ d1.recSeen = [] ∧ d1.regs = d.regs ∧ d1.mem = d.mem ∧
      d1.cores = d.cores ∧ sentenceOrigin d = originReads ((List.range 320).foldl (fun d c => selectCore (releaseDrain (takeNote d c) c) c)
        (nextStep (restartDegraded (verdictOrigin (originEffects ((List.range 320).foldl (fun d c => advanceCore d c) d1)))))) := by
  have hany : (liveNodes d).any (fun u => d.tickAt.get u 0 == 0) = false := by
    simpa only [List.all_eq_not_any_not, Bool.not_eq_true', bne, Bool.not_not] using hticks
  refine ⟨{ d with now := ((liveNodes d).map (fun u => d.tickAt.get u 0 - 1)).foldl max d.now,
                   originAt := ((liveNodes d).map (fun u => d.tickAt.get u 0 - 1)).foldl max d.now,
                   tickOut := false, tickAt := [], guarded := false, recSeen := [] }, rfl, rfl, rfl, rfl, rfl, rfl, rfl, rfl, ?_⟩
  rw [sentenceOrigin]
  dsimp only
  rw [hout, hany, hidle]
  exact if_neg (by decide)

/- Guard start -/

theorem guardStart_eq {d : Dev} {k : Nat} (hguard : d.guarded = false) (hout : d.tickOut = false)
    (hstretch : stretchOf d (getF d TG_SENT_LEN TG_SENT_LEN_CUR_LEN / 10) = some k) : ∃ d1 d2 d3 : Dev,
      d1 = { d with now := max d.now (d.originAt + 200 * (getF d TG_SENT_LEN TG_SENT_LEN_CUR_LEN + k) - 2000), guarded := true } ∧
      d2 = (List.range 320).foldl (fun d c => implicitNote (guardCore d c) c) d1 ∧
      d3 = setF d2 TG_SENT_LEN TG_SENT_LEN_CUR_LEN (getF d TG_SENT_LEN TG_SENT_LEN_CUR_LEN + k) ∧
      guardStart d = if k = 0 then d3 else setR d3 TG_STRETCH (getR d3 TG_STRETCH + 1) := by
  refine ⟨_, _, _, rfl, rfl, rfl, ?_⟩
  rw [guardStart, hguard, hout, if_neg (by decide)]
  dsimp only
  rw [hstretch]

/-- Settles O59: each event where its condition stands, and where it does not. -/
theorem sentencesOpenBeginAndEnd : Obligations.SentencesOpenBeginAndEnd := by
  unfold Obligations.SentencesOpenBeginAndEnd
  intro s k
  refine ⟨fun hrun hout hguard hidle => ⟨?_, fun hlose hn => ?_⟩, fun hout hticks hidle => ?_, fun hguard hout hstretch => ?_, fun hrun => ?_,
    fun hout hheld => ?_, fun hout => ?_⟩
  · exact becomes_of_act (f := stopTick) rfl (stopTick_eq hrun hout hguard hidle)
  · refine answers_of_act (f := stopTick) rfl ⟨_, stopTick_eq hrun hout hguard hidle, rfl, rfl, rfl, get64_sendTick hlose hn,
      getF_len_sendTick _ hlose, sameMem_of_mem_eq ?_⟩
    rw [endD0Wait_mem, sendTick_mem_of_none _ hlose]
  · obtain ⟨d1, hnow, horigin, htick, hguard, hseen, hregs, hmem, hcores, heq⟩ := sentenceOrigin_eq hout hticks hidle
    refine answers_of_act (f := fun d => reportDue (sentenceOrigin d)) rfl
      ⟨d1, hnow, horigin, htick, hguard, hseen, hregs, hmem, hcores, ?_⟩
    rw [heq]
  · obtain ⟨d1, d2, d3, hd1, hd2, hd3, heq⟩ := guardStart_eq hguard hout hstretch
    refine answers_of_act (f := guardStart) rfl ?_
    have hshow : getF d3 TG_SENT_LEN TG_SENT_LEN_CUR_LEN = (getF s.dev TG_SENT_LEN TG_SENT_LEN_CUR_LEN + k) % 2 ^ TG_SENT_LEN_CUR_LEN.w := by
      rw [hd3, getF_setF_self _ _ _ _ (by decide)]
    obtain ⟨hmem, hcores, hlen⟩ : (guardStart s.dev).mem = d2.mem ∧ (guardStart s.dev).cores = d2.cores ∧
        getF (guardStart s.dev) TG_SENT_LEN TG_SENT_LEN_CUR_LEN = getF d3 TG_SENT_LEN TG_SENT_LEN_CUR_LEN := by
      rw [heq]
      split
      · exact ⟨by rw [hd3, setF_mem], by rw [hd3, setF_cores], rfl⟩
      · exact ⟨by rw [setR_mem, hd3, setF_mem], by rw [setR_cores, hd3, setF_cores], by rw [getF, getR_setR_ne _ _ (by decide), getF]⟩
    exact ⟨hlen.trans hshow, d1, d2, by rw [hd1], by rw [hd1], by rw [hd1], by rw [hd1], by rw [hd1], hd2, hmem, hcores⟩
  · exact exec_eq_self_of_act (f := stopTick) rfl (if_pos (by rw [hrun]; rfl))
  · refine exec_eq_self_of_act (f := fun d => reportDue (sentenceOrigin d)) rfl ?_
    have hself : sentenceOrigin s.dev = s.dev := if_pos (by rw [hout]; rfl)
    rw [hself, reportDue, hheld]
  · exact exec_eq_self_of_act (f := guardStart) rfl (if_pos (by rw [hout, Bool.or_true]))

end Sys2Proof.Machine
end

section
/-!
PROOFS. A Gorith port goes down, trains, and comes up or is lost (R333, R340).
-/
namespace Sys2Proof.Machine
open Safety

theorem gport_modPort_self (d : Dev) (p : Nat) (f : GPort → GPort) : gport (modPort d p f) p = f (gport d p) := Tbl.get_put_self _ _ _ _

theorem getR_modPort (d : Dev) (p : Nat) (f : GPort → GPort) (a : Nat) : getR (modPort d p f) a = getR d a := getR_congr (modPort_regs d p f) a

theorem gport_linkSend (d : Dev) (p v q : Nat) : gport (linkSend d p v) q = gport d q := rfl

theorem linkSend_fab (d : Dev) (p v : Nat) : (linkSend d p v).fab = d.fab := rfl

theorem linkSend_rerunStep (d : Dev) (p v : Nat) : (linkSend d p v).rerunStep = d.rerunStep := rfl

theorem getF_linkSend (d : Dev) (p v a : Nat) (f : Fld) : getF (linkSend d p v) a f = getF d a f := by
  rw [getF, getF, getR_congr (show (linkSend d p v).regs = d.regs from rfl)]

theorem getF_modPort (d : Dev) (p : Nat) (f : GPort → GPort) (a : Nat) (g : Fld) : getF (modPort d p f) a g = getF d a g := by
  rw [getF, getF, getR_modPort]

theorem gpState_modPort (d : Dev) (p q : Nat) (f : GPort → GPort) : gpState (modPort d p f) q = gpState d q := getF_modPort d p f _ _

theorem gpState_linkSend (d : Dev) (p v q : Nat) : gpState (linkSend d p v) q = gpState d q := getF_linkSend d p v _ _

theorem gpState_setGpState_self (d : Dev) (p : Nat) {n : Nat} (h : n < 8) : gpState (setGpState d p n) p = n :=
  (getF_setF_self d _ _ n (by decide)).trans (Nat.mod_eq_of_lt h)

/-- A port's fault register is none of its other registers. -/
theorem gpFault_ne (k h : Nat) : GP_STATUS k h ≠ GP_FAULT k h ∧ GP_STATUS k h ≠ GP_DOWN k h ∧ GP_FAULT k h ≠ GP_DOWN k h := by
  simp only [GP_STATUS, GP_FAULT, GP_DOWN]
  omega

theorem gpState_gpFault (d : Dev) (p : Nat) (f : Fld) : gpState (gpFault d p f) p = gpState d p :=
  getF_setF_reg _ _ _ _ (gpFault_ne _ _).1

/-! Going down -/

/-- The port's state, its fault and what it holds as it goes down, before the count, the record and the LEVEL of the next attempt (R333). -/
def portEmptied (d : Dev) (p : Nat) : Dev := modPort (gpFault (setGpState d p 3) p GP_FAULT_LINK_DOWN) p emptied

theorem portDown_eq (d : Dev) (p : Nat) : portDown d p = levelSend (report (incF (portEmptied d p) (GP_DOWN (portDie p) (portHalf p)) GP_DOWN_COUNT)
    (portEv p 0x30 0 0 (gport d p).rxExp .step)) p := rfl

/-- Only the port's down count changes after it is emptied. -/
theorem getF_portDown (d : Dev) (p : Nat) {a : Nat} (f : Fld) (h : a ≠ GP_DOWN (portDie p) (portHalf p)) :
    getF (portDown d p) a f = getF (portEmptied d p) a f := by
  rw [portDown_eq, levelSend, getF_linkSend, getF_report, incF, addF, getF_setF_reg _ _ _ _ h]

theorem gport_portDown (d : Dev) (p : Nat) : gport (portDown d p) p = emptied (gport d p) := by
  have hfab : (portDown d p).fab = (portEmptied d p).fab := by
    rw [portDown_eq, levelSend, linkSend_fab, report_fab, incF, addF, setF_fab]
  rw [gport, hfab]
  exact gport_modPort_self (gpFault (setGpState d p 3) p GP_FAULT_LINK_DOWN) p emptied

/-- A port that goes down retrains, empty and with its fault, and a step in progress ends in RERUN (R333). -/
theorem portDown_spec (d : Dev) (p : Nat) : gpState (portDown d p) p = 3 ∧ (gport (portDown d p) p).kept = [] ∧
    (gport (portDown d p) p).inbox = [] ∧ getB (portDown d p) (GP_FAULT (portDie p) (portHalf p)) GP_FAULT_LINK_DOWN = true ∧
    (d.inStep = true → (portDown d p).rerunStep = true) ∧ sameMem d (portDown d p) := by
  obtain ⟨-, hstatus, hfault⟩ := gpFault_ne (portDie p) (portHalf p)
  refine ⟨?_, by rw [gport_portDown]; rfl, by rw [gport_portDown]; rfl, ?_, fun hstep => ?_, sameMem_of_mem_eq (portDown_mem d p)⟩
  · rw [gpState, gpStatus, getF_portDown _ _ _ hstatus, portEmptied, getF_modPort]
    exact (gpState_gpFault _ p _).trans (gpState_setGpState_self d p (by decide))
  · rw [getB, getF_portDown _ _ _ hfault, portEmptied, getF_modPort]
    exact getB_setB_self _ _ _ true (by decide) (by decide)
  · rw [portDown_eq, levelSend, linkSend_rerunStep, rerunStep_report rfl rfl]
    exact Bool.or_eq_true_iff.mpr (.inr hstep)

/-! Training -/

/-- A port that trains is not one that an outcome of training passes by. -/
theorem training_beq {n : Nat} (h : n = 1 ∨ n = 3) : (n == 1 || n == 3) = true := by simpa using h

/-- The level of the far side, as LINK_LEVEL shows it (R340). -/
def peerLevel (d : Dev) (p lv : Nat) : Dev := setF d (gpStatus p) GP_STATUS_PEER_LEVEL lv

/-- A level at most 1 apart is agreed: the lower of the two (R340). -/
theorem linkLevel_agreed {d : Dev} {p lv mine : Nat} (hp : p < 32) (htrain : gpState d p = 1 ∨ gpState d p = 3) (hlv : lv < 256)
    (hmine : getF d FAB_LEVEL FAB_LEVEL_LINK_LEVEL = mine) (hup : lv ≤ mine + 1) (hdown : mine ≤ lv + 1) :
    linkLevel p lv d = modPort (setF (peerLevel d p lv) (gpStatus p) GP_STATUS_LINK_LEVEL (min lv mine)) p (fun g => { g with levelOk := true }) := by
  rw [linkLevel, if_neg (by simp [hp, training_beq htrain])]
  dsimp only
  rw [Nat.mod_eq_of_lt hlv, hmine, if_pos ⟨hup, hdown⟩, peerLevel]

/-- A level further apart leaves the link down with its fault (R340). -/
theorem linkLevel_apart {d : Dev} {p lv mine : Nat} (hp : p < 32) (htrain : gpState d p = 1 ∨ gpState d p = 3) (hlv : lv < 256)
    (hmine : getF d FAB_LEVEL FAB_LEVEL_LINK_LEVEL = mine) (h : mine + 1 < lv ∨ lv + 1 < mine) :
    linkLevel p lv d = modPort (gpFault (setGpState (peerLevel d p lv) p 0) p GP_FAULT_LEVEL) p (fun g => { g with levelOk := false }) := by
  rw [linkLevel, if_neg (by simp [hp, training_beq htrain])]
  dsimp only
  rw [Nat.mod_eq_of_lt hlv, hmine, if_neg (by omega), peerLevel]

/-- The port as it comes up, before its own credits are granted (R333; log 26). -/
def portFresh (d : Dev) (p : Nat) : Dev := modPort (setGpState d p 2) p (fun g => { emptied g with levelOk := true, txq := g.txq })

/-- Its senders' limits start over. -/
def creditsZero (d : Dev) (p : Nat) : Dev := (List.range 4).foldl (fun d c => setR d (GP_CREDIT (portDie p) (portHalf p) c) 0) d

theorem portStart_eq (d : Dev) (p : Nat) : portStart d p = creditSend (creditsZero (portFresh d p) p) p := rfl

theorem gpState_creditsZero (d : Dev) (p : Nat) : gpState (creditsZero d p) p = gpState d p := by
  have hne : ∀ c, gpStatus p ≠ GP_CREDIT (portDie p) (portHalf p) c := fun c => by
    simp only [gpStatus, GP_STATUS, GP_CREDIT]
    omega
  refine foldl_keep (gpState · p) _ (fun d c => ?_) _ d
  rw [gpState, gpState, getF, getF, getR_setR_ne _ _ (hne c)]

theorem creditsZero_fab (d : Dev) (p : Nat) : (creditsZero d p).fab = d.fab :=
  foldl_keep Dev.fab (fun d c => setR d (GP_CREDIT (portDie p) (portHalf p) c) 0) (fun _ _ => rfl) (List.range 4) d

theorem gport_portStart (d : Dev) (p : Nat) : gport (portStart d p) p = { emptied (gport d p) with levelOk := true, txq := (gport d p).txq } := by
  have hfab : (portStart d p).fab = (portFresh d p).fab := by rw [portStart_eq, creditSend, linkSend_fab, creditsZero_fab]
  rw [gport, hfab]
  exact gport_modPort_self (setGpState d p 2) p (fun g => { emptied g with levelOk := true, txq := g.txq })

theorem gpState_portStart (d : Dev) (p : Nat) : gpState (portStart d p) p = 2 := by
  rw [portStart_eq, creditSend, gpState_linkSend, gpState_creditsZero, portFresh, gpState_modPort]
  exact gpState_setGpState_self d p (by decide)

/-- A training attempt that ends while the port trains, its die in service and JTAG driving no pins, has its outcome (R333, R489). -/
theorem portTrainDone_eq {d : Dev} {p : Nat} (ok : Bool) (hp : p < 32) (htrain : gpState d p = 1 ∨ gpState d p = 3)
    (hlive : (edge d (portDie p)).lost = false) (hpins : getB d SB_JTAG SB_JTAG_PINS = false) :
    portTrainDone p ok d = if ok && (gport d p).levelOk then portStart d p else
      if 3 ≤ (gport d p).tries + 1 then showStages (setGpState (modPort d p (fun g => { g with tries := (gport d p).tries + 1 })) p 4)
      else levelSend (modPort d p (fun g => { g with tries := (gport d p).tries + 1 })) p := by
  rw [portTrainDone, if_neg (by simp [hp, training_beq htrain, hlive, hpins])]

/-- The verdict stages shown change no port's state. -/
theorem gpState_showStages (d : Dev) (p : Nat) : gpState (showStages d) p = gpState d p := by
  have hne : ∀ k, gpStatus p ≠ RDX_STATUS k := fun k => by
    simp only [gpStatus, GP_STATUS, portDie, portHalf, RDX_STATUS]
    omega
  rw [showStages]
  exact foldl_keep (gpState · p) _ (fun d k => (getF_setF_reg _ _ _ _ (hne k)).trans (getF_setF_reg _ _ _ _ (hne k))) _ _

/-- Settles O45: portDown_spec, and what an attempt's end leaves of a port that trains. -/
theorem linkLossAndTraining : Obligations.LinkLossAndTraining := by
  unfold Obligations.LinkLossAndTraining
  intro s p lv hp
  refine ⟨fun hup => ?loss, fun hup hkept => ?timeout, fun htrain hlv => ⟨fun h1 h2 => ?agreed, fun h => ?apart⟩,
    fun htrain hlive hpins => ⟨fun hok => ?start, fun h => ?again, fun h => ?lost⟩⟩
  case loss =>
    have hdown : laneLockLoss p s.dev = portDown s.dev p := if_pos hup
    exact ⟨becomes_of_act (f := laneLockLoss p) rfl hdown, answers_of_act (f := laneLockLoss p) rfl (hdown ▸ portDown_spec s.dev p)⟩
  case timeout => exact becomes_of_act (f := linkAckTimeout p) rfl (if_pos (by simp [hup, hkept]))
  case agreed =>
    refine answers_of_act (f := linkLevel p lv) rfl ?_
    rw [linkLevel_agreed hp htrain hlv rfl h1 h2]
    refine ⟨by rw [gport_modPort_self], ?_, ?_, sameMem_of_mem_eq rfl⟩
    · rw [getF_modPort]
      exact getF_setF_self _ _ _ _ (by decide)
    · rw [getF_modPort, getF_setF_apart _ _ _ _ _ (by decide) (by decide)]
      exact getF_setF_self _ _ _ _ (by decide)
  case apart =>
    refine answers_of_act (f := linkLevel p lv) rfl ?_
    rw [linkLevel_apart hp htrain hlv rfl h, getB, gpState_modPort, getF_modPort, gpState_gpFault]
    exact ⟨gpState_setGpState_self _ p (by decide), getB_setB_self _ _ _ true (by decide) (by decide)⟩
  case start =>
    have hstart : portTrainDone p true s.dev = portStart s.dev p := by
      rw [portTrainDone_eq _ hp htrain hlive hpins, if_pos (by simp [hok])]
    refine ⟨becomes_of_act (f := portTrainDone p true) rfl hstart, answers_of_act (f := portTrainDone p true) rfl ?_⟩
    rw [hstart, gport_portStart]
    exact ⟨gpState_portStart s.dev p, rfl, rfl⟩
  case again =>
    refine answers_of_act (f := portTrainDone p false) rfl ?_
    rw [portTrainDone_eq _ hp htrain hlive hpins, Bool.false_and, if_neg Bool.false_ne_true, if_neg (by omega), levelSend, gpState_linkSend,
      gport_linkSend, gport_modPort_self, gpState_modPort]
    exact ⟨rfl, rfl⟩
  case lost =>
    refine answers_of_act (f := portTrainDone p false) rfl ?_
    rw [portTrainDone_eq _ hp htrain hlive hpins, Bool.false_and, if_neg Bool.false_ne_true, if_pos (by omega), gpState_showStages]
    exact gpState_setGpState_self _ p (by decide)

end Sys2Proof.Machine
end

section
/-!
PROOFS. Frames and link packets on a Gorith port that is up (R329 to R335).
-/
namespace Sys2Proof.Machine
open Safety

section
variable {d d1 : Dev} {p l n : Nat}

/-- A codeword that decodes, frame injection off, is taken as the frame it holds, its corrections counted (R329, R331). -/
theorem frameIn_decoded {lanes : List (BitVec 680)} {msg : BitVec 5140} {ce : Bool} (pois : BitVec 20) (hup : portUp d p = true)
    (hdec : rsDecode lanes = some (msg, ce)) (hinj : getF d (GP_INJ_CTL (portDie p) (portHalf p)) GP_INJ_CTL_MODE ≠ 1)
    (hce : d1 = (if ce then satF d (GP_FEC_CE (portDie p) (portHalf p)) GP_FEC_CE_COUNT else d)) :
    frameIn p lanes pois d = takeFrame d1 p { msg := msg, pois := pois } := by
  rw [frameIn, hup, hdec, hce]
  dsimp only
  rw [if_neg (by decide), if_neg fun h => hinj h.1]

/-- Counting a corrected codeword changes nothing a port holds. -/
theorem gport_counted {ce : Bool} (hce : d1 = (if ce then satF d (GP_FEC_CE (portDie p) (portHalf p)) GP_FEC_CE_COUNT else d)) :
    gport d1 p = gport d p := by
  subst hce
  cases ce <;> rfl

/-- A data frame in FSEQ order (R331, R332). -/
theorem takeFrame_in_order {f : Frame} (hdata : bits f.msg.toNat 0 2 = 0) (hseq : bits f.msg.toNat 2 12 = (gport d p).rxExp) :
    takeFrame d p f = (frameUnits f).foldl (takeUnit p)
      (modPort d p (fun g => { g with rxExp := (g.rxExp + 1) % 4096, rxGap := false, rxNew := g.rxNew + 1 })) := by
  rw [takeFrame, if_neg (by rw [hdata]; decide), if_pos ⟨hdata, hseq⟩]

/-- A data frame out of FSEQ order (R332). -/
theorem takeFrame_out_of_order {f : Frame} (hdata : bits f.msg.toNat 0 2 = 0) (hseq : bits f.msg.toNat 2 12 ≠ (gport d p).rxExp) :
    takeFrame d p f = modPort d p (fun g => { g with rxGap := true }) := by
  rw [takeFrame, if_neg (by rw [hdata]; decide), if_neg fun h => hseq h.2, if_pos hdata]

/-! Link packets -/

/-- Taking a link packet sends nothing. -/
theorem takeLink_out {c : Nat} {o : Option Nat} (h : takeLink d p c = (o, d1)) : d1.out = d.out := by
  unfold takeLink at h
  split at h <;> obtain rfl := (Prod.ext_iff.mp h).2 <;> rfl

/-- Acknowledged frames are dropped, and frames that waited go out (R332). -/
theorem linkAck_eq (hup : portUp d p = true) (hl : takeLink d p 0 = (some l, d1))
    (hn : keptBefore (gport d1 p) ((bits l 8 12 + 1) % 4096) = some n) :
    linkAck p d = sendFrames (modPort d1 p (fun g => ackFrames g n)) p := by
  rw [linkAck, hup, hl]
  dsimp only
  rw [hn]
  rfl

/-- With no frame waiting, sending leaves the frames kept as they are. -/
theorem kept_sendFrames (h : (gport d p).txWait = []) : (gport (sendFrames d p) p).kept = (gport d p).kept := by
  rw [sendFrames, gport, h]
  exact (congrArg GPort.kept (Tbl.get_put_self _ _ _ _)).trans (List.append_nil _)

/-- The module after the c-th request for the frame with FSEQ q, before the kept frames go out again. -/
def replayAsked (d : Dev) (p q c : Nat) : Dev :=
  satF (modPort d p (fun g => { g with reqSeq := q, reqCnt := c })) (GP_RETRY (portDie p) (portHalf p)) GP_RETRY_REPLAYS

/-- A replay from a frame kept: the request is counted, and the kept frames from it on go out again (R332, R333). -/
theorem linkRetry_eq (hup : portUp d p = true) (hl : takeLink d p 1 = (some l, d1)) {c : Nat}
    (hc : c = if (gport d1 p).reqSeq = bits l 8 12 then (gport d1 p).reqCnt + 1 else 1) (hfew : c < 8)
    (hn : keptBefore (gport d1 p) (bits l 8 12) = some n) : linkRetry p d =
      { replayAsked d1 p (bits l 8 12) c with
        out := (replayAsked d1 p (bits l 8 12) c).out ++ ((gport d1 p).kept.drop n).map (frameOut p) } := by
  have hcount : (if (gport d1 p).reqSeq = bits l 8 12 ∧ 0 < (gport d1 p).reqCnt then (gport d1 p).reqCnt + 1 else 1) = c := by
    rw [hc]
    split <;> split <;> omega
  rw [linkRetry, hup, hl]
  dsimp only
  rw [hcount, if_neg (show ¬ 8 ≤ c by omega), hn]
  rfl

theorem gport_replayAsked (d : Dev) (p q c : Nat) : gport (replayAsked d p q c) p = { gport d p with reqSeq := q, reqCnt := c } :=
  gport_modPort_self d p (fun g => { g with reqSeq := q, reqCnt := c })

theorem replayAsked_out (d : Dev) (p q c : Nat) : (replayAsked d p q c).out = d.out := rfl

theorem linkRetry_spec (hup : portUp d p = true) (hl : takeLink d p 1 = (some l, d1))
    (hfew : (gport d1 p).reqSeq ≠ bits l 8 12 ∨ (gport d1 p).reqCnt < 7) (hn : keptBefore (gport d1 p) (bits l 8 12) = some n) :
    (linkRetry p d).out = d.out ++ ((gport d1 p).kept.drop n).map (frameOut p) ∧ (gport (linkRetry p d) p).reqSeq = bits l 8 12 ∧
      (gport (linkRetry p d) p).reqCnt = (if (gport d1 p).reqSeq = bits l 8 12 then (gport d1 p).reqCnt + 1 else 1) ∧
      (gport (linkRetry p d) p).kept = (gport d1 p).kept ∧ sameMem d (linkRetry p d) := by
  have heq := linkRetry_eq hup hl rfl (by split <;> omega) hn
  have hport := (congrArg (gport · p) heq).trans (gport_replayAsked d1 p _ _)
  refine ⟨(congrArg Dev.out heq).trans (congrArg (· ++ _) ((replayAsked_out d1 p _ _).trans (takeLink_out hl))), ?_⟩
  dsimp only at hport
  rw [hport]
  exact ⟨rfl, rfl, rfl, sameMem_of_mem_eq (linkRetry_mem p d)⟩

/-- The credit registers of a port's classes are apart. -/
theorem gpCredit_ne (k h : Nat) {c e : Nat} (hne : c ≠ e) : GP_CREDIT k h c ≠ GP_CREDIT k h e := by
  unfold GP_CREDIT
  omega

theorem linkCredit_limit (hup : portUp d p = true) (hl : takeLink d p 2 = (some l, d1)) {c : Nat} (hc : c < 4) :
    getF (linkCredit p d) (GP_CREDIT (portDie p) (portHalf p) c) GP_CREDIT_LIMIT = bits l (32 + 16 * c) 16 := by
  have heq : linkCredit p d = (List.range 4).foldl (fun d c =>
      setF d (GP_CREDIT (portDie p) (portHalf p) c) GP_CREDIT_LIMIT (bits l (32 + 16 * c) 16)) d1 := by
    rw [linkCredit, hup, hl]
    rfl
  rw [heq]
  refine foldl_range_set (p := fun e => getF e (GP_CREDIT (portDie p) (portHalf p) c) GP_CREDIT_LIMIT) (Q := fun _ => True)
    (fun _ _ _ => trivial) (fun e _ => ?_) (fun e j _ hj => ?_) hc trivial
  · exact (getF_setF_self e _ _ _ (by decide)).trans (bits_mod_self l _ 16)
  · exact getF_setF_reg e _ _ _ (gpCredit_ne _ _ (Ne.symm hj))

/-- A packet is next to send only while fewer than 2,048 frames are unacknowledged (R332, R335). -/
theorem kept_lt_of_nextToSend {c : Nat} {pk : Packet} (h : nextToSend d p c = some pk) : (gport d p).kept.length < keptMax := by
  unfold nextToSend at h
  dsimp only at h
  split at h
  · split at h
    · next hfree => exact (by simpa [startFree] using hfree.2 : _ ∧ _).2
    · cases h
  · cases h

end

/-- Settles O44: each link packet taken, and each frame, does what its port's state leaves of it. -/
theorem linkFramesAndControlPackets : Obligations.LinkFramesAndControlPackets := by
  unfold Obligations.LinkFramesAndControlPackets
  intro s p c n l lo hi pois msg ce d1 pk hup
  refine ⟨fun hdec => ?undecoded, fun hdec hinj hd1 => ⟨fun hdata hseq => ?inOrder, fun hdata hseq => ?outOfOrder, fun hidle => ?idle⟩,
    fun hl hn => ?ack, fun hl hfew hn => ?retry, fun hl hc => ?credit, ?ackSend, fun hgap => ?retrySend, fun hpk hdue => ?send, fun hfull => ?full⟩
  case undecoded =>
    refine becomes_of_act (f := frameIn p (lo ++ hi) pois) rfl ?_
    rw [frameIn, hup, hdec]
    rfl
  case inOrder =>
    refine becomes_of_act (f := frameIn p (lo ++ hi) pois) rfl ?_
    rw [frameIn_decoded pois hup hdec hinj hd1]
    exact takeFrame_in_order hdata (hseq.trans (congrArg GPort.rxExp (gport_counted hd1)).symm)
  case outOfOrder =>
    refine becomes_of_act (f := frameIn p (lo ++ hi) pois) rfl ?_
    rw [frameIn_decoded pois hup hdec hinj hd1]
    exact takeFrame_out_of_order hdata fun h => hseq (h.trans (congrArg GPort.rxExp (gport_counted hd1)))
  case idle =>
    refine becomes_of_act (f := frameIn p (lo ++ hi) pois) rfl ?_
    rw [frameIn_decoded pois hup hdec hinj hd1]
    exact if_pos hidle
  case ack =>
    have hack := linkAck_eq hup hl hn
    refine ⟨becomes_of_act (f := linkAck p) rfl hack, answers_of_act (f := linkAck p) rfl (sameMem_of_mem_eq (linkAck_mem p s.dev)),
      fun hwait => answers_of_act (f := linkAck p) rfl ?_⟩
    rw [hack, kept_sendFrames (by rw [gport_modPort_self]; exact hwait), gport_modPort_self]
    rfl
  case retry => exact answers_of_act (f := linkRetry p) rfl (linkRetry_spec hup hl hfew hn)
  case credit => exact answers_of_act (f := linkCredit p) rfl ⟨linkCredit_limit hup hl hc, sameMem_of_mem_eq (linkCredit_mem p s.dev)⟩
  case ackSend => exact becomes_of_act (f := linkAckSend p) rfl (if_neg (by simp [hup]))
  case retrySend => exact becomes_of_act (f := linkRetrySend p) rfl (if_neg (by simp [hup, hgap]))
  case send =>
    refine becomes_of_act (f := packetSend p c) rfl ?_
    rw [packetSend, hup, if_neg (by decide), if_neg (Nat.not_le.mpr (kept_lt_of_nextToSend hpk)), hpk]
    exact if_pos hdue
  case full =>
    refine becomes_of_act (f := packetSend p c) rfl ?_
    rw [packetSend, hup, if_neg (by decide)]
    exact if_pos hfull

end Sys2Proof.Machine
end

section
/-!
PROOFS. Requests of other modules held at their windows, window closes and timeouts, and shelf-window rows (R146, R147, R346, R347, R351, R545).
-/
namespace Sys2Proof.Machine
open Safety

section
variable {d : Dev} {n m w : Nat} {x : HeldReq}

/-! Held requests -/

/-- A request none of whose rows has been sent is refused once its window has closed or has another generation (R347). -/
theorem windowLand_stale (hx : d.fab.held[n]? = some x) (hsent : x.sent = 0)
    (hstale : wValid (winDesc d (hWin x.hdr.toNat)) = false ∨ wGen (winDesc d (hWin x.hdr.toNat)) ≠ hWgen x.hdr.toNat) :
    windowLand n m d = nackReq (dropHeld d x.no) x.port x.hdr.toNat 0x01 := by
  rw [windowLand, hx]
  exact if_pos (by simpa [hsent] using hstale)

/-- A request that may land rows lands them over the bulk path, or at the shelf port (R347). -/
theorem windowLand_turn (hx : d.fab.held[n]? = some x) (hopen : x.sent ≠ 0 ∨ wValid (winDesc d (hWin x.hdr.toNat)) = true ∧
      wGen (winDesc d (hWin x.hdr.toNat)) = hWgen x.hdr.toNat) (hturn : landTurn d n x = true) {a : Nat} (ha : a = wBase x.win + hOfs x.hdr.toNat) :
    windowLand n m d =
      if inShelf a then finishHeld (sendShelf a (wCtx x.win) m x d).2 (sendShelf a (wCtx x.win) m x d).1
      else
        let r := landBulk a (ctxSrc d (wCtx x.win)) ((bulkPath d (portDie x.port) a (hPtype x.hdr.toNat == 1)).getD []) m x d
        finishHeld r.2 r.1 := by
  rw [windowLand, hx, ha]
  dsimp only
  rw [if_neg (by rcases hopen with h | ⟨h1, h2⟩ <;> simp_all), if_neg (by simp [hturn])]

/-- The close of a window completes once every WRITE of it that has begun to land has landed (R346). -/
theorem windowCloseDone_eq {tag : Nat} (hw : d.fab.closing.find? (fun c => c.1 == w) = some (w, some tag))
    (hnone : ∀ y ∈ d.fab.held, hWin y.hdr.toNat = w → hPtype y.hdr.toNat = 1 → y.sent = 0 ∨ reqRows y.hdr.toNat ≤ y.done) :
    windowCloseDone w d = postCq { d with fab := { d.fab with closing := d.fab.closing.erase (w, some tag) } } 1 0 tag 0 0 0 := by
  have hidle : (d.fab.held.any fun y => hWin y.hdr.toNat == w && hPtype y.hdr.toNat == 1 && decide (0 < y.sent) &&
      decide (y.done < reqRows y.hdr.toNat)) = false := by
    rw [List.any_eq_false]
    intro y hy hlanding
    simp only [Bool.and_eq_true, beq_iff_eq, decide_eq_true_eq] at hlanding
    obtain ⟨⟨⟨hwin, hwrite⟩, hsent⟩, hleft⟩ := hlanding
    have := hnone y hy hwin hwrite
    omega
  rw [windowCloseDone, hw]
  dsimp only
  rw [hidle, if_neg Bool.false_ne_true]

theorem bulkRefuseReport_eq (hx : d.fab.held[n]? = some x) (hrefused : x.refused = true) (hreported : x.reported = false) :
    bulkRefuseReport n d = if reqRows x.hdr.toNat ≤ x.done then dropHeld (nackReq d x.port x.hdr.toNat 0x08) x.no
      else setHeld (nackReq d x.port x.hdr.toNat 0x08) { x with reported := true } := by
  rw [bulkRefuseReport, hx]
  exact if_neg (by simp [hrefused, hreported])

/-! Timeouts -/

/-- Settling a request leaves every register but its die's count of those without an answer. -/
theorem getF_settle (d : Dev) (o : Outst) (bad : Bool) {a : Nat} (f : Fld) (h : a ≠ XFER_OUT o.die) : getF (settle d o bad) a f = getF d a f := by
  rw [settle, xferOut, getF_setF_reg _ _ _ _ h, getF, getF]
  cases hb : bad && decide (o.eng < 8)
  · exact congrArg (bits · f.lo f.w) (getR_congr rfl a)
  · exact congrArg (bits · f.lo f.w) (getR_congr rfl a)

theorem settle_outst (d : Dev) (o : Outst) (bad : Bool) : (settle d o bad).fab.outst = d.fab.outst.erase o := by
  rw [settle, xferOut, setF_fab]
  split <;> rfl

theorem settle_rerunStep (d : Dev) (o : Outst) (bad : Bool) : (settle d o bad).rerunStep = d.rerunStep := by
  rw [settle, xferOut, setF_rerunStep]
  split <;> rfl

/-- A request without an answer is settled as refused, with its port's fault and a record of step scope (R351). -/
theorem txnTimeout_eq {o : Outst} (ho : d.fab.outst[n]? = some o) (hleft : stillHeld d o = false) : txnTimeout n d =
    settle (report (gpFault d o.port GP_FAULT_TXN_TIMEOUT)
      { cls := 0x34, kind := 7, unit := o.dst, sub := o.port, oper := if o.read then 2 else 1, other := some o.dst, scope := .step }) o true := by
  rw [txnTimeout, ho]
  exact if_neg (by simp [hleft])

theorem txnTimeout_spec {o : Outst} (ho : d.fab.outst[n]? = some o) (hleft : stillHeld d o = false) :
    (d.inStep = true → (txnTimeout n d).rerunStep = true) ∧
      getB (txnTimeout n d) (GP_FAULT (portDie o.port) (portHalf o.port)) GP_FAULT_TXN_TIMEOUT = true ∧
      (txnTimeout n d).fab.outst = d.fab.outst.erase o := by
  have hne : GP_FAULT (portDie o.port) (portHalf o.port) ≠ XFER_OUT o.die := by
    simp only [GP_FAULT, portDie, portHalf, XFER_OUT]
    omega
  rw [txnTimeout_eq ho hleft]
  refine ⟨fun hstep => ?_, ?_, by rw [settle_outst, report_fab]; rfl⟩
  · rw [settle_rerunStep, rerunStep_report rfl rfl]
    exact Bool.or_eq_true_iff.mpr (.inr hstep)
  · rw [getB, getF_settle _ _ _ _ hne, getF_report]
    exact getB_setB_self d _ _ true (by decide) (by decide)

/-! Shelf-window rows of the host -/

theorem shelfWindowRow_host {r : ShelfRow} (hr : d.shelfFlight[n]? = some r) (hhost : r.req = none) {y : Option FRow × Dev}
    (hy : y = shelfAccess { d with shelfFlight := d.shelfFlight.eraseIdx n } r) :
    shelfWindowRow n d = hostFeed 1 (if r.wr then y.2 else hostRowBack y.2 r (y.1.getD {}).data) := by
  rw [shelfWindowRow, hr, hy]
  dsimp only
  rw [hhost]

/-- A host read of a shelf row changes no memory (R146, R474). -/
theorem shelfAccess_host_read_mem (d : Dev) {r : ShelfRow} (hread : r.wr = false) (hhost : r.ctx = none) : (shelfAccess d r).2.mem = d.mem := by
  unfold shelfAccess
  dsimp only
  rw [hread, hhost]
  split
  · rfl
  · rw [if_neg Bool.false_ne_true, Option.isNone_none, if_pos rfl]
    split
    · exact iteInduction (motive := fun e : Dev => e.mem = d.mem) (fun _ => countParity_mem _ _ _ _) (fun _ => rfl)
    · rfl

end

/-- Settles O43: each command where its condition stands; nothing of a refusal or a host read touches memory. -/
theorem windowsLandAndClose : Obligations.WindowsLandAndClose := by
  unfold Obligations.WindowsLandAndClose
  intro s n m w x o r tag a ha
  refine ⟨fun hx hsent hstale => ?stale, fun hx hopen hturn => ⟨fun hbulk y hy => ?bulk, fun hshelf y hy => ?shelf⟩, fun hw hnone => ?close,
    fun ho hleft => ?timeout, fun hr hreq y hy => ⟨fun hwr => ?hostWrite, fun hrd hctx => ?hostRead⟩, fun hx hrefused hreported => ?report⟩
  case stale =>
    have hland := windowLand_stale (m := m) hx hsent hstale
    refine ⟨becomes_of_act (f := windowLand n m) rfl hland, answers_of_act (f := windowLand n m) rfl (sameMem_of_mem_eq ?_)⟩
    rw [hland, nackReq_mem, dropHeld_mem]
  case bulk =>
    refine becomes_of_act (f := windowLand n m) rfl ?_
    rw [windowLand_turn hx hopen hturn ha, hbulk, hy]
    rfl
  case shelf =>
    refine becomes_of_act (f := windowLand n m) rfl ?_
    rw [windowLand_turn hx hopen hturn ha, if_pos hshelf, hy]
  case close => exact becomes_of_act (f := windowCloseDone w) rfl (windowCloseDone_eq hw hnone)
  case timeout => exact answers_of_act (f := txnTimeout n) rfl (txnTimeout_spec ho hleft)
  case hostWrite =>
    refine becomes_of_act (f := shelfWindowRow n) rfl ?_
    rw [shelfWindowRow_host hr hreq hy, if_pos hwr]
  case hostRead =>
    have hrow : shelfWindowRow n s.dev = hostFeed 1 (hostRowBack y.2 r (y.1.getD {}).data) := by
      rw [shelfWindowRow_host hr hreq hy, hrd, if_neg Bool.false_ne_true]
    refine ⟨becomes_of_act (f := shelfWindowRow n) rfl hrow, answers_of_act (f := shelfWindowRow n) rfl (sameMem_of_mem_eq ?_)⟩
    rw [hrow, hostFeed_mem, hostRowBack_mem, hy, shelfAccess_host_read_mem _ hrd hctx]
  case report => exact becomes_of_act (f := bulkRefuseReport n) rfl (bulkRefuseReport_eq hx hrefused hreported)

end Sys2Proof.Machine
end

section
/-!
PROOFS. Pantry requests that pass their checks (R345, R346, R355, R361, R394, R395, R409, R410, R415, R480, R481).
-/
namespace Sys2Proof.Machine
open Safety

section
variable {d d1 d2 d3 : Dev} {r : PReq} {v n h m : Nat} {host : Option Nat}

/-- A request that takes a copy, a blob or a checkpoint under way. -/
def addWork (d : Dev) (w : Work) : Dev := { d with pan := { d.pan with works := d.pan.works ++ [w] } }

theorem join_eq (hr : takeReq d (fun r => r.op == 6) = some (r, d1)) (hv : payload d1 r host = ((some v, 0), d2))
    (hout : getF d2 FAB_STATE FAB_STATE_STATE = 0) (hfw : fwBusy d2 = false) (hblank : lcState d2 ≠ 0) (hscrapped : lcState d2 ≠ 4)
    (hok : mrOk d2 v r.plen = true) (hfg : ∀ c, d2.res.fg = some c → ctxBits d2 c 128 64 = mrJob v) : join host d = startJoin d2 r.tag v := by
  have hsame : (d2.res.fg.any fun n => ctxBits d2 n 128 64 != mrJob v) = false := by
    cases hc : d2.res.fg with
    | none => rfl
    | some c => simp [hfg c hc]
  rw [join, hr]
  dsimp only
  rw [hv]
  dsimp only
  rw [if_neg (by simp [hout, hfw, hblank, hscrapped]), if_neg (by simp [hok]), hsame, if_neg Bool.false_ne_true]

theorem leave_eq (hr : takeReq d (fun r => r.op == 7) = some (r, d1)) :
    leave d = if inJob d1 then finish (leaveJob d1) r.tag 0 0 else finish d1 r.tag 2 0 := by
  rw [leave, hr]

/-- Two commands whose operations agree on a state's module answer alike there. -/
theorem exec_eq_of_act {i j : Instr} {s : State} {f g : Dev → Dev} (hi : exec i s = act s f) (hj : exec j s = act s g) (h : f s.dev = g s.dev) :
    exec i s = exec j s := by
  rw [hi, hj, act, act, h]

/-- A blob whose header, manifest and destinations pass their checks begins to open (R409). -/
theorem blobLoad_eq (hr : takeReq d (fun r => r.op == 0xA) = some (r, d1)) (hspace : r.pspace = 1)
    (hhdr : reserveBytes d1 r.paddr 64 = (some h, d2)) (hman : reserveBytes d2 (r.paddr + 64) (8 * bits h 96 32) = (some m, d3))
    (hmagic : bits h 0 32 = 1) (hzero : bits h 80 16 = 0) (hid : bits h 63 1 = 1 ∨ bits h 64 16 = 0) (hprot : ctxProt d2 r.ctx = true)
    (hst : ctxState d1 r.ctx = 2 ∨ ctxState d1 r.ctx = 3) (hkey : (keysOf d2 r.ctx).kw.isSome = true)
    (hnew : (keysOf d2 r.ctx).blobs.contains (bits h 32 32, bits h 64 16) = false)
    (hdig : natOfBytes (sha384 (bytesOf (8 * bits h 96 32) m)) = bits h 128 384)
    (hres : (List.range (bits h 96 32)).any (fun i => bits m (64 * i + 22) 2 != 0 || bits m (64 * i + 35) 29 != 0) = false)
    (hown : ((List.range (bits h 96 32)).map (fun i => bits m (64 * i) 22)).all (ownsChunk d3 r.ctx) = true) :
    blobLoad d = addWork d3 { op := 0xA, flags := 0, tag := r.tag, ctx := r.ctx, src := r.paddr, len := bits h 96 32, data := m } := by
  have hform : ¬ (r.pspace ≠ 1 ∨ bits h 0 32 ≠ 1 ∨ bits h 80 16 ≠ 0 ∨ (bits h 63 1 = 0 ∧ bits h 64 16 ≠ 0)) := by omega
  have hstate : ¬ ((!ctxProt d2 r.ctx) = true ∨ (ctxState d1 r.ctx ≠ 2 ∧ ctxState d1 r.ctx ≠ 3) ∨ (keysOf d2 r.ctx).kw.isNone = true ∨
      (keysOf d2 r.ctx).blobs.contains (bits h 32 32, bits h 64 16) = true) := by
    rw [hprot, hnew, Option.isNone_eq_false_iff.mpr hkey]
    rintro (h | ⟨h2, h3⟩ | h | h)
    · cases h
    · exact hst.elim h2 h3
    · cases h
    · cases h
  rw [blobLoad, hr]
  dsimp only
  rw [hhdr]
  dsimp only
  rw [if_neg hform, if_neg hstate, hman]
  dsimp only
  rw [if_neg (by rw [hdig, hres]; simp), hown]
  rfl

theorem ckptOut_eq (hr : takeReq d (fun r => r.op == 0xB) = some (r, d1)) (halign : arg r 0 64 % 128 = 0) (hprot : ctxProt d1 r.ctx = true)
    (hst : ctxState d1 r.ctx = 2 ∨ ctxState d1 r.ctx = 3) (hckpt : (keysOf d1 r.ctx).ckpt = true) (hkey : (keysOf d1 r.ctx).kw.isSome = true)
    (hepoch : epoch d1 < 2 ^ 31) : ckptOut d = addWork d1 { op := 0xB, flags := 0, tag := r.tag, ctx := r.ctx, dst := arg r 0 64 } := by
  have hstate : ¬ ((!ctxProt d1 r.ctx) = true ∨ (ctxState d1 r.ctx ≠ 2 ∧ ctxState d1 r.ctx ≠ 3) ∨ (!(keysOf d1 r.ctx).ckpt) = true ∨
      (keysOf d1 r.ctx).kw.isNone = true ∨ 2 ^ 31 ≤ epoch d1) := by
    rw [hprot, hckpt, Option.isNone_eq_false_iff.mpr hkey]
    rintro (h | ⟨h2, h3⟩ | h | h | h)
    · cases h
    · exact hst.elim h2 h3
    · cases h
    · cases h
    · exact absurd hepoch (Nat.not_lt.mpr h)
  rw [ckptOut, hr]
  dsimp only
  rw [if_neg (by rw [halign]; decide), if_neg hstate, addWork]

theorem copyIn_eq (hr : takeReq d (fun r => r.op == 0xC) = some (r, d1)) (hdst : arg r 0 64 % 128 = 0) (hlen : r.plen % 128 = 0) (hspace : r.pspace = 0) :
    copyIn d = addWork d1 { op := 0xC, flags := 0, tag := r.tag, ctx := r.ctx, src := r.paddr, dst := arg r 0 64, len := r.plen / 128 } := by
  rw [copyIn, hr]
  dsimp only
  rw [if_neg (by rw [hdst, hlen, hspace]; decide), addWork]

theorem copyOut_eq (hr : takeReq d (fun r => r.op == 0xD) = some (r, d1)) : copyOut d =
    addWork d1 { op := 0xD, flags := 0, tag := r.tag, ctx := r.ctx, src := arg r 0 64, dst := arg r 8 64, len := arg r 16 32 } := by
  rw [copyOut, hr]
  rfl

/-- A service window that R345 allows is opened. -/
theorem windowOpen_eq (hr : takeReq d (fun r => r.op == 0xF && !bit r.flags 0) = some (r, d1)) (hn : n = arg r 0 16) (hlt : n < 8192)
    (hv : v = arg r 2 512) (hres : wReserved v = 0) (hep : wEpoch v = 0) (hbase : wBase v % 128 = 0) (hlen : wLen v ≠ 0)
    (hspan : winSpanOk (wBase v) (wLen v) = true) (hok : winOk d1 n v 0 = true) : windowOpen d = finish (openWin d1 n v) r.tag 0 0 := by
  rw [windowOpen, hr]
  dsimp only
  rw [← hn, ← hv, if_neg (by simp [hlt, hres, hep, hbase, hlen, hspan]), if_pos hok]

theorem windowClose_eq (hr : takeReq d (fun r => r.op == 0xF && bit r.flags 0) = some (r, d1)) (hn : n = arg r 0 16) (hlt : n < 8192)
    (hopen : wValid (winDesc d1 n) = true) (hep : wEpoch (winDesc d1 n) = 0) : windowClose d = closeWin d1 n (some r.tag) := by
  rw [windowClose, hr]
  dsimp only
  rw [← hn, if_neg (Nat.not_le.mpr hlt), if_neg (by simp [hopen, hep])]

end

/-- Settles O49: each request past its checks, and a released one as its own command. -/
theorem pantryRequestsForJobsCopiesAndWindows : Obligations.PantryRequestsForJobsCopiesAndWindows := by
  unfold Obligations.PantryRequestsForJobsCopiesAndWindows
  intro s r d1 d2 d3 v n h m host
  refine ⟨fun hr hv hout hfw hblank hscrapped hok hfg => ?join, fun hr hin => ?leave, fun hr hin => ?noJob, fun hr => ⟨?release, fun hop => ?evict⟩,
    fun hr hspace hhdr hman hmagic hzero hid hprot hst hkey hnew hdig hres hown => ?blob, fun hr h1 h2 h3 h4 h5 h6 => ?ckpt,
    fun hr h1 h2 h3 => ?copyIn, fun hr => ?copyOut, fun hr hn h1 hv h2 h3 h4 h5 h6 h7 => ?winOpen, fun hr hn h1 h2 h3 => ?winClose⟩
  case join => exact becomes_of_act (f := join host) rfl (join_eq hr hv hout hfw hblank hscrapped hok hfg)
  case leave => exact becomes_of_act (f := leave) rfl ((leave_eq hr).trans (if_pos hin))
  case noJob => exact becomes_of_act (f := leave) rfl ((leave_eq hr).trans (if_neg (by simp [hin])))
  case release =>
    simp only [List.forall_mem_cons, List.not_mem_nil, false_implies, implies_true, and_true]
    refine ⟨fun hop => exec_eq_of_act (f := pantryRelease host) (g := load host) rfl rfl ?_,
      fun hop => exec_eq_of_act (f := pantryRelease host) (g := deleteReq) rfl rfl ?_,
      fun hop => exec_eq_of_act (f := pantryRelease host) (g := join host) rfl rfl ?_,
      fun hop => exec_eq_of_act (f := pantryRelease host) (g := leave) rfl rfl ?_,
      fun hop => exec_eq_of_act (f := pantryRelease host) (g := stepReq) rfl rfl ?_,
      fun hop => exec_eq_of_act (f := pantryRelease host) (g := rules host) rfl rfl ?_⟩ <;>
      simp only [pantryRelease, hr, hop]
  case evict =>
    cases hf : bit r.flags 0
    · exact exec_eq_of_act (f := pantryRelease host) (g := evictReq false) rfl rfl (by simp only [pantryRelease, hr, hop, hf])
    · exact exec_eq_of_act (f := pantryRelease host) (g := evictReq true) rfl rfl (by simp only [pantryRelease, hr, hop, hf])
  case blob =>
    exact becomes_of_act (f := blobLoad) rfl (blobLoad_eq hr hspace hhdr hman hmagic hzero hid hprot hst hkey hnew hdig hres hown)
  case ckpt => exact becomes_of_act (f := ckptOut) rfl (ckptOut_eq hr h1 h2 h3 h4 h5 h6)
  case copyIn => exact becomes_of_act (f := copyIn) rfl (copyIn_eq hr h1 h2 h3)
  case copyOut => exact becomes_of_act (f := copyOut) rfl (copyOut_eq hr)
  case winOpen => exact becomes_of_act (f := windowOpen) rfl (windowOpen_eq hr hn h1 hv h2 h3 h4 h5 h6 h7)
  case winClose => exact becomes_of_act (f := windowClose) rfl (windowClose_eq hr hn h1 h2 h3)

end Sys2Proof.Machine
end
